-- ==== Sys2Proof/Word.lean ====
section
/-! DEFINITION. The word types of the block: bytes, byte strings and 64-bit words (00_scope.md R9, R10). -/
namespace Sys2Proof

/-- One byte of stored or transported data. -/
abbrev Byte := BitVec 8

/-- A byte string, lowest address first (R10). -/
abbrev Bytes := List Byte

/-- A little-endian 64-bit word of a descriptor, legend tag, token or queue entry. -/
abbrev Word64 := BitVec 64

end Sys2Proof
end

