-- ==== Sys2Proof/Syntax.lean ====
section
/-! DEFINITION. The commands of the block: one constructor per row of opcode_table.json, with the operands the spec
gives the event (its port's payload, the unit it happens at, the step or context it concerns). -/
namespace Sys2Proof

/-- A unit of the block (Tables 01-1 and 11-11). -/
inductive UnitId where
  | slice (n : Fin 132)
  | ms (n : Fin 12)
  | ls (n : Fin 16)
  | hub
deriving DecidableEq, Repr

/-- Which stream operand of a step is meant (Table 08-5). -/
inductive Role where
  | src | dst | ref | act | table | spillA | spillB
deriving DecidableEq, Repr

/-- The request classes of the tension regulator (R283). -/
inductive ReqClass where
  | read | write | remote
deriving DecidableEq, Repr

/-- One beat of the A-port (Table 11-7). -/
structure ABeat where
  data : Bytes
  pos : Bytes
  last : Bool
  index : BitVec 32
  scale : BitVec 16
  poison : Bool
  bindOff : Bool
  buf : BitVec 32
deriving DecidableEq, Repr

/-- What a mark lane of the D-port asks for (Table 11-6). -/
inductive MarkKind where
  | setHard | setSoft | rewind | release
deriving DecidableEq, Repr

/-- One mark lane's operation (R400). -/
structure MarkOp where
  kind : MarkKind
  id : Fin 2
deriving DecidableEq, Repr

/-- What both mark lanes carry in the cycle of a mark row: the mark that the row's own operation on lane 0 names, and lane 1's
operation, if it has one (R400). -/
structure MarkLanes where
  id : Fin 2
  lane1 : Option MarkOp
deriving DecidableEq, Repr

/-- One received beat of the L-port (Table 11-12). -/
structure LBeat where
  data : Bytes
  first : Bool
  last : Bool
  bytes : Nat
  src : BitVec 18
deriving DecidableEq, Repr

/-- Why a slice wakes (R469). -/
inductive WakeCause where
  | dispatch | transaction | port | swatch | pinned | minReady | mapped
deriving DecidableEq, Repr

/-- Where an SRAM error strikes (Table 14-4). -/
inductive SramPlace where
  | roundStitch (step : Nat) (role : Role) (pos : Nat)
  | stagedTile (step chainIdx : Nat)
  | outStitch (step chainIdx : Nat)
  | accumulator (bank set way : Nat)
  | contourRow (row : Nat)
  | sliceControl
  | cacheLine
  | windowData (id granule : Nat)
  | stationControl
  | fifoBank (bank : Fin 2)
  | linkControl
  | stepEntry (slot : Nat)
  | contextState (c : Fin 64)
  | contextKey (c : Fin 64) (previous : Bool)
  | weightKey (w : Fin 16)
  | hubControl
deriving DecidableEq, Repr

/-- The commands. H-port commands carry the frame's `seq` byte and the level of h_rot with the frame. -/
inductive Instr where
  | startInstant (rom : List (BitVec 32))
  | stackIdentityRead (ms : Fin 12) (bits : Nat)
  | sbReady
  | versionSample (u : UnitId) (own : Bool) (peer : BitVec 4)
  | reset
  | supplyLoss
  | thermalTrip
  | thermalTripClear
  | opGrantChange (g : BitVec 2)
  | hLockedFall
  | hLockedRise
  | tallySupplyLoss
  | tallySupplyReturn
  | tPortOpen
  | submissionDoorbell (c : Fin 64) (ring : Fin 4) (count : BitVec 32)
  | completionDoorbell (c : Fin 64) (ring : Fin 4) (count : BitVec 32)
  | ringEnable (c : Fin 64) (ring : Fin 4) (log2 : BitVec 8) (seq : BitVec 8) (rot : Bool)
  | ringDisable (c : Fin 64) (ring : Fin 4) (seq : BitVec 8) (rot : Bool)
  | entryRead (c : Fin 64) (ring : Fin 4) (n : Nat) (data : Bytes) (errs : List Nat)
  | deliver (slot : Nat)
  | compress (slot : Nat)
  | cCompress (slot : Nat)
  | cDecompress (slot : Nat)
  | gatherMerge (slot : Nat)
  | scatter (slot : Nat)
  | mergeOut (slot : Nat)
  | castOn (slot : Nat)
  | rebase (slot : Nat)
  | rechain (slot : Nat)
  | teardown (slot : Nat)
  | resume (slot : Nat)
  | nop (slot : Nat)
  | move (slot : Nat)
  | atlasWrite (slot : Nat)
  | share (slot : Nat)
  | free (slot : Nat)
  | frog (slot : Nat)
  | demote (slot : Nat)
  | promote (slot : Nat)
  | gather (slot : Nat)
  | deliverRows (slot : Nat)
  | gazClear (slot : Nat)
  | send (slot : Nat)
  | recv (slot : Nat)
  | mcast (slot : Nat)
  | descriptorBatch (slot : Nat) (role : Role) (base : Nat) (data : Bytes) (errs : List Nat)
  | slotGrant (sl : Fin 132) (slot : Nat) (role : Role)
  | grant (dst : UnitId) (src : Fin 132)
  | fetch (ms : Fin 12) (src : UnitId)
  | mRequestIssue (ms : Fin 12) (cls : ReqClass) (wr : Bool)
  | mergeCloseTimeout (ms : Fin 12) (cls : ReqClass) (wr : Bool)
  | mReadBeat (ms : Fin 12) (id : BitVec 9) (data : Bytes) (last : Bool) (err : BitVec 16)
  | mWriteAck (ms : Fin 12) (id : BitVec 9)
  | nReadBeat (sl : Fin 132) (id : BitVec 8) (data : Bytes) (last : Bool) (err : BitVec 8)
  | nWriteAck (sl : Fin 132) (id : BitVec 8)
  | cReadBeat (id : BitVec 6) (data : Bytes) (last : Bool) (err : BitVec 2)
  | cWriteAck (id : BitVec 6)
  | write (ms : Fin 12) (src : UnitId)
  | copyOnWriteDone (ms : Fin 12)
  | stitch (sl : Fin 132) (src : UnitId)
  | xlate (sl : Fin 132) (src : Fin 12)
  | expandStart (sl : Fin 132)
  | contourTileDecoded (sl : Fin 132)
  | pairStart (sl : Fin 132)
  | dBeat (sl : Fin 132)
  | frogMarker (sl : Fin 132)
  | dFreePush (sl : Fin 132) (entry : BitVec 64)
  | dFullPop (sl : Fin 132)
  | setHard (sl : Fin 132) (lanes : MarkLanes)
  | setSoft (sl : Fin 132) (lanes : MarkLanes)
  | rewind (sl : Fin 132) (lanes : MarkLanes)
  | release (sl : Fin 132) (lanes : MarkLanes)
  | aBeat (sl : Fin 132) (b : ABeat)
  | aDonePop (sl : Fin 132)
  | tileCompressed (sl : Fin 132)
  | contourBlockCoded (sl : Fin 132)
  | scatterRecord (sl : Fin 132)
  | mergeOutRound (sl : Fin 132)
  | ack (dst : UnitId) (src : UnitId)
  | qpush (sl : Fin 132) (src : UnitId)
  | credit (dst : UnitId) (src : UnitId)
  | nacc (sl : Fin 132) (src : UnitId)
  | ndata (dst : UnitId) (src : Fin 132)
  | summary (sl : Fin 132) (src : Fin 132)
  | atlas (ms : Fin 12) (src : Fin 12)
  | ctl (dst : UnitId)
  | status (src : UnitId)
  | lsend (ls : Fin 16) (src : UnitId)
  | verdict (dst : UnitId) (src : Fin 16)
  | reservedTransaction (dst : UnitId) (rxClass : Bool) (hdr : BitVec 128)
  | stepSuspend (slot : Nat)
  | stepCompletion (slot : Nat)
  | completionRecordWrite (c : Fin 64) (ring : Fin 4)
  | switchIdleTimeout (sl : Fin 132)
  | quantumExpiry (sl : Fin 132)
  | sliceContextMove (sl : Fin 132)
  | itemRelease (c : Fin 64)
  | releaseRecord (c : Fin 64)
  | releaseRingPoll (c : Fin 64)
  | prevSlotRelease (c : Fin 64)
  | sweepDone (c : Fin 64)
  | openUnkeyed (c : Fin 64) (seq : BitVec 8) (rot : Bool)
  | openKeyed (c : Fin 64) (seq : BitVec 8) (rot : Bool)
  | close (c : Fin 64) (seq : BitVec 8) (rot : Bool)
  | abort (c : Fin 64) (seq : BitVec 8) (rot : Bool)
  | scrubPhase2 (c : Fin 64)
  | scrubUnit (c : Fin 64) (u : UnitId)
  | scrubEnd (c : Fin 64)
  | loadContext (c : Fin 64) (seq : BitVec 8) (rot : Bool)
  | rotate (c : Fin 64) (seq : BitVec 8) (rot : Bool)
  | loadWeight (w : Fin 16) (seq : BitVec 8) (rot : Bool)
  | sealWeight (w : Fin 16) (seq : BitVec 8) (rot : Bool)
  | zeroiseContext (c : Fin 64) (seq : BitVec 8) (rot : Bool)
  | zeroiseWeight (w : Fin 16) (seq : BitVec 8) (rot : Bool)
  | measure (seq : BitVec 8) (rot : Bool)
  | bindMaskWrite (w : Fin 16) (mask : BitVec 64) (seq : BitVec 8) (rot : Bool)
  | lRxBeat (ls : Fin 16) (b : LBeat)
  | frameVerdict (ls : Fin 16) (bad : Bool)
  | ingressWordRead (ls : Fin 16)
  | dataFrame (ls : Fin 16)
  | rread (ls : Fin 16)
  | rdata (ls : Fin 16)
  | absentFrame (ls : Fin 16)
  | creditFrame (ls : Fin 16)
  | frameSend (ls : Fin 16)
  | creditTimer (ls : Fin 16)
  | dictionaryWrite (frame : BitVec 128) (rot : Bool)
  | drain (seq : BitVec 8) (rot : Bool)
  | quiesceResume (seq : BitVec 8) (rot : Bool)
  | halt (seq : BitVec 8) (rot : Bool)
  | stationEnableWrite (v : BitVec 16) (seq : BitVec 8) (rot : Bool)
  | linkEnableWrite (v : BitVec 16) (seq : BitVec 8) (rot : Bool)
  | activate (seq : BitVec 8) (rot : Bool)
  | clear (seq : BitVec 8) (rot : Bool)
  | checkpointNow (v : BitVec 8) (seq : BitVec 8) (rot : Bool)
  | lifetimeCheckpoint
  | lifetimeRestore (v : BitVec 64) (len : BitVec 8) (seq : BitVec 8) (rot : Bool)
  | swatchControl (seg : BitVec 16) (v : BitVec 64) (len : BitVec 8) (seq : BitVec 8) (rot : Bool)
  | swatchDone (l : Fin 128)
  | eventNext (seq : BitVec 8) (rot : Bool)
  | fenceSlice (n : BitVec 8) (seq : BitVec 8) (rot : Bool)
  | zeroiseAll (v : BitVec 8) (seq : BitVec 8) (rot : Bool)
  | frameServiceTimeout (frame : BitVec 128) (rot : Bool)
  | counterTick
  | tallyCount (src : UnitId)
  | tallyOpenMessage
  | epochEnd
  | tallyRequest (epoch : BitVec 64)
  | tallyRecordOffer
  | idleEntry (sl : Fin 132)
  | dormantEntry (sl : Fin 132)
  | offEntry (sl : Fin 132)
  | opRequestIdle
  | sliceWake (sl : Fin 132) (cause : WakeCause)
  | wakeComplete (sl : Fin 132)
  | powerWindow
  | sramError (u : UnitId) (correctable : Bool) (place : SramPlace) (addr : BitVec 32)
  | probe
  | probeTimeout (u : UnitId)
deriving DecidableEq, Repr

end Sys2Proof
end

