-- ==== Sys2Proof/Decode.lean ====
section
/-! DEFINITION. The commands that opcode_table.json's bits spell. The table gives none of its rows any bits (the block
has no instruction words), so no word spells a command. -/
namespace Sys2Proof

/-- The command an opcode-table word spells: none, for every word. -/
def decodeTableWord (_nbits _w : Nat) : Option Instr := none

end Sys2Proof
end

