-- ==== Sys2Proof/Machine/Bits.lean ====
section
/-! DEFINITION. Bit fields, byte order, sign extension and the CRC-32C of the block (R10, R60). -/
namespace Sys2Proof.Machine

/-- Bits [lo+w-1:lo] of `x` (R10). -/
def field (x lo w : Nat) : Nat := (x >>> lo) % 2 ^ w

/-- Bit `i` of `x` as a truth value. -/
def bitAt (x i : Nat) : Bool := (x >>> i) % 2 == 1

/-- A truth value as 0 or 1. -/
def b2n (b : Bool) : Nat := if b then 1 else 0

/-- `v` cut to `w` bits and placed at bit `lo`. -/
def place (v lo w : Nat) : Nat := (v % 2 ^ w) <<< lo

/-- Two's complement reading of the low `w` bits. -/
def signed (x w : Nat) : Int :=
  if bitAt x (w - 1) then (Int.ofNat (x % 2 ^ w)) - (Int.ofNat (2 ^ w)) else Int.ofNat (x % 2 ^ w)

/-- Smallest integer not below a / b. -/
def ceilDiv (a b : Nat) : Nat := (a + b - 1) / b

/-- `a` rounded up to a multiple of `b`. -/
def roundUp (a b : Nat) : Nat := ceilDiv a b * b

/-- A byte from a number, cut to 8 bits. -/
def byteOf (n : Nat) : Byte := BitVec.ofNat 8 n

/-- The `n` low bytes of `x`, least significant first (R10). -/
def leBytes : Nat → Nat → Bytes
  | 0, _ => []
  | n + 1, x => byteOf x :: leBytes n (x >>> 8)

/-- A byte string read little-endian (R10). -/
def leNat : Bytes → Nat
  | [] => 0
  | b :: bs => b.toNat + (leNat bs <<< 8)

/-- A byte string read big-endian (the hashes and signatures of R501). -/
def beNat (bs : Bytes) : Nat := bs.foldl (fun acc b => acc * 256 + b.toNat) 0

/-- The `n` low bytes of `x`, most significant first. -/
def beBytes (n x : Nat) : Bytes := (leBytes n x).reverse

/-- `len` bytes of `bs` from `off`; short when the string ends. -/
def cut (bs : Bytes) (off len : Nat) : Bytes := (bs.drop off).take len

/-- `len` bytes of `bs` from `off`, read little-endian. -/
def leAt (bs : Bytes) (off len : Nat) : Nat := leNat (cut bs off len)

/-- `n` zero bytes. -/
def zeros (n : Nat) : Bytes := List.replicate n 0#8

/-- `bs` cut or zero-filled to exactly `n` bytes. -/
def fitTo (n : Nat) (bs : Bytes) : Bytes := bs.take n ++ zeros (n - bs.length)

/-- The byte of `bs` at `i`, zero beyond the end. -/
def byteAt (bs : Bytes) (i : Nat) : Nat := (bs.getD i 0#8).toNat

/-- `bs` with `new` written over it from `off`. -/
def overwrite (bs : Bytes) (off : Nat) (new : Bytes) : Bytes :=
  bs.take off ++ new ++ bs.drop (off + new.length)

/-- Pieces of `n` elements, in order; `fuel` bounds their number. -/
def piecesFuel {α : Type} (fuel n : Nat) (xs : List α) : List (List α) :=
  match fuel with
  | 0 => []
  | k + 1 => if xs.isEmpty then [] else xs.take n :: piecesFuel k n (xs.drop n)

/-- Pieces of `n` elements, in order. -/
def pieces {α : Type} (n : Nat) (xs : List α) : List (List α) := piecesFuel xs.length n xs

/-- One bit of the reflected CRC-32C division (Castagnoli 0x1EDC6F41, reflected 0x82F63B78). -/
def crcBit (c : Nat) : Nat := if c % 2 == 1 then Nat.xor (c >>> 1) 0x82F63B78 else c >>> 1

/-- One byte of the CRC-32C. -/
def crcByte (c : Nat) (b : Byte) : Nat :=
  crcBit (crcBit (crcBit (crcBit (crcBit (crcBit (crcBit (crcBit (Nat.xor c b.toNat))))))))

/-- CRC-32C: input and output reflected, initial value and final XOR 0xFFFFFFFF (R60). -/
def crc32c (bs : Bytes) : Nat := Nat.xor (bs.foldl crcByte 0xFFFFFFFF) 0xFFFFFFFF

/-- Sum of a list of numbers. -/
def sumNat (xs : List Nat) : Nat := xs.foldl (· + ·) 0

/-- Number of 1 bits below bit `n` of `x`. -/
def popBelow (x n : Nat) : Nat := ((List.range n).filter (fun i => bitAt x i)).length

/-- The bits of a byte string, bit (b mod 8) of byte b div 8 first (R85, R152). -/
def bitsOf (bs : Bytes) : List Bool := bs.flatMap (fun b => (List.range 8).map (fun i => bitAt b.toNat i))

/-- A bit list read least significant bit first. -/
def natOfBits : List Bool → Nat
  | [] => 0
  | b :: bs => b2n b + 2 * natOfBits bs

/-- The `w` low bits of `x`, least significant first. -/
def bitList (w x : Nat) : List Bool := (List.range w).map (fun i => bitAt x i)

/-- A bit list packed into bytes, zero-filled to a byte boundary (R153). -/
def packBits (bits : List Bool) : Bytes := (pieces 8 bits).map (fun p => byteOf (natOfBits p))

/-- XOR of two byte strings, as long as the first. -/
def xorBytes : Bytes → Bytes → Bytes
  | [], _ => []
  | a :: as, [] => a :: as
  | a :: as, b :: bs => (a ^^^ b) :: xorBytes as bs

/-- First index at which `p` holds. -/
def findIdxNat {α : Type} (p : α → Bool) (xs : List α) : Option Nat := xs.findIdx? p

/-- The value of a key in an association list. -/
def assoc {α : Type} (k : Nat) (xs : List (Nat × α)) : Option α := (xs.find? (fun e => e.1 == k)).map (·.2)

/-- The list with the element at `i` changed. -/
def modifyAt {α : Type} (i : Nat) (f : α → α) : List α → List α
  | [] => []
  | x :: xs => match i with
    | 0 => f x :: xs
    | k + 1 => x :: modifyAt k f xs

end Sys2Proof.Machine
end

