-- ==== Sys2Proof/Machine/Worim.lean ====
section
/-! DEFINITION. The Worim container: formats, slots, layouts, the legend and the reader's checks 1 to 3
and 5 to 9 (02_worim_container.md). -/
namespace Sys2Proof.Machine

/-- The formats of Table 02-2; the other codes are reserved (R46). -/
inductive Fmt where
  | pass | g3 | g3s | g4f | g4i | g6 | g8 | contour | absent
deriving DecidableEq, Repr

/-- Format code of Table 02-2. -/
def Fmt.code : Fmt → Nat
  | .pass => 0x0 | .g3 => 0x1 | .g3s => 0x2 | .g4f => 0x4 | .g4i => 0x5
  | .g6 => 0x6 | .g8 => 0x8 | .contour => 0xC | .absent => 0xF

/-- The format of a code; none for the reserved codes 3, 7, 9, A, B, D and E (R46). -/
def Fmt.ofCode : Nat → Option Fmt
  | 0x0 => some .pass | 0x1 => some .g3 | 0x2 => some .g3s | 0x4 => some .g4f | 0x5 => some .g4i
  | 0x6 => some .g6 | 0x8 => some .g8 | 0xC => some .contour | 0xF => some .absent
  | _ => none

/-- Stitch size of Table 02-2; CONTOUR is variable and ABSENT has none. -/
def stitchSize : Fmt → Nat
  | .pass => 4096 | .g3 => 3279 | .g3s => 2818 | .g4f => 1344 | .g4i => 1344
  | .g6 => 1856 | .g8 => 2112 | .contour => 0 | .absent => 0

/-- Slot size: the stitch rounded up to 16 bytes (R47). -/
def slotSize (f : Fmt) : Nat := roundUp (stitchSize f) 16

/-- The escalation path from base to ceiling, both included; none for a pair Table 02-3 does not list (R48). -/
def escPath : Fmt → Fmt → Option (List Fmt)
  | .g3, .g3 => some [.g3]
  | .g3s, .g3s => some [.g3s]
  | .g4f, .g4f => some [.g4f]
  | .g4f, .g6 => some [.g4f, .g6]
  | .g4f, .g8 => some [.g4f, .g6, .g8]
  | .g4f, .pass => some [.g4f, .g6, .g8, .pass]
  | .g4i, .g4i => some [.g4i]
  | .g4i, .g6 => some [.g4i, .g6]
  | .g4i, .g8 => some [.g4i, .g6, .g8]
  | .g4i, .pass => some [.g4i, .g6, .g8, .pass]
  | .g6, .g6 => some [.g6]
  | .g6, .g8 => some [.g6, .g8]
  | .g6, .pass => some [.g6, .g8, .pass]
  | .g8, .g8 => some [.g8]
  | .g8, .pass => some [.g8, .pass]
  | .pass, .pass => some [.pass]
  | _, _ => none

/-- G3 and G3S: the expanded tile is T2 (R74). -/
def Fmt.ternary (f : Fmt) : Bool := f == .g3 || f == .g3s

/-- G4F, G4I, G6 and G8: the microscaling gauges (R105). -/
def Fmt.mx (f : Fmt) : Bool := f == .g4f || f == .g4i || f == .g6 || f == .g8

/-- The page layouts of Table 02-5. -/
inductive Layout where
  | dense | packed | variableL
deriving DecidableEq, Repr

/-- Layout of the 2-bit code of a stream word or leaf (Table 08-4); 0b11 is reserved. -/
def Layout.ofCode : Nat → Option Layout
  | 0 => some .dense | 1 => some .packed | 2 => some .variableL | _ => none

/-- The 2-bit code of a layout. -/
def Layout.code : Layout → Nat
  | .dense => 0 | .packed => 1 | .variableL => 2

/-- Offset of tile `t` from the stitch base of a dense or packed page (R50, Table 02-5). -/
def slotOffset (lay : Layout) (tileMap slot t : Nat) : Nat :=
  match lay with
  | .packed => popBelow tileMap t * slot
  | _ => t * slot

/-- Offset of tile `t`'s legend in its legend block (Table 02-5, R53). -/
def legendOffset (lay : Layout) (tileMap t : Nat) : Nat :=
  match lay with
  | .packed => 32 * popBelow tileMap t
  | _ => 32 * t

/-- A legend, field by field (Table 02-6). -/
structure Legend where
  contextTag : Nat
  weightSlot : Nat
  keyGen : Nat
  keyClass : Nat
  version : Nat
  occupancy : Nat
  transposable : Bool
  absent : Bool
  poisoned : Bool
  clipped : Bool
  escalated : Bool
  slotFmt : Nat
  fmt : Nat
  crc : Nat
  blockTile : Nat
  blockOffset : Nat
  storedLen : Nat
  summaryPtr : Nat
  scaleValid : Bool
  tileScale : Nat
  tag : Nat
deriving DecidableEq, Repr

/-- The 32 stored bytes of a legend; reserved fields are written zero (R56, R12). -/
def Legend.toBytes (l : Legend) : Bytes :=
  leBytes 4 (place l.contextTag 16 16 + place l.weightSlot 8 4 + place l.keyGen 6 2 + place l.keyClass 4 2
    + place l.version 0 4)
  ++ leBytes 4 (place l.occupancy 16 16 + place (b2n l.transposable) 12 1 + place (b2n l.absent) 11 1
    + place (b2n l.poisoned) 10 1 + place (b2n l.clipped) 9 1 + place (b2n l.escalated) 8 1
    + place l.slotFmt 4 4 + place l.fmt 0 4)
  ++ leBytes 4 l.crc
  ++ leBytes 4 (place l.blockTile 27 4 + place l.blockOffset 17 10 + place l.storedLen 0 17)
  ++ leBytes 4 l.summaryPtr
  ++ leBytes 4 (place (b2n l.scaleValid) 16 1 + place l.tileScale 0 16)
  ++ leBytes 8 l.tag

/-- The fields of 32 stored bytes; reserved fields are ignored (R56, R65). -/
def Legend.ofBytes (bs : Bytes) : Legend :=
  let w0 := leAt bs 0 4
  let w1 := leAt bs 4 4
  let w3 := leAt bs 12 4
  let w5 := leAt bs 20 4
  { contextTag := field w0 16 16, weightSlot := field w0 8 4, keyGen := field w0 6 2, keyClass := field w0 4 2
    version := field w0 0 4, occupancy := field w1 16 16, transposable := bitAt w1 12, absent := bitAt w1 11
    poisoned := bitAt w1 10, clipped := bitAt w1 9, escalated := bitAt w1 8, slotFmt := field w1 4 4
    fmt := field w1 0 4, crc := leAt bs 8 4, blockTile := field w3 27 4, blockOffset := field w3 17 10
    storedLen := field w3 0 17, summaryPtr := leAt bs 16 4, scaleValid := bitAt w5 16
    tileScale := field w5 0 16, tag := leAt bs 24 8 }

/-- How a version 4 reader treats a version 2 or 3 legend (Table 02-8, R67). -/
def Legend.asVersion4 (l : Legend) : Legend :=
  if l.version == 2 then
    { l with
      keyClass := l.keyClass % 2, weightSlot := 0, escalated := false, clipped := false, transposable := false
      slotFmt := if l.fmt == Fmt.contour.code then Fmt.pass.code else l.fmt
      summaryPtr := 0xFFFFFFFF, scaleValid := false, tileScale := 0 }
  else if l.version == 3 then
    { l with summaryPtr := 0xFFFFFFFF, scaleValid := false, tileScale := 0 }
  else l

/-- An ABSENT legend as the block writes it (R54): slot_fmt is the ceiling in a dense page, 0 in a variable one. -/
def absentLegend (tag keyClass keyGen slotFmt : Nat) : Legend :=
  { contextTag := tag, weightSlot := 0, keyGen := keyGen, keyClass := keyClass, version := 4, occupancy := 0
    transposable := false, absent := true, poisoned := false, clipped := false, escalated := false
    slotFmt := slotFmt, fmt := Fmt.absent.code, crc := 0, blockTile := 0, blockOffset := 0, storedLen := 0
    summaryPtr := 0xFFFFFFFF, scaleValid := false, tileScale := 0, tag := 0 }

/-- A version 4 legend for a fresh present tile, before the codec's fields are filled in (Table 02-6 defaults). -/
def freshLegend (tag keyClass keyGen slotFmt fmt : Nat) : Legend :=
  { absentLegend tag keyClass keyGen slotFmt with absent := false, fmt := fmt }

/-- The stream a tile is read from, as the checks use it (R48, R64). -/
structure StreamFmt where
  layout : Layout
  base : Fmt
  ceiling : Fmt
  bytesStream : Bool
deriving DecidableEq, Repr

/-- Who reads the tile: the reading context's key state and the step's weight fields (R64 checks 2 and 3,
R329, R364, R366). -/
structure Reader where
  keyed : Bool
  tag : Nat
  gens : List Nat
  boundSlots : List Nat
  weightKey : Bool
  weightSlot : Nat
  load : Bool
  remote : Bool
deriving DecidableEq, Repr

/-- What a failed check says of the tile (R64): a metadata cause of Table 08-11, or a weight-key bound (R366). -/
inductive Verdict where
  | pass
  | metadata (cause : Nat)
  | bound
  | integrity
deriving DecidableEq, Repr

/-- First failing verdict of a list, in order (R64). -/
def firstFail : List Verdict → Verdict
  | [] => .pass
  | .pass :: vs => firstFail vs
  | v :: _ => v

/-- A condition that must hold, or the tile has a metadata failure of that cause. -/
def need (ok : Bool) (cause : Nat) : Verdict := if ok then .pass else .metadata cause

/-- Check 1 (R64): the version is 2, 3 or 4. -/
def check1 (l : Legend) : Verdict := need (l.version == 2 || l.version == 3 || l.version == 4) 0x02

/-- The weight-key rules of R366 that a read can break. -/
def checkBound (r : Reader) (l : Legend) : Verdict :=
  if l.keyClass == 2 && !r.load && (!r.weightKey || r.weightSlot != l.weightSlot) then .bound else .pass

/-- Check 2 (R64), with the replacements of R329 (REMOTE pages) and R364 (loads). -/
def check2 (r : Reader) (l : Legend) : Verdict :=
  if r.load then need (l.keyClass == 2 && l.weightSlot == 0 && l.contextTag == 0 && l.keyGen == 0) 0x02
  else if r.remote then need (l.keyClass == 0 && l.contextTag == 0 && l.tag == 0) 0x02
  else need (l.keyClass != 3 && (if r.keyed then l.keyClass != 0 else l.keyClass == 0)
    && (l.keyClass == 1 || l.keyGen == 0) && (l.keyClass == 2 || l.weightSlot == 0)) 0x02

/-- Check 3 (R64): context tag and generation under a context key, binding under a weight key (R352, R362). -/
def check3 (r : Reader) (l : Legend) : Verdict :=
  if r.load || r.remote then .pass
  else if l.keyClass == 1 then need (l.contextTag == r.tag && r.gens.contains l.keyGen) 0x02
  else if l.keyClass == 2 then need (r.boundSlots.contains l.weightSlot) 0x02
  else .pass

/-- Checks 1 to 3, then the bound rules of the tile they pass (R64, R366). -/
def checks123 (r : Reader) (l : Legend) : Verdict := firstFail [check1 l, check2 r l, check3 r l, checkBound r l]

/-- A version 2 or 3 CONTOUR tile (Table 02-8). -/
def oldContour (l : Legend) : Bool := l.version < 4 && l.fmt == Fmt.contour.code

/-- Check 5 (R64): the format is legal and allowed in the page's layout (Tables 02-5 and 02-8). -/
def check5 (st : StreamFmt) (l : Legend) : Verdict :=
  need (match Fmt.ofCode l.fmt with
    | none => false
    | some f =>
      if l.version == 2 && f == .g3s then false
      else if l.version < 4 && st.layout != .dense then false
      else match st.layout with
        | .dense =>
          if f == .contour then l.version < 4 && st.base == .pass && st.ceiling == .pass
          else f == .absent || ((escPath st.base st.ceiling).getD []).contains f
        | .packed => ((escPath st.base st.ceiling).getD []).contains f
        | .variableL => f == .contour || f == .pass || f == .absent) 0x02

/-- Check 6 (R64): slot_fmt, path, escalated and clipped of a dense or packed page's present tile. `raw` is the
legend as stored, which Table 02-8 judges for a version 3 CONTOUR tile. -/
def check6 (st : StreamFmt) (raw l : Legend) : Verdict :=
  if st.layout == .variableL || l.fmt == Fmt.absent.code then .pass
  else if oldContour l then
    need (!l.escalated && !l.clipped && (raw.version == 2 || raw.slotFmt == 0)
      && l.storedLen ≤ 3840 && l.blockOffset == 0 && l.blockTile == 0) 0x02
  else need (l.slotFmt == st.ceiling.code
    && ((escPath st.base st.ceiling).getD []).any (fun f => f.code == l.fmt)
    && l.escalated == (l.fmt != st.base.code) && (!l.clipped || l.fmt == l.slotFmt)) 0x02

/-- Check 7 (R64): the absent flag against the format, and the mask's effective bit against it (R180). -/
def check7 (mapBit : Option Bool) (l : Legend) : Verdict :=
  firstFail [need (l.absent == (l.fmt == Fmt.absent.code)) 0x02,
    match mapBit with
    | none => .pass
    | some b => need (b == !l.absent) 0x04]

/-- Largest occupancy of a format (R59). -/
def occupancyLimit (st : StreamFmt) (fmt : Nat) : Nat :=
  if fmt == Fmt.g3.code || fmt == Fmt.g3s.code then 16384
  else if fmt == Fmt.absent.code then 0
  else if st.bytesStream && (fmt == Fmt.pass.code || fmt == Fmt.contour.code) then 4096 else 2048

/-- Check 8 (R64): occupancy, placement word and scale fields. `blockTiles` is how many legends of the page carry
this tile's block_offset, when known. -/
def check8 (st : StreamFmt) (blockTiles : Option Nat) (l : Legend) : Verdict :=
  need (l.occupancy ≤ occupancyLimit st l.fmt
    && (st.layout == .variableL || oldContour l || (l.blockTile == 0 && l.blockOffset == 0 && l.storedLen == 0))
    && (st.layout != .variableL || (l.blockOffset * 64 + l.storedLen ≤ 65536
        && (match blockTiles with | none => true | some n => l.blockTile < n || l.fmt == Fmt.absent.code)))
    && (!l.scaleValid || l.fmt == Fmt.contour.code || l.fmt == Fmt.pass.code)
    && (l.scaleValid || l.tileScale == 0)) 0x02

/-- Check 9 (R64): a transposed read needs a transposable present tile. -/
def check9 (transposed : Bool) (l : Legend) : Verdict :=
  need (!transposed || l.fmt == Fmt.absent.code || l.transposable) 0x02

/-- Checks 5 to 9 in order (R64). -/
def checks5to9 (st : StreamFmt) (mapBit : Option Bool) (blockTiles : Option Nat) (transposed : Bool)
    (raw l : Legend) : Verdict :=
  firstFail [check5 st l, check6 st raw l, check7 mapBit l, check8 st blockTiles l, check9 transposed l]

end Sys2Proof.Machine
end

