-- ==== Sys2Proof/Machine/Gauge.lean ====
section
/-! DEFINITION. The gauge codecs: T2, G3, G3S, ternarise-on-write, G4F, G4I, G6, G8, PASS, escalation and page
summaries (03_gauge_ternary.md, 04_gauge_mx_escalation.md). Magnitudes are exact natural numbers. -/
namespace Sys2Proof.Machine

/-! ## T2 and trits -/

/-- A trit as its digit of R81: 0, 1 for +1, 2 for −1; 3 is the non-canonical T2 code of Table 03-2. -/
abbrev Trit := Nat

/-- The trit of row `r`, column `c` of a T2 tile (R74, Table 03-2). -/
def t2Trit (t2 : Bytes) (r c : Nat) : Trit :=
  match bitAt (byteAt t2 (32 * r + c / 8)) (c % 8), bitAt (byteAt t2 (32 * r + 16 + c / 8)) (c % 8) with
  | false, false => 0 | true, false => 1 | true, true => 2 | false, true => 3

/-- The 16,384 trits of a T2 tile in row-major order (R76). -/
def t2Trits (t2 : Bytes) : List Trit :=
  (List.range 128).flatMap (fun r =>
    let row := cut t2 (32 * r) 32
    let nz := leNat (row.take 16)
    let sg := leNat (row.drop 16)
    (List.range 128).map (fun c =>
      match bitAt nz c, bitAt sg c with
      | false, false => 0 | true, false => 1 | true, true => 2 | false, true => 3))

/-- One T2 row of 128 trits: nonzero plane, then sign plane (R74). -/
def t2Row (ts : List Trit) : Bytes :=
  leBytes 16 (natOfBits (ts.map (fun t => t == 1 || t == 2))) ++ leBytes 16 (natOfBits (ts.map (fun t => t == 2)))

/-- The T2 tile of 16,384 trits in row-major order (R74, R96). -/
def t2OfTrits (ts : List Trit) : Bytes := (pieces 128 ts).flatMap t2Row

/-- The trits transposed: row r, column c takes column r, row c (R97). -/
def transposeRows : List (List Trit) → Nat → List (List Trit)
  | _, 0 => []
  | rows, n + 1 => rows.map (fun r => r.headD 0) :: transposeRows (rows.map (fun r => r.drop 1)) n

/-- The trits of the transposed tile (R97). -/
def transposeTrits (ts : List Trit) : List Trit := (transposeRows (pieces 128 ts) 128).flatten

/-- Nonzero trits (R59). -/
def tritOccupancy (ts : List Trit) : Nat := (ts.filter (fun t => t == 1 || t == 2)).length

/-- A legal scale of a ternary tile (R79). -/
def legalScale (s : Nat) : Bool := s ≤ 0x7F7F

/-! ## G3 -/

/-- Five digits in base 243, the first least significant (R81). -/
def base243 (ds : List Nat) : Nat := ds.foldr (fun d acc => d + 3 * acc) 0

/-- A G3 stitch: 3,277 bytes of five trits and the scale (R80, R81). -/
def encodeG3 (ts : List Trit) (scale : Nat) : Bytes :=
  (pieces 5 ts).map (fun p => byteOf (base243 p)) ++ leBytes 2 scale

/-- The five digits of a byte. -/
def digits3 : Nat → Nat → List Nat
  | 0, _ => []
  | n + 1, v => v % 3 :: digits3 n (v / 3)

/-- Decode a G3 stitch; none when a byte or the scale is illegal (R81, R103). -/
def decodeG3 (st : Bytes) : Option (List Trit × Nat) :=
  let codes := (st.take 3277).map (·.toNat)
  let scale := leAt st 3277 2
  if (codes.take 3276).all (· ≤ 242) && (codes.getD 3276 0) ≤ 80 && legalScale scale then
    some ((codes.flatMap (digits3 5)).take 16384, scale)
  else none

/-! ## G3S -/

/-- Index of a position pair in the order of R83. -/
def pairIndex : Nat → Nat → Nat
  | 0, 1 => 0 | 0, 2 => 1 | 0, 3 => 2 | 1, 2 => 3 | 1, 3 => 4 | _, _ => 5

/-- The position pair of an index (R83, R191). -/
def pairPos : Nat → Nat × Nat
  | 0 => (0, 1) | 1 => (0, 2) | 2 => (0, 3) | 3 => (1, 2) | 4 => (1, 3) | _ => (2, 3)

/-- Positions of the nonzero trits of a group. -/
def nonzeroPos (g : List Trit) : List Nat := (List.range 4).filter (fun p => g.getD p 0 != 0)

/-- State of a group of four trits; none with three or four nonzeros (R83). -/
def groupState (g : List Trit) : Option Nat :=
  let n := fun p => if g.getD p 0 == 2 then 1 else 0
  match nonzeroPos g with
  | [] => some 0
  | [p] => some (1 + 2 * p + n p)
  | [p, q] => some (9 + 4 * pairIndex p q + 2 * n p + n q)
  | _ => none

/-- A trit digit from its n value (R83). -/
def tritOfN (n : Nat) : Trit := if n == 1 then 2 else 1

/-- The group of a state 0 to 32 (Table 03-4). -/
def groupOfState (st : Nat) : List Trit :=
  if st == 0 then [0, 0, 0, 0]
  else if st ≤ 8 then (List.range 4).map (fun p => if p == (st - 1) / 2 then tritOfN ((st - 1) % 2) else 0)
  else
    let pr := pairPos ((st - 9) / 4)
    let np := (st - 9) % 4 / 2
    let nq := (st - 9) % 2
    (List.range 4).map (fun p => if p == pr.1 then tritOfN np else if p == pr.2 then tritOfN nq else 0)

/-- All values of a list of options, or none. -/
def allSome {α : Type} : List (Option α) → Option (List α)
  | [] => some []
  | none :: _ => none
  | some x :: xs => (allSome xs).map (x :: ·)

/-- Pair codes of consecutive states (R84). -/
def pairCodes : List Nat → List Nat
  | a :: b :: rest => (a + 33 * b) :: pairCodes rest
  | _ => []

/-- A G3S stitch; none when a group has three or four nonzeros (R82 to R85). -/
def encodeG3S (ts : List Trit) (scale : Nat) : Option Bytes :=
  (allSome ((pieces 4 ts).map groupState)).map (fun states =>
    packBits ((pairCodes states).flatMap (bitList 11)) ++ leBytes 2 scale)

/-- Decode a G3S stitch; none when a code is above 1,088 or the scale is illegal (R84, R85, R103). -/
def decodeG3S (st : Bytes) : Option (List Trit × Nat) :=
  let codes := (pieces 11 (bitsOf (st.take 2816))).map natOfBits
  let scale := leAt st 2816 2
  if codes.all (· ≤ 1088) && legalScale scale then
    some (codes.flatMap (fun c => groupOfState (c % 33) ++ groupOfState (c / 33)), scale)
  else none

/-! ## BF16 as exact magnitudes -/

/-- Classes of R91; a finite value carries its sign and its magnitude in units of 2^−140. -/
inductive BfClass where
  | zero | finite (neg : Bool) (mag : Nat) | infinite (neg : Bool) | nan
deriving DecidableEq, Repr

/-- Class of a BF16 encoding: subnormals are zero (R91, R114). -/
def bfClass (v : Nat) : BfClass :=
  let e := field v 7 8
  let m := field v 0 7
  let neg := bitAt v 15
  if e == 255 then (if m == 0 then .infinite neg else .nan)
  else if e == 0 then .zero
  else .finite neg ((128 + m) <<< (e + 6))

/-- Magnitude of the finite part of a value; 0 for every other class (R114). -/
def bfMag (v : Nat) : Nat := match bfClass v with | .finite _ m => m | _ => 0

/-- Sign of a value as R93 and R117 use it. -/
def bfNeg (v : Nat) : Bool := bitAt v 15

/-- Infinite or NaN. -/
def bfBad (v : Nat) : Bool := field v 7 8 == 255

/-- 2^−126 in units of 2^−140: the smallest normal BF16 magnitude. -/
def minNormal : Nat := 1 <<< 14

/-- BF16 encoding of a magnitude that is exact in BF16, with the flush and clamp of R112. -/
def bfOfMag (neg : Bool) (mag : Nat) : Nat :=
  if mag < minNormal then 0
  else
    let e := Nat.log2 mag
    let enc := if e - 14 + 1 > 254 then 0x7F7F else ((e - 13) <<< 7) + ((mag >>> (e - 7)) % 128)
    enc + (if neg then 0x8000 else 0)

/-- A magnitude given in units of 2^−`u` rounded to BF16, to nearest with ties to even on BF16's grid, whose finest step is
2^−133; a result below 2^−126 becomes 0, one above the largest finite value 0x7F80 (R92). -/
def bfRound (u mag : Nat) : Nat :=
  let e := Nat.log2 mag
  let k := Nat.max (e - 7) (u - 133)
  let up := if k == 0 then 7 - e else 0
  let q := (mag <<< up) >>> k
  let rest := (mag <<< up) % 2 ^ k
  let m := if 2 * rest > 2 ^ k || (2 * rest == 2 ^ k && q % 2 == 1) then q + 1 else q
  -- the result is m * 2^(k - up - u), with m at most 256
  let code := m + 128 * (k + 133 - up - u)
  if m < 128 then 0 else if code ≥ 0x7F80 then 0x7F80 else code

/-- The 2,048 BF16 values of an expanded tile (R105). -/
def bfValues (tile : Bytes) : List Nat := (pieces 2 tile).map leNat

/-- The expanded tile of BF16 values (R105). -/
def bfTile (vs : List Nat) : Bytes := vs.flatMap (leBytes 2)

/-- BF16 values other than +0 and −0 (R59). -/
def bfOccupancy (vs : List Nat) : Nat := (vs.filter (fun v => v % 0x8000 != 0)).length

/-! ## Ternarise-on-write -/

/-- The scale of R92: the exact mean of the finite magnitudes, rounded to BF16. -/
def ternScale (vs : List Nat) : Nat := bfRound (140 + 14) (sumNat (vs.map bfMag))

/-- The trit of a value under R93. -/
def ternTrit (scale v : Nat) : Trit :=
  match bfClass v with
  | .infinite neg => if neg then 2 else 1
  | .zero => 0
  | .nan => 0
  | .finite neg mag =>
    if scale == 0 then 0 else if 2 * mag ≥ bfMag scale then (if neg then 2 else 1) else 0

/-- Rank of a value in the 2:4 selection: infinite above all, zero and NaN as 0 (R94). -/
def selectRank (v : Nat) : Nat :=
  match bfClass v with
  | .infinite _ => 1 <<< 300
  | .finite _ m => m
  | _ => 0

/-- Whether position `p` is among the two largest of its group, ties to the lower column (R94). -/
def selected (g : List Nat) (p : Nat) : Bool :=
  let r := fun q => selectRank (g.getD q 0)
  ((List.range 4).filter (fun q => r q > r p || (r q == r p && q < p))).length < 2

/-- The trits of a ternarised tile (R93, R94). -/
def ternTrits (f : Fmt) (vs : List Nat) : List Trit :=
  let scale := ternScale vs
  if f == .g3s then
    (pieces 4 vs).flatMap (fun g =>
      (List.range g.length).map (fun p => if selected g p then ternTrit scale (g.getD p 0) else 0))
  else vs.map (ternTrit scale)

/-! ## Microscaling elements -/

/-- Q of Table 04-1 in units of 2^−9. -/
def elemQ : Fmt → Nat
  | .g4f => 6 * 512 | .g4i => 7 * 512 | .g6 => 28 * 512 | _ => 448 * 512

/-- Lane shift s of Table 04-1. -/
def laneShift : Fmt → Nat
  | .g6 => 2 | _ => 0

/-- Block size of Table 04-1. -/
def blockSize : Fmt → Nat
  | .g6 => 29 | .g8 => 33 | _ => 21

/-- Bits per element of Table 04-1. -/
def elemBits : Fmt → Nat
  | .g6 => 6 | .g8 => 8 | _ => 4

/-- E4M3 magnitude of a 7-bit code in units of 2^−9 (Table 04-2). -/
def e4m3Mag (c : Nat) : Nat :=
  let e := c / 8
  let m := c % 8
  if e == 0 then m else (8 + m) <<< (e - 1)

/-- E3M2 magnitude of a 5-bit code in units of 2^−9. -/
def e3m2Mag (c : Nat) : Nat :=
  let e := c / 4
  let m := c % 4
  if e == 0 then m * 32 else ((4 + m) <<< (e - 1)) * 32

/-- E2M1 magnitude of a 3-bit code in units of 2^−9. -/
def e2m1Mag (c : Nat) : Nat :=
  match c with
  | 0 => 0 | 1 => 256 | 2 => 512 | 3 => 768 | 4 => 1024 | 5 => 1536 | 6 => 2048 | _ => 3072

/-- Element value of a code: sign and magnitude in units of 2^−9; none for an illegal code (Table 04-2). -/
def elemValue (f : Fmt) (c : Nat) : Option (Bool × Nat) :=
  match f with
  | .g4i => if c == 8 then none else if c < 8 then some (false, c * 512) else some (true, (16 - c) * 512)
  | .g4f => if c == 8 then none else some (c ≥ 8, e2m1Mag (c % 8))
  | .g6 => if c == 0x20 then none else some (c ≥ 32, e3m2Mag (c % 32))
  | _ => if c == 0x80 || c % 128 == 0x7F then none else some (c ≥ 128, e4m3Mag (c % 128))

/-- The magnitude grid of a format: codes without their sign (Table 04-2). -/
def elemGrid : Fmt → List (Nat × Nat)
  | .g4f => (List.range 8).map (fun c => (c, e2m1Mag c))
  | .g4i => (List.range 8).map (fun c => (c, c * 512))
  | .g6 => (List.range 32).map (fun c => (c, e3m2Mag c))
  | _ => (List.range 127).map (fun c => (c, e4m3Mag c))

/-- Distance of two numbers. -/
def dist (a b : Nat) : Nat := if a ≥ b then a - b else b - a

/-- The grid code whose magnitude times `x` is nearest to `target`, ties to the even code (R116, R117). -/
def nearestCode (grid : List (Nat × Nat)) (x target : Nat) : Nat :=
  (grid.foldl (fun (best : Nat × Nat) (g : Nat × Nat) =>
    let d := dist (g.2 * x) target
    if d < best.2 || (d == best.2 && g.1 % 2 == 0) then (g.1, d) else best) (0, target + 1)).1

/-- Sign bit placed on a magnitude code: two's complement for G4I, a sign bit otherwise; zero stays positive (R116). -/
def signCode (f : Fmt) (neg : Bool) (c : Nat) : Nat :=
  if c == 0 || !neg then c
  else match f with
    | .g4i => 16 - c
    | .g4f => c + 8
    | .g6 => c + 32
    | _ => c + 128

/-- X = 2^(code − 127) in units of 2^−140 (R112, R115). -/
def scaleX (code : Nat) : Nat := 1 <<< (code + 13)

/-- The decoded BF16 value of magnitude `m9` (units of 2^−9) times X, flushed and clamped (R112). -/
def mxValue (neg : Bool) (m9 x : Nat) : Nat := bfOfMag neg ((m9 * x) >>> 9)

/-- A decoded value below 2^−126 is flushed before the exactness of the shift matters: the product in 2^−149. -/
def mxBf (neg : Bool) (m9 x : Nat) : Nat := if m9 * x < minNormal <<< 9 then 0 else mxValue neg m9 x

/-- One coded block: scale code, element codes, lane entries (position, E4M3 code) and the sat bit (R109, R110). -/
structure MxBlock where
  scale : Nat
  elems : List Nat
  lane : List (Nat × Nat)
  sat : Bool
deriving DecidableEq, Repr

/-- The third largest of a list, counting equals separately (R115). -/
def thirdLargest (ms : List Nat) : Nat :=
  let drop1 := fun (l : List Nat) => l.erase (l.foldl Nat.max 0)
  (drop1 (drop1 ms)).foldl Nat.max 0

/-- Largest of a list. -/
def largest (ms : List Nat) : Nat := ms.foldl Nat.max 0

/-- The scale code of R115 for magnitude `m`: the smallest e with m ≤ Q·2^e, floored at −127; `fuel` bounds the search. -/
def scaleSearch (q m : Nat) : Nat → Nat → Nat
  | 0, code => code
  | fuel + 1, code => if m * 512 ≤ q * scaleX code then code else scaleSearch q m fuel (code + 1)

/-- The scale code of a block (R115). -/
def blockScale (f : Fmt) (ms : List Nat) : Nat :=
  let m3 := if f == .g8 then largest ms else thirdLargest ms
  let m := if m3 == 0 then largest ms else m3
  if m == 0 then 0 else scaleSearch (elemQ f) m 255 0

/-- Whether element `v` is out of range under scale `code` (R116). -/
def outOfRange (f : Fmt) (code v : Nat) : Bool := bfBad v || bfMag v * 512 > elemQ f * scaleX code

/-- The element code of an in-range value (R116). -/
def elemCode (f : Fmt) (code v : Nat) : Nat :=
  signCode f (bfNeg v) (nearestCode (elemGrid f) (scaleX code) (bfMag v * 512))

/-- Whether the unrounded lane quotient is above 464 (R117, R118). -/
def laneAbove (f : Fmt) (code v : Nat) : Bool := bfMag v > 464 * (scaleX code <<< laneShift f)

/-- The lane value of R117, held at 448 when above (R122 item 4). -/
def laneCode (f : Fmt) (code v : Nat) : Nat :=
  let c := if laneAbove f code v then 0x7E
    else nearestCode ((List.range 127).map (fun c => (c, e4m3Mag c))) (scaleX code <<< laneShift f) (bfMag v * 512)
  if bfNeg v then c + 128 else c

/-- A value with its position. -/
def indexed (vs : List Nat) : List (Nat × Nat) := (List.range vs.length).zip vs

/-- Lane overflow of R118 for a block at a format. -/
def laneOverflow (f : Fmt) (vs : List Nat) : Bool :=
  let code := blockScale f (vs.map bfMag)
  let out := vs.filter (outOfRange f code)
  if f == .g8 then vs.any bfBad
  else out.length > 2 || out.any bfBad || out.any (laneAbove f code)

/-- The block of R115 to R117. -/
def codeBlock (f : Fmt) (vs : List Nat) : MxBlock :=
  let code := blockScale f (vs.map bfMag)
  { scale := code
    elems := vs.map (fun v => if outOfRange f code v then 0 else elemCode f code v)
    lane := ((indexed vs).filter (fun e => outOfRange f code e.2)).map (fun e => (e.1, laneCode f code e.2))
    sat := false }

/-- An input as R122 item 1 replaces it. -/
def satInput (v : Nat) : Nat :=
  match bfClass v with
  | .nan => 0
  | .infinite neg => if neg then 0xFF7F else 0x7F7F
  | _ => v

/-- The block of R122 for a block with lane overflow at the ceiling. -/
def satBlock (f : Fmt) (vs : List Nat) : MxBlock :=
  let vs' := vs.map satInput
  let code := blockScale f (vs'.map bfMag)
  let out := (indexed vs').filter (fun e => outOfRange f code e.2)
  let beats := fun (a b : Nat × Nat) => bfMag a.2 > bfMag b.2 || (bfMag a.2 == bfMag b.2 && a.1 < b.1)
  let laneSet := if f == .g8 then [] else out.filter (fun e => ((out.filter (fun o => beats o e)).length < 2))
  let inLane := fun (p : Nat) => laneSet.any (fun e => e.1 == p)
  let maxCode := match f with | .g4f => 7 | .g4i => 7 | .g6 => 31 | _ => 0x7E
  { scale := code
    elems := (indexed vs').map (fun e =>
      if inLane e.1 then 0
      else if outOfRange f code e.2 then signCode f (bfNeg e.2) maxCode
      else elemCode f code e.2)
    lane := laneSet.map (fun e => (e.1, laneCode f code e.2))
    sat := f != .g8 && (vs.any bfBad || out.length > 2 || laneSet.any (fun e => laneAbove f code e.2)) }

/-- The lane word of a block (Table 04-4). -/
def laneWord (b : MxBlock) : Nat :=
  let e0 := b.lane.getD 0 (0, 0)
  let e1 := b.lane.getD 1 (0, 0)
  place (b2n b.sat) 28 1 + place b.lane.length 26 2 + place e1.2 18 8 + place e1.1 13 5 + place e0.2 5 8
    + place e0.1 0 5

/-- The stored bytes of a block (Table 04-3). -/
def blockBytes (f : Fmt) (b : MxBlock) : Bytes :=
  byteOf b.scale :: (packBits (b.elems.flatMap (bitList (elemBits f)))
    ++ (if f == .g8 then [] else leBytes 4 (laneWord b)))

/-- Parse a stored block; none where R108, R110 or R111 is broken (R131). -/
def parseBlock (f : Fmt) (bs : Bytes) : Option MxBlock :=
  let n := 4 * elemBits f
  let elems := (pieces (elemBits f) (bitsOf (cut bs 1 n))).map natOfBits
  let w := leAt bs (1 + n) 4
  let count := field w 26 2
  let e0 := (field w 0 5, field w 5 8)
  let e1 := (field w 13 5, field w 18 8)
  let lane := if f == .g8 then [] else [e0, e1].take count
  let laneOk := fun (e : Nat × Nat) =>
    e.2 % 128 != 0x7F && e.2 % 128 != 0 && elems.getD e.1 0 == 0
  let b : MxBlock := { scale := byteAt bs 0, elems := elems, lane := lane, sat := f != .g8 && bitAt w 28 }
  if byteAt bs 0 == 0xFF || elems.any (fun c => (elemValue f c).isNone) then none
  else if f != .g8 && (field w 29 3 != 0 || count == 3 || !(lane.all laneOk)
      || (count == 2 && e0.1 ≥ e1.1) || (count < 2 && e1 != (0, 0)) || (count < 1 && e0 != (0, 0))) then none
  else some b

/-- The 32 decoded BF16 values of a block (R112). -/
def decodeBlock (f : Fmt) (b : MxBlock) : List Nat :=
  let x := scaleX b.scale
  (indexed b.elems).map (fun e =>
    match b.lane.find? (fun l => l.1 == e.1) with
    | some l => mxBf (l.2 ≥ 128) (e4m3Mag (l.2 % 128)) (x <<< laneShift f)
    | none => match elemValue f e.2 with
      | some v => mxBf v.1 v.2 x
      | none => 0)

/-- Square of the difference of two signed magnitudes. -/
def sqDiff (na : Bool) (a : Nat) (nb : Bool) (b : Nat) : Nat :=
  let d := if na == nb then dist a b else a + b
  d * d

/-- The error test of R119 on a block, evaluated exactly; `t` is escalation_threshold. -/
def errorFails (f : Fmt) (t : Nat) (vs : List Nat) : Bool :=
  let rs := decodeBlock f (codeBlock f vs)
  let lhs := sumNat ((vs.zip rs).map (fun p => sqDiff (bfNeg p.1) (bfMag p.1) (bfNeg p.2) (bfMag p.2)))
  let rhs := sumNat (vs.map (fun v => bfMag v * bfMag v))
  t != 0 && lhs * 2 ^ 32 > t * t * rhs

/-- Trouble of a block at a format (R120). -/
def blockTrouble (f : Fmt) (t : Nat) (vs : List Nat) : Bool := laneOverflow f vs || errorFails f t vs

/-- A coded tile: its format, stitch, decoded tile and whether it clipped (R121 to R124). -/
structure Coded where
  fmt : Fmt
  stitch : Bytes
  expanded : Bytes
  clipped : Bool
  occupancy : Nat
deriving DecidableEq, Repr

/-- All 64 blocks of a tile at a format without trouble. -/
def codeAt (f : Fmt) (vs : List Nat) : Coded :=
  if f == .pass then
    { fmt := .pass, stitch := bfTile vs, expanded := bfTile vs, clipped := false, occupancy := bfOccupancy vs }
  else
    let blocks := (pieces 32 vs).map (codeBlock f)
    let dec := blocks.flatMap (decodeBlock f)
    { fmt := f, stitch := blocks.flatMap (blockBytes f), expanded := bfTile dec, clipped := false
      occupancy := bfOccupancy dec }

/-- The tile saturated at the ceiling (R122). -/
def codeSaturated (f : Fmt) (vs : List Nat) : Coded :=
  let blocks := (pieces 32 vs).map (fun b => if laneOverflow f b then satBlock f b else codeBlock f b)
  let dec := blocks.flatMap (decodeBlock f)
  { fmt := f, stitch := blocks.flatMap (blockBytes f), expanded := bfTile dec, clipped := true
    occupancy := bfOccupancy dec }

/-- Code a tile along its path: the first format without trouble, else the ceiling saturated (R49, R121). -/
def codeTile (t : Nat) (vs : List Nat) : List Fmt → Coded
  | [] => codeAt .pass vs
  | [f] =>
    if f == .pass || !((pieces 32 vs).any (blockTrouble f t)) then codeAt f vs else codeSaturated f vs
  | f :: fs => if f == .pass || !((pieces 32 vs).any (blockTrouble f t)) then codeAt f vs else codeTile t vs fs

/-- Decode a G4F, G4I, G6 or G8 stitch; none when a block breaks R131. The legend's clipped flag licenses sat. -/
def decodeMx (f : Fmt) (clipped : Bool) (st : Bytes) : Option Bytes :=
  match allSome ((pieces (blockSize f) (st.take (64 * blockSize f))).map (parseBlock f)) with
  | none => none
  | some bs => if bs.any (·.sat) && !clipped then none else some (bfTile (bs.flatMap (decodeBlock f)))

/-- Code a tile from T2 input; none when R86 refuses it. -/
def codeT2 (f : Fmt) (t2 : Bytes) (scale : Nat) : Option Coded :=
  let ts := t2Trits t2
  if ts.any (· == 3) || !legalScale scale then none
  else (if f == .g3s then encodeG3S ts scale else some (encodeG3 ts scale)).map (fun st =>
    { fmt := f, stitch := st, expanded := t2OfTrits ts, clipped := false, occupancy := tritOccupancy ts })

/-- Code a tile by ternarise-on-write (R90 to R95). -/
def codeTernarise (f : Fmt) (vs : List Nat) : Coded :=
  let ts := ternTrits f vs
  let scale := ternScale vs
  { fmt := f, stitch := if f == .g3s then (encodeG3S ts scale).getD [] else encodeG3 ts scale
    expanded := t2OfTrits ts, clipped := vs.any bfBad, occupancy := tritOccupancy ts }

/-! ## Page summaries -/

/-- Signed comparison value of an E4M3 bound code in units of 2^−9; 0x7F and 0xFF are unbounded (R136, R137). -/
def boundKey (c : Nat) : Int :=
  if c == 0x7F then 1 <<< 40 else if c == 0xFF then -(1 <<< 40)
  else if c ≥ 128 then -(Int.ofNat (e4m3Mag (c % 128))) else Int.ofNat (e4m3Mag c)

/-- Smallest E4M3 grid code whose value is at or above r ÷ 2^(Y−127), outward (R136). -/
def upperBound (y : Nat) (neg : Bool) (mag : Nat) : Nat :=
  let x := scaleX y
  if neg then
    -- the largest magnitude at or below |r|
    let c := ((List.range 127).filter (fun c => e4m3Mag c * x ≤ mag * 512)).foldl Nat.max 0
    if c == 0 then 0 else c + 128
  else match (List.range 127).find? (fun c => e4m3Mag c * x ≥ mag * 512) with
    | some c => c
    | none => 0x7F

/-- Largest E4M3 grid code whose value is at or below r ÷ 2^(Y−127), outward (R136). -/
def lowerBound (y : Nat) (neg : Bool) (mag : Nat) : Nat :=
  let x := scaleX y
  if neg then match (List.range 127).find? (fun c => e4m3Mag c * x ≥ mag * 512) with
    | some c => if c == 0 then 0 else c + 128
    | none => 0xFF
  else ((List.range 127).filter (fun c => e4m3Mag c * x ≤ mag * 512)).foldl Nat.max 0

/-- Exact magnitude of a BF16 value, subnormals included, in units of 2^−140. -/
def bfExact (v : Nat) : Nat :=
  if field v 7 8 == 0 then field v 0 7 <<< 7 else bfMag v

/-- The bounds (u, l) one value contributes (Table of R136). -/
def valueBounds (y v : Nat) : Nat × Nat :=
  match bfClass v with
  | .nan => (0x7F, 0xFF)
  | .infinite false => (0x7F, lowerBound y false (bfMag 0x7F7F))
  | .infinite true => (upperBound y true (bfMag 0x7F7F), 0xFF)
  | _ => (upperBound y (bfNeg v) (bfExact v), lowerBound y (bfNeg v) (bfExact v))

/-- Merge of two bound pairs: the larger upper and the smaller lower (R137). -/
def mergeBounds (a b : Nat × Nat) : Nat × Nat :=
  (if boundKey b.1 > boundKey a.1 then b.1 else a.1, if boundKey b.2 < boundKey a.2 then b.2 else a.2)

/-- Pointwise merge of two lists of bound pairs. -/
def mergeAll (as bs : List (Nat × Nat)) : List (Nat × Nat) := (as.zip bs).map (fun p => mergeBounds p.1 p.2)

/-- Fold of the spans of a tile's bounds onto its first span: value v contributes at j = v mod N (R325). -/
def foldSpans : List (List (Nat × Nat)) → List (Nat × Nat)
  | [] => []
  | [s] => s
  | s :: rest => mergeAll s (foldSpans rest)

/-- The contribution of a tile to its entry: N bound pairs (R136, R325). -/
def tileBounds (n y : Nat) (poisoned : Bool) (vs : List Nat) : List (Nat × Nat) :=
  if poisoned then List.replicate n (0x7F, 0xFF) else foldSpans (pieces n (vs.map (valueBounds y)))

end Sys2Proof.Machine
end

