-- ==== Sys2Proof/Machine/Crypto.lean ====
section
/-! DEFINITION. The published primitives of Table 00-5: AES-256 (FIPS 197), GHASH (SP 800-38D), SHA-384 (FIPS 180-4),
HMAC for RFC 6979, and ECDSA over P-384, with the block's counter blocks (10_contexts_security.md). -/
namespace Sys2Proof.Machine

/-! ## AES-256 -/

/-- Multiplication by x in the field of AES. -/
def xtime (a : Nat) : Nat := if a < 128 then 2 * a else Nat.xor (2 * a - 256) 0x1B

/-- Product in the field of AES over the bits of `b`, low bit first; `n` bits are taken. -/
def gfMul8 : Nat → Nat → Nat → Nat
  | 0, _, _ => 0
  | n + 1, a, b => Nat.xor (if b % 2 == 1 then a else 0) (gfMul8 n (xtime a) (b / 2))

/-- Inverse in the field of AES as the 254th power; 0 maps to 0. -/
def gfInv8 (a : Nat) : Nat :=
  let sq := fun x => gfMul8 8 x x
  let a2 := sq a
  let a4 := sq a2
  let a8 := sq a4
  let a16 := sq a8
  let a32 := sq a16
  let a64 := sq a32
  let a128 := sq a64
  gfMul8 8 a128 (gfMul8 8 a64 (gfMul8 8 a32 (gfMul8 8 a16 (gfMul8 8 a8 (gfMul8 8 a4 a2)))))

/-- Rotate an 8-bit number left. -/
def rotl8 (x k : Nat) : Nat := (x <<< k) % 256 + x >>> (8 - k)

/-- The S-box of FIPS 197: inverse, then the affine map. -/
def sbox (a : Nat) : Nat :=
  let b := gfInv8 a
  Nat.xor (Nat.xor (Nat.xor (Nat.xor (Nat.xor b (rotl8 b 1)) (rotl8 b 2)) (rotl8 b 3)) (rotl8 b 4)) 0x63

/-- Round constants. -/
def rcon : Nat → Nat
  | 0 => 1 | n + 1 => xtime (rcon n)

/-- XOR of two lists of numbers. -/
def xorList (as bs : List Nat) : List Nat := (as.zip bs).map (fun p => Nat.xor p.1 p.2)

/-- The next words of the AES-256 key schedule; `n` words remain, `i` is the next index, newest word first. -/
def expandKey : Nat → Nat → List (List Nat) → List (List Nat)
  | 0, _, ws => ws
  | n + 1, i, ws =>
    let t := ws.headD []
    let t' := if i % 8 == 0 then
        xorList ((t.drop 1 ++ t.take 1).map sbox) [rcon (i / 8 - 1), 0, 0, 0]
      else if i % 8 == 4 then t.map sbox else t
    expandKey n (i + 1) (xorList (ws.getD 7 []) t' :: ws)

/-- The 15 round keys of a 32-byte key. -/
def roundKeys (key : Bytes) : List (List Nat) :=
  let w0 := (pieces 4 (key.map (·.toNat))).reverse
  (pieces 4 (expandKey 52 8 w0).reverse).map (fun ws => ws.flatten)

/-- ShiftRows on a column-major state. -/
def shiftRows (s : List Nat) : List Nat :=
  (List.range 16).map (fun i => s.getD ((i + 4 * (i % 4)) % 16) 0)

/-- MixColumns on one column. -/
def mixColumn (c : List Nat) : List Nat :=
  let g := fun i => c.getD (i % 4) 0
  (List.range 4).map (fun i =>
    Nat.xor (Nat.xor (xtime (g i)) (Nat.xor (xtime (g (i + 1))) (g (i + 1)))) (Nat.xor (g (i + 2)) (g (i + 3))))

/-- The middle rounds and the last one. -/
def aesRounds : List (List Nat) → List Nat → List Nat
  | [], s => s
  | [k], s => xorList (shiftRows (s.map sbox)) k
  | k :: ks, s => aesRounds ks (xorList ((pieces 4 (shiftRows (s.map sbox))).flatMap mixColumn) k)

/-- AES-256 of one 16-byte block. -/
def aes256 (key block : Bytes) : Bytes :=
  match roundKeys key with
  | [] => block
  | k :: ks => (aesRounds ks (xorList (block.map (·.toNat)) k)).map byteOf

/-! ## GHASH and the tag -/

/-- Product in the field of GCM: bit 0 of a block is its most significant bit; `n` bits of `x` are taken. -/
def ghashMul : Nat → Nat → Nat → Nat → Nat
  | 0, _, _, z => z
  | n + 1, x, v, z =>
    let z' := if bitAt x n then Nat.xor z v else z
    let v' := if v % 2 == 0 then v >>> 1 else Nat.xor (v >>> 1) (0xE1 <<< 120)
    ghashMul n x v' z'

/-- GHASH over additional data alone, with its length block (R351). -/
def ghash (h : Bytes) (aad : Bytes) : Bytes :=
  let hn := beNat h
  let blocks := (pieces 16 aad).map (fitTo 16) ++ [beBytes 8 (8 * aad.length) ++ zeros 8]
  beBytes 16 (blocks.foldl (fun y b => ghashMul 128 (Nat.xor y (beNat b)) hn 0) 0)

/-- The 8-byte tag of R351: GHASH under AES of the zero block, XOR the tag-mask block. -/
def tagOf (key aad maskBlock : Bytes) : Bytes :=
  (xorBytes (ghash (aes256 key (zeros 16)) aad) (aes256 key maskBlock)).take 8

/-! ## Counter blocks (Table 10-7) -/

/-- A data-form, tag-mask-form or scrub-form block: form, station, context tag, unit and version. -/
def counterBlock (form station tag unit version : Nat) : Bytes :=
  leBytes 16 (place form 126 2 + place station 122 4 + place tag 106 16 + place unit 72 34 + place version 0 64)

/-- An image-form block of chain index `n` and unit `j` (R365). -/
def imageBlock (n j : Nat) : Bytes := leBytes 16 (place 1 126 2 + place n 90 32 + place j 78 12)

/-- Keystream for `bs` stored from byte address `a`: unit by unit, the first byte at a's place in its unit (R350). -/
def keystream (key : Bytes) (station tag version a len : Nat) : Bytes :=
  let first := a / 16
  let last := (a + len + 15) / 16
  ((List.range (last - first)).flatMap (fun i =>
    aes256 key (counterBlock 0 station tag (first + i) version))).drop (a % 16) |>.take len

/-- Encryption and decryption of bytes at a physical address (R350). -/
def cryptAt (key : Bytes) (station tag version a : Nat) (bs : Bytes) : Bytes :=
  xorBytes bs (keystream key station tag version a bs.length)

/-- Keystream of an image-form block's unit range (R365). -/
def imageCrypt (key : Bytes) (n j : Nat) (bs : Bytes) : Bytes :=
  xorBytes bs ((List.range ((bs.length + 15) / 16)).flatMap (fun i => aes256 key (imageBlock n (j + i))))

/-- The scrub keystream of one 2,048-byte unit (R373): scrub form with the serial as version. -/
def scrubUnitBytes (key : Bytes) (station unit serial : Nat) : Bytes :=
  (List.range 128).flatMap (fun i => aes256 key (counterBlock 2 station 0 (unit + i) serial))

/-- The one-time key of R372 from the scrub root. -/
def scrubKey (root : Bytes) (serial c : Nat) : Bytes :=
  aes256 root (counterBlock 2 15 0 (2 * c) serial) ++ aes256 root (counterBlock 2 15 0 (2 * c + 1) serial)

/-- The atlas key of R353: D0 has its named fields all ones, D1 all zeros. -/
def atlasKeyOf (key : Bytes) : Bytes :=
  aes256 key (counterBlock 3 15 0xFFFF (2 ^ 34 - 1) (2 ^ 64 - 1)) ++ aes256 key (counterBlock 3 0 0 0 0)

/-! ## SHA-384 and HMAC -/

/-- The largest `r` of `n` more bits, added to `r`, whose `k`-th power is at most `x`, bit by bit from the top. -/
def rootFloor (k x : Nat) : Nat → Nat → Nat
  | 0, r => r
  | n + 1, r => rootFloor k x n (if (r + 2 ^ n) ^ k ≤ x then r + 2 ^ n else r)

/-- The primes below 410, the first 80 of them. -/
def shaPrimes : List Nat := (List.range 410).filter (fun p => 2 ≤ p && (List.range p).all (fun d => d < 2 || p % d != 0))

/-- The first 64 fractional bits of the `k`-th root of `p` (FIPS 180-4, 4.2.3 and 5.3.4). -/
def rootFraction (k p : Nat) : Nat := rootFloor k (p * 2 ^ (64 * k)) 70 0 % 2 ^ 64

/-- The round constants of SHA-384 and SHA-512: the cube roots of the first eighty primes. -/
def shaConstants : List Nat := shaPrimes.map (rootFraction 3)

/-- The starting hash value of SHA-384: the square roots of the ninth to the sixteenth prime. -/
def sha384Start : List Nat := ((shaPrimes.drop 8).take 8).map (rootFraction 2)

/-- Addition of 64-bit words. -/
def add64 (a b : Nat) : Nat := (a + b) % 2 ^ 64

/-- Right rotation of a 64-bit word. -/
def rotr64 (x k : Nat) : Nat := Nat.xor (x >>> k) ((x <<< (64 - k)) % 2 ^ 64)

/-- XOR of three words. -/
def xor3 (a b c : Nat) : Nat := Nat.xor (Nat.xor a b) c

/-- The message schedule: `n` more words, newest first. -/
def shaSchedule : Nat → List Nat → List Nat
  | 0, ws => ws
  | n + 1, ws =>
    let w2 := ws.getD 1 0
    let w15 := ws.getD 14 0
    let s0 := xor3 (rotr64 w15 1) (rotr64 w15 8) (w15 >>> 7)
    let s1 := xor3 (rotr64 w2 19) (rotr64 w2 61) (w2 >>> 6)
    shaSchedule n (add64 (add64 s1 (ws.getD 6 0)) (add64 s0 (ws.getD 15 0)) :: ws)

/-- One compression round on the working variables a to h. -/
def shaRound (v : List Nat) (kw : Nat × Nat) : List Nat :=
  let g := fun i => v.getD i 0
  let s1 := xor3 (rotr64 (g 4) 14) (rotr64 (g 4) 18) (rotr64 (g 4) 41)
  let ch := Nat.xor (Nat.land (g 4) (g 5)) (Nat.land (Nat.xor (g 4) (2 ^ 64 - 1)) (g 6))
  let t1 := add64 (add64 (add64 (g 7) s1) (add64 ch kw.1)) kw.2
  let s0 := xor3 (rotr64 (g 0) 28) (rotr64 (g 0) 34) (rotr64 (g 0) 39)
  let maj := xor3 (Nat.land (g 0) (g 1)) (Nat.land (g 0) (g 2)) (Nat.land (g 1) (g 2))
  [add64 t1 (add64 s0 maj), g 0, g 1, g 2, add64 (g 3) t1, g 4, g 5, g 6]

/-- One 128-byte block of the hash. -/
def shaBlock (h : List Nat) (block : Bytes) : List Nat :=
  let ws := (shaSchedule 64 ((pieces 8 block).map beNat).reverse).reverse
  let v := (shaConstants.zip ws).foldl shaRound h
  (h.zip v).map (fun p => add64 p.1 p.2)

/-- The padded message: a 1 bit, zeros and the 128-bit length. -/
def shaPad (m : Bytes) : Bytes :=
  let z := (128 - (m.length + 17) % 128) % 128
  m ++ [0x80#8] ++ zeros z ++ beBytes 16 (8 * m.length)

/-- SHA-384 (FIPS 180-4). -/
def sha384 (m : Bytes) : Bytes :=
  (((pieces 128 (shaPad m)).foldl shaBlock sha384Start).flatMap (beBytes 8)).take 48

/-- HMAC with SHA-384 for keys of at most 128 bytes. -/
def hmac384 (key m : Bytes) : Bytes :=
  let k := fitTo 128 key
  let pad := fun (c : Byte) => k.map (fun b => b ^^^ c)
  sha384 (pad 0x5C#8 ++ sha384 (pad 0x36#8 ++ m))

/-! ## ECDSA over P-384 with the nonce of RFC 6979 (R502) -/

/-- The prime of the field of P-384. -/
def p384P : Nat := 2 ^ 384 - 2 ^ 128 - 2 ^ 96 + 2 ^ 32 - 1

/-- The order of the base point. -/
def p384N : Nat :=
  0xffffffffffffffffffffffffffffffffffffffffffffffffc7634d81f4372ddf581a0db248b0a77aecec196accc52973

/-- The base point. -/
def p384G : Nat × Nat :=
  (0xaa87ca22be8b05378eb1c71ef320ad746e1d3b628ba79b9859f741e082542a385502f25dbf55296c3a545e3872760ab7,
   0x3617de4a96262c6f5d9e98bf9292dc29f8f41dbd289a147ce9da3113b5f0b8c00a60b1ce1d7e819d7a431d7c90ea0e5f)

/-- Modular power over the bits of the exponent, high bit first; `n` bits are taken. -/
def powMod (m b : Nat) : Nat → Nat → Nat
  | 0, _ => 1 % m
  | n + 1, e =>
    let r := powMod m b n (e / 2)
    let r2 := r * r % m
    if e % 2 == 1 then r2 * b % m else r2

/-- Inverse modulo a prime below 2^384. -/
def invMod (m a : Nat) : Nat := powMod m a 384 (m - 2)

/-- Difference modulo m. -/
def subMod (m a b : Nat) : Nat := (a % m + m - b % m) % m

/-- Sum of two points; none is the point at infinity. -/
def ecAdd : Option (Nat × Nat) → Option (Nat × Nat) → Option (Nat × Nat)
  | none, q => q
  | p, none => p
  | some (x1, y1), some (x2, y2) =>
    if x1 == x2 && (y1 + y2) % p384P == 0 then none
    else
      let l := if x1 == x2 then (3 * x1 * x1 + (p384P - 3)) * invMod p384P (2 * y1) % p384P
        else subMod p384P y2 y1 * invMod p384P (subMod p384P x2 x1) % p384P
      let x3 := subMod p384P (subMod p384P (l * l) x1) x2
      some (x3, subMod p384P (l * subMod p384P x1 x3) y1)

/-- Scalar multiple over `n` bits, high bit first. -/
def ecMul (p : Option (Nat × Nat)) : Nat → Nat → Option (Nat × Nat)
  | 0, _ => none
  | n + 1, k =>
    let r := ecMul p n (k / 2)
    let r2 := ecAdd r r
    if k % 2 == 1 then ecAdd r2 p else r2

/-- The uncompressed public point of a private key, 97 bytes (Table 12-12). -/
def publicPoint (d : Nat) : Bytes :=
  match ecMul (some p384G) 384 d with
  | none => [0x00#8]
  | some (x, y) => [0x04#8] ++ beBytes 48 x ++ beBytes 48 y

/-- One candidate of RFC 6979 signs or passes on to the next; `fuel` bounds the candidates. -/
def signWith (d z : Nat) : Nat → Bytes → Bytes → Nat × Nat
  | 0, _, _ => (0, 0)
  | fuel + 1, k, v =>
    let v1 := hmac384 k v
    let cand := beNat v1
    let r := match ecMul (some p384G) 384 cand with | none => 0 | some p => p.1 % p384N
    let s := invMod p384N cand * ((z + r * d) % p384N) % p384N
    if cand ≥ 1 && cand < p384N && r != 0 && s != 0 then (r, s)
    else
      let k' := hmac384 k (v1 ++ [0x00#8])
      signWith d z fuel k' (hmac384 k' v1)

/-- ECDSA over P-384 with SHA-384 and a deterministic nonce (R502): the integers r and s. -/
def ecdsaSign (d : Nat) (m : Bytes) : Nat × Nat :=
  let h := sha384 m
  let z := beNat h % p384N
  let seed := beBytes 48 d ++ beBytes 48 z
  let v0 := List.replicate 48 0x01#8
  let k0 := zeros 48
  let k1 := hmac384 k0 (v0 ++ [0x00#8] ++ seed)
  let v1 := hmac384 k1 v0
  let k2 := hmac384 k1 (v1 ++ [0x01#8] ++ seed)
  let v2 := hmac384 k2 v1
  signWith d z 64 k2 v2

end Sys2Proof.Machine
end

