-- ==== Sys2Proof/Config.lean ====
section
/-! DEFINITION. What an implementation fixes and what the spec leaves open: opaque constants with no body,
so that no proof can learn their value. -/
namespace Sys2Proof.Config

/-- Free values: the n-th value the spec leaves open, drawn through `State.freeCtr` (assumption 3). -/
opaque freeNat : Nat → Nat

/-- The ROM value of the scrub root key, bytes 0 to 31 read little-endian (Table 10-4 gives the words
'ROM value' and no number; assumption 4). -/
opaque romScrubRoot : Nat

/-- The tally's private key, derived inside its island from the fused secret (R502; assumption 5). -/
opaque tallyPrivateKey : Nat

/-- The fixed ROM coefficients of the power estimate in picojoule per unit of each activity count
(R474 names the counts and gives no coefficient; assumption 6). -/
opaque powerCoefficient : Nat → Nat

/-- The argument of a transaction whose type Table 11-10 names one for without its numbers (queue, control code, operation,
write tag, record kind), by type, cycle and transactions in flight (R406, R407; assumption 109). -/
opaque headerArg : Nat → Nat → Nat → Nat

/-- Payload bytes of the transaction types whose payload Table 11-10 names without a length (CTL, ATLAS, STATUS, XLATE), by
type (R407; assumption 109). -/
opaque payloadBytes : Nat → Nat

end Sys2Proof.Config
end

