-- ==== Sys2Proof/Machine/Memory.lean ====
section
/-! DEFINITION. The engine's stores as the block sees them (near store and memory stacks): sparse bytes in one
canonical form. A byte nothing has written reads as 0 (assumption 8). -/
namespace Sys2Proof.Machine

/-- A store: (address, byte) pairs with strictly rising addresses and no byte equal to what an unlisted address
reads as. -/
abbrev Mem := List Host.Cell

/-- What an unlisted address reads as (assumption 8). -/
def unlisted : Byte := 0#8

/-- The byte at an address. -/
def Mem.get : Mem → Nat → Byte
  | [], _ => unlisted
  | (a, b) :: rest, x => if a == x then b else Mem.get rest x

/-- Puts a byte in front of the rest unless it is what an unlisted address reads as. -/
def Mem.cons (x : Nat) (v : Byte) (rest : Mem) : Mem := if v == unlisted then rest else (x, v) :: rest

/-- Writes one byte, keeping the canonical form. -/
def Mem.set : Mem → Nat → Byte → Mem
  | [], x, v => Mem.cons x v []
  | (a, b) :: rest, x, v =>
    if x < a then Mem.cons x v ((a, b) :: rest)
    else if x == a then Mem.cons x v rest
    else (a, b) :: Mem.set rest x v

/-- Reads `n` bytes from `a`. -/
def Mem.read (m : Mem) (a : Nat) : Nat → Bytes
  | 0 => []
  | n + 1 => Mem.get m a :: Mem.read m (a + 1) n

/-- Writes a byte string from `a`. -/
def Mem.write : Mem → Nat → Bytes → Mem
  | m, _, [] => m
  | m, a, b :: bs => Mem.write (Mem.set m a b) (a + 1) bs

/-- The canonical form. -/
def Mem.wf : Mem → Bool
  | [] => true
  | [(_, b)] => b != unlisted
  | (a, b) :: (a', b') :: rest => b != unlisted && a < a' && Mem.wf ((a', b') :: rest)

/-- Granules of 64 bytes that a range touches. -/
def granulesOf (a len : Nat) : List Nat :=
  if len == 0 then [] else (List.range ((a + len - 1) / 64 - a / 64 + 1)).map (fun i => 64 * (a / 64 + i))

end Sys2Proof.Machine
end

