-- ==== Sys2Proof/Machine/Words.lean ====
section
/-! DEFINITION. The stored words the block parses: extent descriptors, step descriptors, stream and mask words,
mask descriptors, atlas entries, holder-queue entries, frame headers (07, 08, 09, 06, 11). -/
namespace Sys2Proof.Machine

/-- Bits [lo+w-1:lo] of little-endian 64-bit word `i` of a byte string (R10, R225, R269). -/
def wordField (bs : Bytes) (i lo w : Nat) : Nat := field (leAt bs (8 * i) 8) lo w

/-- Bit `lo` of word `i`. -/
def wordBit (bs : Bytes) (i lo : Nat) : Bool := wordField bs i lo 1 == 1

/-! ### Extents and chains (R224 to R228) -/

/-- A TILES extent: the near-store address of its descriptor, first tile, then (count, stride) of each dimension used
(Table 07-1). -/
structure Extent where
  addr : Nat
  baseTile : Nat
  dims : List (Nat × Int)
  tiles : Nat
  bindOff : Bool
deriving DecidableEq, Repr

/-- What one descriptor says: an extent, a link to another address, or a descriptor error (R227). -/
inductive Descriptor where
  | tiles (e : Extent) (last : Bool)
  | link (addr : Nat) (last : Bool)
  | bad
deriving DecidableEq, Repr

/-- Lowest and highest tile distance the dimensions reach from the base (the two extreme corners of R227). -/
def corners (dims : List (Nat × Int)) : Int × Int :=
  dims.foldl (fun acc d =>
    let reach := d.2 * Int.ofNat (d.1 - 1)
    if reach < 0 then (acc.1 + reach, acc.2) else (acc.1, acc.2 + reach)) (0, 0)

/-- Every tile of the extent, moved by the offset, lies in 0 to 2^40 - 1 (R227). -/
def extentInRange (offset : Int) (e : Extent) : Bool :=
  let c := corners e.dims
  let b := Int.ofNat e.baseTile + offset
  0 ≤ b + c.1 && b + c.2 < Int.ofNat (2 ^ 40)

/-- Parses 128 bytes of an extent descriptor with the stream's offset applied (R225, R227). -/
def parseDescriptor (offset : Int) (bs : Bytes) : Descriptor :=
  let kind := wordField bs 0 44 2
  if kind == 1 then
    let a := wordField bs 1 0 34
    if a % 128 == 0 then .link a (wordBit bs 0 47) else .bad
  else if kind != 0 then .bad
  else
    let n := wordField bs 0 40 3
    let dims := (List.range n).map (fun d => (wordField bs (1 + d) 0 24, signed (wordField bs (1 + d) 24 40) 40))
    let e : Extent := { addr := 0, baseTile := wordField bs 0 0 40, dims := dims, tiles := wordField bs 6 0 32
                        bindOff := wordBit bs 0 46 }
    if n == 0 || n > 5 || dims.any (fun d => d.1 == 0) || dims.foldl (fun a d => a * d.1) 1 != e.tiles
      || !extentInRange offset e then .bad
    else .tiles e (wordBit bs 0 47)

/-- Tile `i` of an extent in the walk order of R226 (dimension 0 runs fastest), before the offset. -/
def extentTile (dims : List (Nat × Int)) (i : Nat) : Int :=
  match dims with
  | [] => 0
  | (c, st) :: ds => Int.ofNat (i % c) * st + extentTile ds (i / c)

/-- The index of dimension `d` at walk position `i` (R327: the row block). -/
def extentIndex (dims : List (Nat × Int)) (d i : Nat) : Nat :=
  match dims, d with
  | [], _ => 0
  | (c, _) :: _, 0 => i % c
  | (c, _) :: ds, k + 1 => extentIndex ds k (i / c)

/-- A chain as far as the hub has walked it (R226, R231). -/
structure Chain where
  head : Nat                 -- near-store address of the first descriptor
  offset : Int               -- the re-cast offset (R226, R237)
  next : Nat                 -- address of the next descriptor to be read
  count : Nat                -- descriptors read, LINKs included (R224)
  links : List Nat           -- the numbers of its LINK descriptors, newest first
  loads : Nat                -- batches read (R232)
  extents : List Extent      -- TILES extents in chain order
  ended : Bool               -- the last descriptor has been read
  failed : Bool              -- a descriptor error stands at the end of `extents` (R228)
  batches : List Nat         -- addresses of the batches held, newest first, at most two (R231)
deriving DecidableEq, Repr

/-- A chain of which nothing has been read. -/
def Chain.start (head : Nat) (offset : Int) : Chain :=
  { head := head, offset := offset, next := head, count := 0, links := [], loads := 0, extents := [], ended := false, failed := false
    batches := [] }

/-- Tiles of the extents read so far. -/
def Chain.tiles (c : Chain) : Nat := sumNat (c.extents.map (·.tiles))

/-- Whether the walk has reached the chain's end or an error. -/
def Chain.known (c : Chain) : Bool := c.ended || c.failed

/-- The extent that holds chain index `n` and the position in it (R230). -/
def findExtent : List Extent → Nat → Option (Extent × Nat)
  | [], _ => none
  | e :: es, n => if n < e.tiles then some (e, n) else findExtent es (n - e.tiles)

/-- The logical tile of chain index `n` (R226). -/
def Chain.tileAt (c : Chain) (n : Nat) : Option Nat :=
  (findExtent c.extents n).map (fun p => (Int.ofNat p.1.baseTile + c.offset + extentTile p.1.dims p.2).toNat)

/-- Whether chain index `n` is the last tile of an extent with bind_off set (R140, Table 07-1). -/
def Chain.bindOffAt (c : Chain) (n : Nat) : Bool :=
  match findExtent c.extents n with
  | none => false
  | some (e, i) => e.bindOff && i + 1 == e.tiles

/-- One descriptor taken into the walk. -/
def Chain.take (c : Chain) (bs : Bytes) : Chain :=
  if c.known then c
  else if c.count ≥ 2 ^ 20 then { c with failed := true }
  else match parseDescriptor c.offset bs with
    | .bad => { c with count := c.count + 1, failed := true }
    | .link a last => { c with count := c.count + 1, links := c.count :: c.links, next := a, ended := last }
    | .tiles e last =>
      if c.tiles + e.tiles > 2 ^ 32 then { c with count := c.count + 1, failed := true }
      else { c with count := c.count + 1, next := c.next + 128, extents := c.extents ++ [{ e with addr := c.next }], ended := last }

/-- The walk through one held batch: every descriptor whose address lies in it (R231); `fuel` bounds the LINKs that
stay inside the batch. -/
def Chain.through (base : Nat) (batch : Bytes) : Nat → Chain → Chain
  | 0, c => c
  | k + 1, c =>
    if c.known || c.next < base || c.next ≥ base + 4096 then c
    else Chain.through base batch k (c.take (cut batch (c.next - base) 128))

/-- A batch of 4 KiB arriving from 4 KiB-aligned address `base`; the two newest are held (R227, R231), and `loads` counts those
that were not held. -/
def Chain.batch (c : Chain) (base : Nat) (batch : Bytes) : Chain :=
  Chain.through base batch 64 { c with batches := (base :: c.batches.filter (· != base)).take 2, loads := if c.batches.contains base then c.loads else c.loads + 1 }

/-- The whole chain has been read and lies in the batches held (R232). -/
def Chain.heldWhole (c : Chain) : Bool := c.ended && c.loads ≤ 2

/-- Start of the extent that holds chain index `n`, or of the last one when it lies beyond all read so far. -/
def extentStart : List Extent → Nat → Option Extent
  | [], _ => none
  | [e], _ => some e
  | e :: es, n => if n < e.tiles then some e else extentStart es (n - e.tiles)

/-- The hub requests the chain's next batch when its walk has come to chain index `n`: nothing has been read, the walk
has passed all that was read (a LINK among it), or it stands in the newest batch at a descriptor at position 24 or later,
counted from 1 (R231). -/
def Chain.wantsBatch (c : Chain) (n : Nat) : Bool :=
  !c.known && (c.tiles ≤ n || (match extentStart c.extents n with
    | some e => c.batches.head? == some (e.addr / 4096 * 4096) && 24 ≤ e.addr % 4096 / 128 + 1
    | none => true))

/-- The same shape under Table 07-2: kinds and counts of descriptors, dims, counts, strides, tiles and bind_off. -/
def Chain.sameShape (a b : Chain) : Bool :=
  a.count == b.count && a.links == b.links && a.extents.map (fun e => (e.dims, e.tiles, e.bindOff)) == b.extents.map (fun e => (e.dims, e.tiles, e.bindOff))

/-- The chain walked again with another offset (REBASE); an extent out of range is a descriptor error (R227, R237). -/
def Chain.rebased (c : Chain) (offset : Int) : Option Chain :=
  if c.extents.all (extentInRange offset) then some { c with offset := offset } else none

/-! ### Step descriptors (R269, R270, Tables 08-3 to 08-5) -/

/-- A stream word (Table 08-4). -/
structure StreamWord where
  valid : Bool
  persistent : Bool
  streamNo : Nat
  layout : Nat
  base : Nat
  ceiling : Nat
  bytesStream : Bool
  chain : Nat
deriving DecidableEq, Repr

/-- The stream word in word `i` of a step descriptor. -/
def streamWord (bs : Bytes) (i : Nat) : StreamWord :=
  { valid := wordBit bs i 63, persistent := wordBit bs i 62, streamNo := wordField bs i 58 4
    layout := wordField bs i 56 2, base := wordField bs i 52 4, ceiling := wordField bs i 48 4
    bytesStream := wordBit bs i 47, chain := wordField bs i 0 34 }

/-- The formats of a stream word when they are legal: the pair of Table 02-3 or CONTOUR with CONTOUR, in a layout
Table 02-5 allows (R270, R272). -/
def StreamWord.fmt (w : StreamWord) : Option StreamFmt :=
  match Layout.ofCode w.layout, Fmt.ofCode w.base, Fmt.ofCode w.ceiling with
  | some lay, some b, some c =>
    let pairOk := (escPath b c).isSome || (b == .contour && c == .contour)
    let layOk := match lay with
      | .variableL => b == .contour || b == .pass
      | .dense => b != .contour && b != .absent
      | .packed => b != .contour && b != .absent
    if pairOk && layOk then some { layout := lay, base := b, ceiling := c, bytesStream := w.bytesStream } else none
  | _, _, _ => none

/-- The mask pointer of word `i`: none when mask_en is 0 (R270). -/
def maskWord (bs : Bytes) (i : Nat) : Option Nat := if wordBit bs i 63 then some (wordField bs i 0 34) else none

/-- The opcodes of Table 08-5, Table 09-6 and Table 11-15; the rest are reserved. -/
inductive Opcode where
  | deliver | compress | cCompress | cDecompress | gatherMerge | scatter | mergeOut | castOn | recast | teardown
  | resume | nop | move | atlasWrite | share | free | frog | demote | promote | gather | deliverRows | gazClear
  | send | recv | mcast
deriving DecidableEq, Repr

/-- The opcode of a code (word 0 [63:56]). -/
def Opcode.ofCode : Nat → Option Opcode
  | 0x01 => some .deliver | 0x02 => some .compress | 0x04 => some .cCompress | 0x05 => some .cDecompress
  | 0x06 => some .gatherMerge | 0x07 => some .scatter | 0x08 => some .mergeOut | 0x09 => some .castOn
  | 0x0A => some .recast | 0x0B => some .teardown | 0x0C => some .resume | 0x0D => some .nop | 0x0E => some .move
  | 0x10 => some .atlasWrite | 0x11 => some .share | 0x12 => some .free | 0x13 => some .frog
  | 0x14 => some .demote | 0x15 => some .promote | 0x16 => some .gather | 0x17 => some .deliverRows
  | 0x18 => some .gazClear | 0x20 => some .send | 0x21 => some .recv | 0x22 => some .mcast
  | _ => none

/-- The steps of R510 and the atlas steps: they bind no slice and their slice fields are ignored. -/
def Opcode.noSlice : Opcode → Bool
  | .nop | .recast | .teardown | .resume | .gazClear | .atlasWrite | .share | .free | .frog => true
  | _ => false

/-- Opcodes that write to memory, near store or a link (Table 08-6 row 4). -/
def Opcode.writesOut : Opcode → Bool
  | .compress | .cCompress | .cDecompress | .move | .scatter | .mergeOut | .send | .recv | .mcast => true
  | _ => false

/-- Opcodes that deliver to D-ports. -/
def Opcode.delivers : Opcode → Bool
  | .deliver | .gather | .deliverRows | .gatherMerge => true
  | _ => false

/-- The common header of a step descriptor (Table 08-3). -/
structure Header where
  opcode : Nat
  stepIndex : Nat
  tag : Nat
  fence : Bool
  fenceScope : Bool
  priority : Nat
  edges : List (Nat × Bool)     -- (predecessor's step_index, strict) of the edges present
  policy : Nat
  interleave : Nat
  sliceCount : Nat
  sliceBase : Nat
  weightKey : Bool
  weightSlot : Nat
deriving DecidableEq, Repr

/-- The common header of 128 stored bytes (Table 08-3). -/
def header (bs : Bytes) : Header :=
  { opcode := wordField bs 0 56 8, stepIndex := wordField bs 0 48 8, tag := wordField bs 0 32 16
    fence := wordBit bs 0 31, fenceScope := wordBit bs 0 30, priority := wordField bs 0 28 2
    edges := (List.range 4).filterMap (fun e =>
      if wordBit bs 1 (16 * e + 15) then some (wordField bs 1 (16 * e) 8, wordBit bs 1 (16 * e + 14)) else none)
    policy := wordField bs 2 20 2, interleave := wordField bs 2 16 4, sliceCount := wordField bs 2 8 8
    sliceBase := wordField bs 2 0 7, weightKey := wordBit bs 3 4, weightSlot := wordField bs 3 0 4 }

/-! ### Mask descriptor (Table 06-1, R181) -/

/-- A mask: origin page, pages covered and the three maps' near-store addresses. -/
structure Mask where
  origin : Nat
  pages : Nat
  sheet : Nat
  quad : Nat
  tile : Nat
deriving DecidableEq, Repr

/-- Parses 64 bytes of a mask descriptor; none when R181 calls it a descriptor error. -/
def parseMask (bs : Bytes) : Option Mask :=
  let m : Mask := { origin := wordField bs 0 0 36, pages := wordField bs 1 0 37, sheet := wordField bs 2 0 34
                    quad := wordField bs 3 0 34, tile := wordField bs 4 0 34 }
  let reservedZero := wordField bs 0 36 28 == 0 && wordField bs 1 37 27 == 0 && wordField bs 2 34 30 == 0
    && wordField bs 3 34 30 == 0 && wordField bs 4 34 30 == 0 && wordField bs 5 0 64 == 0 && wordField bs 6 0 64 == 0
    && wordField bs 7 0 64 == 0
  let mapBytes (bits : Nat) := ceilDiv bits 8
  if reservedZero && m.sheet % 64 == 0 && m.quad % 64 == 0 && m.tile % 64 == 0 && m.pages != 0
    && m.origin + m.pages ≤ 2 ^ 36
    && m.sheet + mapBytes (ceilDiv m.pages 256) ≤ 2 ^ 34 && m.quad + mapBytes (ceilDiv m.pages 4) ≤ 2 ^ 34
    && m.tile + mapBytes (16 * m.pages) ≤ 2 ^ 34
  then some m else none

/-- The logical tile lies inside the mask (R181). -/
def Mask.covers (m : Mask) (t : Nat) : Bool := 16 * m.origin ≤ t && t < 16 * (m.origin + m.pages)

/-- Addresses of the 64-byte granules that hold the sheet, quad and tile bits of logical tile `t` (R178, R182). -/
def Mask.granules (m : Mask) (t : Nat) : List Nat :=
  let n := t - 16 * m.origin
  [m.sheet + n / 4096 / 512 * 64, m.quad + n / 64 / 512 * 64, m.tile + n / 512 * 64]

/-- The effective tile-map word of the page of logical tile `t` (R180); `rd` gives the byte at an address. -/
def Mask.pageWord (m : Mask) (rd : Nat → Nat) (t : Nat) : Nat :=
  let p := t / 16 - m.origin
  let n := 16 * p
  let mapBit (base i : Nat) := bitAt (rd (base + i / 8)) (i % 8)
  if mapBit m.sheet (n / 4096) && mapBit m.quad (n / 64) then rd (m.tile + 2 * p) + 256 * rd (m.tile + 2 * p + 1)
  else 0

/-! ### Atlas entries (Tables 09-3 to 09-5) -/

/-- The page states of Table 09-5. -/
inductive PageState where
  | absent | resident | near | remote | frogged
deriving DecidableEq, Repr

/-- A leaf entry, words 0 to 2 (Table 09-4). -/
structure Leaf where
  state : Nat
  layout : Nat
  shared : Bool
  demoted : Bool
  shareIdx : Nat
  tileMap : Nat
  w1 : Nat
  demotedLen : Nat
  legendBlock : Nat            -- in 512 B units
deriving DecidableEq, Repr

/-- The leaf of 24 clear bytes. -/
def Leaf.ofBytes (bs : Bytes) : Leaf :=
  { state := wordField bs 0 61 3, layout := wordField bs 0 59 2, shared := wordBit bs 0 58, demoted := wordBit bs 0 57
    shareIdx := wordField bs 0 36 20, tileMap := wordField bs 0 16 16, w1 := wordField bs 1 0 64
    demotedLen := wordField bs 2 32 17, legendBlock := wordField bs 2 0 29 }

/-- The 24 clear bytes of a leaf. -/
def Leaf.toBytes (l : Leaf) : Bytes :=
  leBytes 8 (place l.state 61 3 + place l.layout 59 2 + place (b2n l.shared) 58 1 + place (b2n l.demoted) 57 1
    + place l.shareIdx 36 20 + place l.tileMap 16 16)
  ++ leBytes 8 l.w1 ++ leBytes 8 (place l.demotedLen 32 17 + place l.legendBlock 0 29)

/-- The ABSENT leaf: every field 0 (R295, R296). -/
def Leaf.absent : Leaf := Leaf.ofBytes (zeros 24)

/-- The state a leaf names; none for the reserved codes 5 to 7. -/
def Leaf.page (l : Leaf) : Option PageState :=
  match l.state with
  | 0 => some .absent | 1 => some .resident | 2 => some .near | 3 => some .remote | 4 => some .frogged | _ => none

/-- RESIDENT: the station of the stitches. -/
def Leaf.station (l : Leaf) : Nat := field l.w1 60 4

/-- Stitch base in bytes (RESIDENT and NEAR). -/
def Leaf.stitchBase (l : Leaf) : Nat := if l.state == 2 then field l.w1 0 28 * 64 else field l.w1 0 32 * 64

/-- Legend block in bytes. -/
def Leaf.legendAddr (l : Leaf) : Nat := if l.state == 2 then l.legendBlock % 2 ^ 25 * 512 else l.legendBlock * 512

/-- FROGGED: the cookie. -/
def Leaf.cookie (l : Leaf) : Nat := field l.w1 0 32

/-- A RESIDENT leaf at a frame (R314). -/
def Leaf.residentAt (layout station stitch legend tileMap : Nat) : Leaf :=
  { state := 1, layout := layout, shared := false, demoted := false, shareIdx := 0, tileMap := tileMap
    w1 := place station 60 4 + place (stitch / 64) 0 32, demotedLen := 0, legendBlock := legend / 512 }

/-! ### Holder-queue entries (Table 07-4) -/

/-- A holder-queue entry. -/
structure QEntry where
  poisoned : Bool
  last : Bool
  tag : Nat
  handle : Nat
deriving DecidableEq, Repr

/-- The 64-bit word of an entry (R250). -/
def QEntry.word (e : QEntry) : Nat :=
  place (b2n e.poisoned) 63 1 + place (b2n e.last) 62 1 + place e.tag 32 16 + place e.handle 0 32

/-- The entry of a 64-bit word. -/
def QEntry.ofWord (w : Nat) : QEntry :=
  { poisoned := bitAt w 63, last := bitAt w 62, tag := field w 32 16, handle := field w 0 32 }

/-! ### L-port frames (Tables 11-13 and 11-14) -/

/-- The 64-byte frame header. -/
structure FrameHeader where
  ident : Nat
  version : Nat
  kind : Nat
  srcEngine : Nat
  dstEngine : Nat
  srcContext : Nat
  dstContext : Nat
  tag : Nat
  records : Nat
  firstIndex : Nat
  seq : Nat
  catchup : Bool
  wholeSlot : Bool
  lastFrame : Bool
  tiles : Nat
  page : Nat
  credit : Nat
deriving DecidableEq, Repr

/-- The header of a frame's first 64 bytes; `credit` shares word 3 with tiles and page. -/
def FrameHeader.ofBytes (bs : Bytes) : FrameHeader :=
  { ident := wordField bs 0 56 8, version := wordField bs 0 52 4, kind := wordField bs 0 48 4
    srcEngine := wordField bs 0 30 18, dstEngine := wordField bs 0 12 18, srcContext := wordField bs 0 6 6
    dstContext := wordField bs 0 0 6, tag := wordField bs 1 48 16, records := wordField bs 1 32 16
    firstIndex := wordField bs 1 0 32, seq := wordField bs 2 32 32, catchup := wordBit bs 2 2
    wholeSlot := wordBit bs 2 1, lastFrame := wordBit bs 2 0, tiles := wordField bs 3 36 16
    page := wordField bs 3 0 36, credit := wordField bs 3 0 40 }

/-- The 64 bytes of a header (R412); kind 5 carries the credit in word 3. -/
def FrameHeader.toBytes (f : FrameHeader) : Bytes :=
  leBytes 8 (place f.ident 56 8 + place f.version 52 4 + place f.kind 48 4 + place f.srcEngine 30 18
    + place f.dstEngine 12 18 + place f.srcContext 6 6 + place f.dstContext 0 6)
  ++ leBytes 8 (place f.tag 48 16 + place f.records 32 16 + place f.firstIndex 0 32)
  ++ leBytes 8 (place f.seq 32 32 + place (b2n f.catchup) 2 1 + place (b2n f.wholeSlot) 1 1 + place (b2n f.lastFrame) 0 1)
  ++ leBytes 8 (if f.kind == 5 then place f.credit 0 40 else place f.tiles 36 16 + place f.page 0 36)
  ++ zeros 32

/-- Reserved bits of the header are zero (R414); bits of word 2 and 3 by kind. -/
def FrameHeader.reservedZero (bs : Bytes) : Bool :=
  let kind := wordField bs 0 48 4
  wordField bs 2 3 29 == 0 && (if kind == 5 then wordField bs 3 40 24 == 0 else wordField bs 3 52 12 == 0)
    && wordField bs 4 0 64 == 0 && wordField bs 5 0 64 == 0 && wordField bs 6 0 64 == 0 && wordField bs 7 0 64 == 0

/-- One tile record (Table 11-14). -/
structure Record where
  tile : Nat
  legend : Bytes
  stitch : Bytes
deriving DecidableEq, Repr

/-- The bytes of a record, padded to 16 (Table 11-14). -/
def Record.toBytes (r : Record) : Bytes :=
  leBytes 8 (place r.tile 20 4 + place r.stitch.length 0 17) ++ zeros 8 ++ fitTo 32 r.legend ++ r.stitch
  ++ zeros (roundUp r.stitch.length 16 - r.stitch.length)

/-- The legend as a record carries it: clear, key_class, context_tag and tag zero (Table 11-14). -/
def Legend.forLink (l : Legend) : Legend := { l with keyClass := 0, keyGen := 0, contextTag := 0, weightSlot := 0, tag := 0 }

/-- A tile record of the right stitch_len for its legend (R413). -/
def recordLenOk (whole : Bool) (l : Legend) (len : Nat) : Bool :=
  match Fmt.ofCode l.fmt with
  | none => false
  | some .absent => len == 0
  | some .contour => if l.blockTile == 0 then len == l.storedLen else len == 0
  | some f => if whole then (match Fmt.ofCode l.slotFmt with | some sf => len == slotSize sf | none => false)
              else len == stitchSize f

/-- Outcome of parsing a frame's records: those that parse, and whether all of the frame parsed (R261, R414). -/
def parseRecords (whole rdata : Bool) : Nat → Bytes → List Record → List Record × Bool
  | 0, bs, acc => (acc.reverse, bs.isEmpty)
  | n + 1, bs, acc =>
    let w := leAt bs 0 8
    let len := field w 0 17
    let size := 48 + roundUp len 16
    let leg := Legend.ofBytes (cut bs 16 32)
    if bs.length < size || field w 24 40 != 0 || field w 17 3 != 0 || leAt bs 8 8 != 0 || (!rdata && field w 20 4 != 0)
      || leNat (cut bs (48 + len) (roundUp len 16 - len)) != 0 || !recordLenOk whole leg len
      || (leg.fmt == 0xC && leg.blockTile != 0 && !(match acc with
        | r :: _ => (Legend.ofBytes r.legend).fmt == 0xC && (Legend.ofBytes r.legend).blockTile + 1 == leg.blockTile
        | [] => false))
    then (acc.reverse, false)
    else parseRecords whole rdata n (bs.drop size)
      ({ tile := field w 20 4, legend := cut bs 16 32, stitch := cut bs 48 len } :: acc)

end Sys2Proof.Machine
end

