-- ==== Sys2Proof/Machine/State.lean ====
section
/-! DEFINITION. The state of the block: every register, queue, buffer, counter and pin the spec names, as plain data;
the faults and refusals; and the machine right after reset. -/
namespace Sys2Proof.Machine

/-- Why the block's model stops on a command (only where the spec gives no effect among its choices). -/
inductive Fault where
  /-- A near-store or stack read beat for a request that is not outstanding: R381, R388 and R393 forbid the partner to
  send it and give the block no effect. Raised by M_READ_BEAT, N_READ_BEAT and C_READ_BEAT; safe. -/
  | strayReadBeat
  /-- A write acknowledgement for a request that is not outstanding (R388, R393, R394): the partner's error, no effect
  given. Raised by M_WRITE_ACK, N_WRITE_ACK and C_WRITE_ACK; safe. -/
  | strayWriteAck
  /-- A link controller's verdict with no frame waiting for one (R411): the partner's error. Raised by FRAME_VERDICT;
  safe. -/
  | strayVerdict
deriving DecidableEq, Repr

/-- Why the model gives a command no meaning. -/
inductive Refusal where
  /-- The command has no meaning in the model yet; raised only by an arm of `exec`; safe. -/
  | notModelled (mnemonic : String)
deriving DecidableEq, Repr

/-! ### Start-up, pins, versions -/

/-- Where the block is between sb_reset and service (Table 13-3, R463, R490). -/
inductive Phase where
  | held | starting | ready | hubFailed
deriving DecidableEq, Repr

/-- The sideband and asynchronous pins (Tables 11-17 and 11-19). -/
structure Pins where
  ready : Bool
  supplyValid : Bool
  tallySupply : Bool
  thermal : Bool
  hLocked : Bool
  opReq : BitVec 2
  opGrant : BitVec 2
  powerQ : BitVec 8
deriving DecidableEq, Repr

/-- The engine identity ROM as the hub read it (Table 11-20). -/
structure Identity where
  engineId : BitVec 18
  fused : BitVec 132
  stations : BitVec 12
  links : BitVec 16
  nearLog2 : Nat
  wirInstruction : BitVec 32         -- id_instruction (word 9; R390)
  wirLen : Nat
  idLen : Nat
  capPos : Nat
  capWidth : Nat
  ratePos : Nat
  rateWidth : Nat
  rateScale : Nat
  profileOk : Bool
deriving DecidableEq, Repr

/-- A negotiating port (R383, R384): not yet sampled, open at a version, or disabled. -/
inductive PortVer where
  | waiting | agreed (v : Nat) | disabled
deriving DecidableEq, Repr

/-! ### Steps, patterns and records -/

/-- What the ring reader expects next (R266 to R268): `left` steps of the pattern, the next at position `index`. -/
structure Expect where
  left : Nat
  index : Nat
  seqNo : Nat
  serial : Bool
deriving DecidableEq, Repr

/-- A completion record waiting for room in its ring (R265): entries without the phase bit, extensions last. -/
structure CompRecord where
  slot : Nat
  first : Bytes
  exts : List Bytes
deriving DecidableEq, Repr

/-- A completed step's status, as edges, serial patterns and fences see it (R274, R276). -/
structure Ended where
  ring : Fin 4
  pattern : Nat
  index : Nat
  status : Nat
deriving DecidableEq, Repr

/-- A condition of a step that gives a status (R288): status code, cause, and the tile index it names. -/
structure Cond where
  status : Nat
  cause : Nat
  tile : Option Nat
deriving DecidableEq, Repr

/-- The flags of word 1 of a completion record (Table 08-9). -/
structure Flags where
  frogged : Bool := false
  discarded : Bool := false
  detached : Bool := false
  rowsSkipped : Bool := false
  storePass : Bool := false
  escalationRate : Bool := false
  markDropped : Bool := false
  markLost : Bool := false
  poisoned : Bool := false
  clipped : Bool := false
deriving DecidableEq, Repr

/-- The life of a step in the hub's step table (R264, R273, R276, R282); `ran`: it had been dispatched when it completed, so
that it stays dispatched and unfinished until its record is written (R264, R433). -/
inductive StepPhase where
  | held | dispatched | suspended | complete (status : Nat) (ran : Bool)
deriving DecidableEq, Repr

/-- Why a step must suspend (Table 09-9): kind, station, level and page. -/
structure Miss where
  tile : Nat
  kind : Nat
  station : Nat
  level : Nat
  page : Nat
deriving DecidableEq, Repr

/-- One entry of the hub's step table (R264). -/
structure Step where
  slot : Nat
  ctx : Fin 64
  ring : Fin 4
  order : Nat                        -- submission order in the block
  pattern : Nat                      -- patterns begun on the ring before it
  index : Nat                        -- position in its pattern (R267)
  serial : Bool
  words : Bytes                      -- the 128 stored bytes
  phase : StepPhase
  readyAt : Option Nat               -- cycle of readiness (R280, Table 12-11 latency)
  epoch : Option Nat                 -- read epoch held (R309)
  slices : List Nat                  -- logical slices in order j (R278)
  chains : List (Role × Chain)
  granules : List (Nat × Bytes × Bool)   -- 64 B mask granules read, with the error bit (R182)
  asked : List Nat                   -- granules requested over NACC and not yet returned
  batches : List (Nat × Option (Bytes × List Nat))   -- 4 KiB batches requested over NACC, and what has come of them (R227)
  masks : List (Role × Mask)         -- masks checked at dispatch (R181)
  conds : List Cond
  miss : Option Miss
  serialNo : Nat                     -- serial of its resume token when suspended
  flags : Flags
  countA : Nat
  countB : Nat
  result : Nat
  tilesDone : Nat
  last : List (Nat × Nat)            -- per slice j: chain index of the last tile delivered or written (R484)
  rowMark : List (Nat × Nat)         -- chain indices of row-masked tiles that count_b holds, as ranges [a, b) (R334)
  recvFrom : List (Nat × Nat)        -- RECV: per link station, one past the chain index of the last record taken from it (R489)
  doneShares : List Nat              -- the j whose share has reported its end
  toDo : Nat                         -- changes still to become visible (atlas steps)
  escalated : Nat
  pos : Nat                          -- position of an atlas or page-range step (R513)
  target : Option Nat                -- RESUME: the suspended step's slot
  resumedBy : Option Nat             -- a suspended step continued by a RESUME: that RESUME's slot
  page : Option Nat                  -- GATHER: frogged pages met so far
  frogList : List (Nat × Nat × Nat)  -- GATHER: (page, sequence, cookie)
  perSeq : List Nat                  -- GATHER: tiles delivered for each sequence
  seqLens : List Nat                 -- GATHER: lengths of its sequences, as read at dispatch
  placed : List (Nat × Nat × Nat)    -- variable destination: (key of role and chain index, offset, end) of the tiles placed (R55)
  parent : Option (Nat × Nat)        -- a catch-up's MCAST: its slot and the receiver's number (R422)
  opened : List (Nat × Nat)          -- atlas physical pages it has a session on: station and page (R357)
  asks : List (Nat × Nat)            -- C-port reads of tables asked for: address and length (R511)
  sees : List (Nat × Nat × Bool)     -- C-port reads that have come, with the error bit
  resultsOut : Bool                  -- its result tables or skip record have been handed out (R322, R327)
  pushed : List Nat                  -- chain indices whose step-link entries it has pushed (R250, R253)
deriving DecidableEq, Repr

/-! ### Contexts -/

/-- A burst of submission entries being read (R264): how many, and, once they have come, their bytes and the entries with an
uncorrectable granule. -/
structure Burst where
  count : Nat
  data : Option (Bytes × List Nat)
deriving DecidableEq, Repr

/-- One submission and completion ring pair (Table 08-1, R509). -/
structure RingPair where
  sqBase : BitVec 64
  sqLog2 : BitVec 8
  cqBase : BitVec 64
  cqLog2 : BitVec 8
  sqHead : BitVec 32
  cqTail : BitVec 32
  tail : BitVec 32
  consumed : BitVec 32
  patterns : Nat
  liveSqBase : BitVec 64
  liveSqLog2 : BitVec 8
  liveCqBase : BitVec 64
  liveCqLog2 : BitVec 8
  enabled : Bool
  inUse : Bool
  expect : Expect
  burst : Option Burst               -- the entries being read (R264)
  waiting : List CompRecord
deriving DecidableEq, Repr

/-- The atlas objects of a context (Table 09-1). -/
structure AtlasObjects where
  roots : BitVec 64
  pool : BitVec 64
  shareTable : BitVec 64
  shareRecords : BitVec 32
  gazBase : BitVec 64
  gazEntries : BitVec 32
  gazSpan : BitVec 8
  grants : Vector (BitVec 32) 4
deriving DecidableEq, Repr

/-- Key slot states (Table 10-6). -/
inductive KeyState where
  | empty | loaded | draining
deriving DecidableEq, Repr

/-- A context key slot (R346): its state, key and generation. -/
structure KeySlot where
  state : KeyState
  key : BitVec 256
  gen : BitVec 2
deriving DecidableEq, Repr

/-- Context states (R335). -/
inductive CtxState where
  | free | opened | closing | scrubbing
deriving DecidableEq, Repr

/-- Persistent stream states (R238). -/
inductive StreamState where
  | free | armed | pass | tail
deriving DecidableEq, Repr

/-- One persistent stream (Table 07-2). -/
structure PStream where
  state : StreamState
  compress : Bool
  word : StreamWord
  chain : Chain
  mask : Option Nat
  depth : Nat
  slices : List Nat
  weightKey : Bool
  weightSlot : Nat
  passSlots : List Nat               -- unfinished passes, oldest first
deriving DecidableEq, Repr

/-- Something whose last reference was dropped, waiting for its retire epoch (R309). -/
inductive Retired where
  | area (station : Nat) (stitch : Nat) (source : Nat)
  | legendBlock (station : Nat) (block : Nat) (source : Nat)
  | frame (station : Nat) (stitch block : Nat) (source : Nat)
  | shareRecord (idx : Nat)
deriving DecidableEq, Repr

/-- One extent of a scrub (R372): station, none for the near store; base and length in bytes. -/
structure ScrubExtent where
  station : Option (Fin 12)
  base : Nat
  len : Nat
deriving DecidableEq, Repr

/-- A scrub in progress (R371): phase, one-time key, extents, and the units each unit has written. -/
structure Scrub where
  phase2 : Bool
  serial : BitVec 64
  key : BitVec 256
  asked : Nat                        -- bytes of the extent table requested over the C-port
  extents : List ScrubExtent
  working : List (Fin 12)
  taken : List (Nat × Nat)           -- (station number, or 12 for the hub; units written)
  inherited : List (Nat × Nat)       -- (station number; first near unit number it takes over) of failed stations (R488)
  units : Nat
  began : Nat                        -- the cycle of its first phase's start (R488)
  late : List (Nat × Nat)            -- station, and the cycle of the scrub at which what it inherited ends (R488)
deriving DecidableEq, Repr

/-- One context (Tables 08-1, 09-1, 10-1, 10-6). -/
structure Context where
  state : CtxState
  tag : BitVec 16
  partition : BitVec 8
  keyed : Bool
  scrubTable : BitVec 64
  scrubEntries : BitVec 32
  scrubCycles : BitVec 64
  rings : Vector RingPair 4
  atlas : AtlasObjects
  cur : KeySlot
  prev : KeySlot
  atlasKey : Option (BitVec 256)
  sweeping : Bool
  sweepAt : Vector Nat 12
  sweepPages : BitVec 64
  sweepDone : Bool
  prevRetire : BitVec 64
  streams : Vector PStream 16
  retired : List (Nat × Retired)     -- (retire epoch, item)
  frames : List (Nat × Nat × Bool)   -- allocated from pools: station, stitch area in bytes, large (R307)
  releases : List Retired            -- releases not yet written to the release ring, oldest first
  ringFull : Bool                    -- the release ring was found full and has not shown room since (R308)
  ringSeen : Bool                    -- descriptor 24 of the pool table has been read (R308)
  scrub : Option Scrub
  ended : List Ended
  initDue : List (Fin 12)            -- stations whose root node LOAD_CONTEXT has still to initialise (R354)
  turn : Fin 4                       -- the ring whose entries the hub reads next, when it has any (R264)
deriving DecidableEq, Repr

/-- A weight slot (R362). -/
inductive WeightState where
  | empty | loading | sealed
deriving DecidableEq, Repr

/-- A weight slot's registers (Table 10-6). -/
structure WeightSlot where
  state : WeightState
  key : BitVec 256
  nonce : BitVec 64
  bindMask : BitVec 64
  tilesLoaded : BitVec 32
deriving DecidableEq, Repr

/-! ### Slices -/

/-- Slice power states (Table 13-5, Table 12-15). -/
inductive Power where
  | active | idle | dormant | off | fenced | fused
deriving DecidableEq, Repr

/-- What a share does with its tiles. -/
inductive ShareKind where
  | deliver | gatherMerge | compress | contour | decompress | move | sendOut | multicast | recv | scatter | mergeOut
deriving DecidableEq, Repr

/-- A tile in a round slot: its legend and stitch as they arrived. -/
structure SlotTile where
  legend : Bytes
  stitch : Bytes
  zeroed : Bool                      -- integrity failure whose content is DENSE zeros (Table 14-2, first row)
  badFrame : Bool                    -- bad frame verdict (R260)
  waitVerdict : Option (Fin 16 × Nat)  -- link station and frame number whose verdict is awaited (R260)
  remote : Bool                      -- from a REMOTE page (R329)
  nearCopy : Bool                    -- read through the N-port (R343)
  mapBit : Option Bool               -- the effective tile-map bit, when the step has a mask (R180)
  pageLegends : List Bytes           -- legends of the page, for placement checks of variable pages
  demotedLen : Nat                   -- nonzero: `stitch` is the demoted contour block (R333)
  tileMap : Nat                      -- tile map of a demoted page's leaf
  tileNo : Nat                       -- logical tile number
  block : Bytes                      -- variable page: the whole stored block
  poison : Bool                      -- an integrity failure already found (R64 check 4, R389, F-port poison)
  frog : Option Nat                  -- the page was FROGGED when its fetch was accepted: its cookie (R313)
deriving DecidableEq, Repr

/-- A granted position of a round (R243). -/
inductive SlotContent where
  | waiting | fill | tile (t : SlotTile)
deriving DecidableEq, Repr

/-- A position with its chain index. -/
structure RoundSlot where
  pos : Nat
  walkPos : Nat                      -- its place in the share's own order
  chainIdx : Nat
  content : SlotContent
deriving DecidableEq, Repr

/-- A round (R241, R243): its slots, the next position to be granted, the read index h and the tiles delivered. -/
structure Round where
  role : Role
  depth : Nat
  walk : Nat                         -- next tile of the share the walker looks at
  granted : Nat
  h : Nat
  done : Nat
  slots : List RoundSlot
deriving DecidableEq, Repr

/-- A rewind mark (R245). -/
structure Mark where
  id : Fin 2
  hard : Bool
  pos : Nat
deriving DecidableEq, Repr

/-- A tile's contribution to a gazetteer entry (R135, R136). -/
structure SummaryRec where
  entry : Nat
  page : Nat
  tile : Nat
  y : Nat
  n : Nat
  bounds : List (Nat × Nat)
deriving DecidableEq, Repr

/-- A coded tile in the output round or on its way to its destination (R244, R253). -/
structure OutTile where
  role : Role                        -- which chain of the step it is a tile of
  chainIdx : Nat
  tileNo : Nat
  legend : Legend
  stitch : Bytes
  pageLast : Bool
  passed : Bool                      -- the destination mask marks it absent: no written tile (R206)
  sent : Bool
  wantAcks : Nat                     -- acknowledgements still to come
  countA : Nat                       -- what its visibility adds to the step's counts (Table 08-12)
  countB : Nat
  load : Bool                        -- a tile of a weight load (R364)
  tally : Nat                        -- bytes its visibility adds to `compressed` (Table 14-9)
  summary : Option SummaryRec        -- its page summary, sent once it is written
  link : Option (Fin 16)             -- RECV: the link station to be told when the tile is visible (R416)
deriving DecidableEq, Repr

/-- A tile of compressor input, whole (R404) or decoded from a source. -/
structure InTile where
  chainIdx : Nat
  load : Bool                        -- decoded from a source tile of a weight load (R364)
  data : Bytes
  pos : Bytes
  beats : Nat
  scale : Nat
  scaleValid : Bool
  absent : Bool                      -- an ABSENT tile of a decompress source
  poison : Bool
  bindOff : Bool
deriving DecidableEq, Repr

/-- An open contour block (R139, R160): its source tiles so far. -/
structure OpenBlock where
  firstIdx : Nat
  tiles : List InTile
  closed : Bool
deriving DecidableEq, Repr

/-- One way of an accumulator set (R209): key, 32 FP32 values, poison. -/
structure AccEntry where
  row : Nat
  chunk : Nat
  values : List Nat
  poison : Bool
deriving DecidableEq, Repr

/-- An accumulation set's declared fields (Table 06-8). -/
structure AccSet where
  ctx : Fin 64
  table : StreamWord
  tableChain : Chain
  tableMask : Option Nat
  spillAWord : StreamWord
  spillBWord : StreamWord
  spillA : Chain
  spillB : Chain
  rowCount : Nat
  rowChunks : Nat
  add : Bool
  fillA : Nat
  fillB : Nat
  swapped : Bool                     -- the two spill streams have exchanged an odd number of times (R216)
  bank : Fin 2
  slices : List Nat                  -- the logical slices of the steps that opened it (R211)
deriving DecidableEq, Repr

/-- An accumulator bank: its open set, and each occupied set's ways, least recently used first (R209, R213). -/
structure Bank where
  owner : Option AccSet
  sets : List (Nat × List AccEntry)
deriving DecidableEq, Repr

/-- A round of merge-out at work on a slice (R219): the bank as the round fills it, the places of spill_a that have been
read, the records refused and discarded so far, and, once all is read, the table tiles still to be written. -/
structure MergeWork where
  bank : Bank
  pos : Nat
  refused : List AccEntry
  discarded : Nat
  tiles : Option (List Nat)
deriving DecidableEq, Repr

/-- A share: one step on one slice (R278, R279). -/
structure Share where
  slot : Nat
  ctx : Fin 64
  tag : Nat
  j : Nat
  kind : ShareKind
  rounds : List Round
  marks : List Mark
  inPos : Nat                        -- A-port input: next tile of the share (FULL policy), records accepted (SCATTER)
  inDone : Bool
  resumeFrom : Option Nat            -- discard input tiles at or below this chain index (Table 14-5)
  queue : List InTile                -- tiles taken and not yet coded
  block : Option OpenBlock
  inBlock : Bool                     -- the last tile it took of its source was not its contour block's last (R170)
  moveBlock : Option (Nat × Bytes)   -- MOVE, RECV: the contour block last met, and the chain index of its first tile
  recvHeld : List (Nat × Fin 16 × SlotTile)   -- RECV: tiles taken and not yet written: chain index, link station (R260)
  out : List OutTile                 -- its output round, at most 3 slots (R244)
  coded : List OutTile               -- coded tiles that wait for a slot of the output round
  stop : Option Nat                  -- no tile at or above this chain index is delivered or written
  last : Option Nat
  frogPages : List Nat               -- pages whose marker this slice has sent or queued
  link : List (UnitId × QEntry)                 -- step-link queue on the consuming slice (R251)
  linkPopped : List Nat              -- handles popped from it: tiles that may be fetched (R253)
  linkDepth : Nat
  linkOut : List QEntry              -- producer: entries waiting for credit
  spillHeld : List (Nat × List Nat × Bool)   -- spilled records not yet in a tile: key, values, poison (R215, R218)
  merge : Option MergeWork           -- MERGE_OUT: the round at work (R219)
  ended : Bool                       -- d_end has been signalled (R398)
  reported : Bool                    -- its end has been reported to the hub
  paused : Bool                      -- paused by a context move or a suspension
deriving DecidableEq, Repr

/-- The tile a D-port is sending (R397): beats still to transfer, as (beat number, data, position codes). -/
structure DTile where
  slot : Nat
  ctx : Fin 64
  tag : Nat
  chainIdx : Nat
  pos : Nat
  mode : Nat
  scale : Nat
  poison : Bool
  buf : Nat
  replay : Bool
  pairs : Nat                        -- PAIRS: K of the pair
  sent : Nat                         -- beats transferred
  beats : List (Nat × Bytes × Bytes)
deriving DecidableEq, Repr

/-- A tile inside the contour expander (R161, R168). -/
structure Decoding where
  slot : Nat
  chainIdx : Nat
  pos : Nat
  data : Bytes
  legend : Legend
  scale : Nat
  poison : Bool
deriving DecidableEq, Repr

/-- A frogged marker (R313, R399). -/
structure FrogMark where
  slot : Nat
  cookie : Nat
  index : Nat
  seqIdx : Nat
deriving DecidableEq, Repr

/-- A tile fetch (Table 11-10): where the tile goes and what it is. -/
structure FetchRec where
  slot : Nat
  ctx : Fin 64
  chainIdx : Nat
  tileNo : Nat
  slice : Fin 132
  role : Role
  pos : Nat
  mapWord : Option Nat               -- the step's effective word of the page (R180, R183)
  leaf : Option Leaf                 -- the leaf the home station resolved (R299)
  remoteFor : Option (Fin 16 × FrameHeader × Nat)   -- a peer's read: its link station, its frame, its epoch (R309, R330)
deriving DecidableEq, Repr

/-- A gazetteer entry at its owner slice: read to be merged, read to be set in conflict, or written (R325, R486). -/
inductive GazPhase where
  | merge | torn | write
deriving DecidableEq, Repr

/-- What an outstanding near-store request of a slice is for. -/
inductive NPurpose where
  | tileRead (f : FetchRec) (leaf : Leaf) (stitchAsked : Bool)
  | tileWrite (slot : Nat) (role : Role) (chainIdx : Nat)
  | nacc (requester : UnitId) (step : Nat) (addr : Nat) (len : Nat)
  | naccWrite (requester : UnitId) (tag addr len : Nat)
  | gaz (ph : GazPhase) (src : UnitId) (c : Fin 64) (q : SummaryRec) (slot chainIdx : Nat)
  | scrubTable (c : Fin 64)
  | ringPoll (c : Fin 64)
  | hubLook (slot addr len : Nat)
  | hubWrite (slot : Nat)
  | record (c : Fin 64) (ring : Fin 4) (firstEntry : Bool)
  | entries (c : Fin 64) (ring : Fin 4)
  | other
deriving DecidableEq, Repr

/-- An outstanding near-store request (R392, R393; R394 for the hub). -/
structure NReq where
  id : Nat
  wr : Bool
  addr : Nat
  len : Nat
  data : Bytes
  got : Nat
  bad : Bool
  purpose : NPurpose
deriving DecidableEq, Repr

/-- A beat of a write-data channel: each lane's byte where its enable is set, and the last bit (R387, Tables 11-3 to 11-5). -/
structure WBeat where
  lanes : List (Option Byte)
  last : Bool
deriving DecidableEq, Repr

/-- One slice. -/
structure Slice where
  power : Power
  waking : Bool
  bound : Option (Fin 64)
  shares : List Share
  dFree : List QEntry
  dFull : List QEntry
  aDone : List QEntry
  sending : Option DTile
  decoding : Option Decoding
  frogQ : List FrogMark
  markRefused : Option (Fin 2)
  dEnd : Option (BitVec 16)
  aIn : List ABeat                   -- beats of the input tile being taken
  records : List (Nat × Nat × List Nat × Bool)   -- records taken and not yet hashed: the step's slot, key word, values, poison (R218)
  banks : Vector Bank 2
  window : Option (Fin 64 × Nat × List (Bytes × Bool))   -- contour reference window: context, step, rows (R148)
  nOut : List NReq
  nWd : List WBeat                   -- write-data beats of the last write request sent (n_wd, R387, R393)
  moveDue : Option (Fin 64)          -- the context the slice is due to move to (R281)
  zeroLater : List (Fin 64)          -- contexts to be zeroed at the next wake (R471)
  fVer : PortVer
  corrected : Nat
  uncorrected : Nat
  activeMs : Nat
  idleSince : Nat                    -- the cycle of the last entry into IDLE (R467)
deriving DecidableEq, Repr

/-! ### Memory stations -/

/-- What a range of an M-port request is (R233, R234). -/
inductive RangeKind where
  | stitch | legend | atlasEntry
deriving DecidableEq, Repr

/-- What a station, or the hub through it, must have read before it goes on: bytes of station `ms`'s stack of a kind, or
(`place` none) of the near store through that station's slice (R301, R348, R511). -/
structure Look where
  ms : Fin 12
  place : Option RangeKind
  addr : Nat
  len : Nat
deriving DecidableEq, Repr

/-- For whom a look is made: a step, the station's own work for a context, or a peer's read of a context's page. -/
inductive Asker where
  | step (slot : Nat)
  | own (c : Fin 64)
  | peer (c : Fin 64)
deriving DecidableEq, Repr

/-- A contiguous range appended to a request; `job` is the station job it serves, `data` what a write stores. -/
structure MRange where
  addr : Nat
  len : Nat
  data : Bytes
  job : Nat
  off : Nat                          -- where its bytes lie in the job's buffer
  order : Nat                        -- its number in the order of acceptance at the station (R234, R285)
  sweep : Bool                       -- traffic of a re-wrap sweep (R359)
deriving DecidableEq, Repr

/-- An M-port request being built or issued (R233 to R235). -/
structure MReq where
  cls : ReqClass
  wr : Bool
  ctx : Fin 64
  kind : RangeKind
  first : Nat                        -- byte address of the first granule
  granules : Nat
  ranges : List MRange
  scrub : Bool                       -- a scrub unit (R373)
  fill : Option Nat                  -- M-port version 2: the job that reads what else its granules hold (R385)
deriving DecidableEq, Repr

/-- An outstanding M-port request (R386): its window entry, bytes returned, bad granules. -/
structure MOut where
  id : Nat
  req : MReq
  got : Nat
  data : Bytes                       -- bytes returned so far
  bad : List Nat
deriving DecidableEq, Repr

/-- The tile a WRITE carries (Table 11-10). -/
structure WriteRec where
  slot : Nat
  role : Role
  ctx : Fin 64
  chainIdx : Nat
  tileNo : Nat
  slice : Fin 132
  legend : Legend
  stitch : Bytes
  layout : Nat
  ceiling : Nat
  tileMap : Nat
  masked : Bool                      -- the word is a mask's, which the page's must equal (R183)
  pageLast : Bool
  load : Option (Fin 16)             -- a load into this weight slot (R364)
  remoteCls : Bool                   -- link data committed to memory (R283)
  leaf : Option Leaf                 -- the leaf the home station resolved
deriving DecidableEq, Repr

/-- A station's work on one tile. -/
inductive JobKind where
  | readTile (f : FetchRec) (leaf : Leaf) (version : Option Nat)   -- none: the counter was uncorrectable (R348)
  | writeTile (w : WriteRec)
  | look (who : Asker) (l : Look)
  | fill
deriving DecidableEq, Repr

/-- A job with the requests it still waits for: the stored legends once they have come, the buffer being filled, the granules
that were bad (R389), and the tile when it is whole and checked (R243). -/
structure Job where
  id : Nat
  kind : JobKind
  waiting : Nat
  bad : List Nat                     -- granules of what was read that were uncorrectable
  legends : Option Bytes
  buf : Bytes
  tile : Option SlotTile
deriving DecidableEq, Repr

/-- An open write session (R355): the page's version under it and the tiles it has written. -/
structure Session where
  slot : Nat
  ctx : Fin 64
  stitchBase : Nat
  legendAddr : Nat
  layout : Nat
  tileMap : Nat
  ceiling : Nat
  version : Nat
  written : List Nat
  closing : Bool                     -- closed, its refresh not yet made (R356)
deriving DecidableEq, Repr

/-- The outputs of the IEEE 1500 wrapper port in one m_wrck cycle (Table 11-3, R390); `wsi` none where nothing is shifted in. -/
structure WrapCycle where
  wrst : Bool
  selectwir : Bool
  capturewr : Bool
  shiftwr : Bool
  updatewr : Bool
  wsi : Option Bool
deriving DecidableEq, Repr

/-- One memory station. -/
structure Station where
  present : Bool
  failed : Bool
  idValid : Bool
  capacityLog2 : Nat                 -- stack capacity is 2^c GiB
  rate : Nat                         -- GB/s
  identity : BitVec 1024
  wrapper : List WrapCycle           -- the wrapper port's cycles of the identity read, first to last (R390)
  fVer : PortVer
  mVer : PortVer
  creditRead : Int                   -- credit per class in 1/15360 byte (R285)
  creditWrite : Int
  creditRemote : Int
  opens : List MReq                  -- at most one per class and direction (R234)
  closed : List MReq                 -- closed requests waiting for issue
  window : List MOut
  accepted : Nat                     -- ranges accepted so far (R234)
  mWd : List WBeat                   -- write-data beats of the last write request sent (m_wd, R387)
  jobs : List Job
  nextJob : Nat
  sessions : List Session
  heldWrites : List WriteRec         -- writes waiting for a copy-on-write or a promote (R310, R333)
  asked : List (Asker × Look)        -- reads asked for that a row waits for
  seen : List (Asker × Look)         -- reads that have come and still stand
  grants : List (Fin 132 × Nat × Role × Nat)   -- GRANTs received: slice, step, source, position
  corrected : Nat
  uncorrected : Nat
deriving DecidableEq, Repr

/-! ### Link stations -/

/-- A word of an ingress bank with its two tags: the count of its valid bytes and the last bit (R257). -/
structure IngressWord where
  data : Bytes                       -- 512 B; zero beyond the count
  valid : BitVec 10
  last : Bool
deriving DecidableEq, Repr

/-- A frame being received (R256 to R260). -/
structure RxFrame where
  number : Nat
  bank : Fin 2
  src : BitVec 18
  words : List IngressWord           -- what the write side has written of it (R257)
  beats : Nat
  whole : Bool                       -- its last beat has arrived or it was cut
  cutShort : Bool
  struck : Bool                      -- an uncorrectable error struck its bank: its verdict is bad (Table 14-4)
  wordsRead : Nat
  released : Bool                    -- the read side has read its last word (R259)
  verdict : Option Bool              -- some true: bad
  holders : List UnitId              -- units that hold its tiles (R260)
  matched : Bool                     -- a RECV step has taken it (R415)
  forwarded : Nat                    -- records of it that have been forwarded (R260)
  handled : Bool                     -- its records have been matched and forwarded, or discarded
  announced : Bool                   -- its verdict has been passed on
  parseBad : Option Nat              -- index of the first record that does not parse (R261)
deriving DecidableEq, Repr

/-- A tile record on its way into frames (R413), with its chain index. -/
structure TxRecord where
  chainIdx : Nat
  record : Record
deriving DecidableEq, Repr

/-- A frame ready to be sent, with its receiver (R411, R417). -/
structure TxFrame where
  slot : Nat                         -- sending step, or none meaning a reply: see `reply`
  receiver : Nat
  reply : Bool
  header : FrameHeader
  body : Bytes
  tiles : Nat
deriving DecidableEq, Repr

/-- A receiver of a SEND or MCAST on its link station (R415, R417, R422). -/
structure Receiver where
  slot : Nat
  number : Nat
  engine : Nat
  context : Nat
  tag : Nat
  pending : List TxRecord            -- records accepted and not yet in a frame, in chain order
  seq : Nat
  sentTiles : Nat
  frames : Nat
  sentBytes : Nat
  outBytes : Nat                     -- frame bytes sent minus credited
  first : Nat                        -- chain index of its first record: 0, but for a catch-up
  lastSent : Bool
  done : Bool                        -- the step no longer waits for it
deriving DecidableEq, Repr

/-- Uncredited bytes of one sender at the receiving station (R416). -/
structure Uncredited where
  engine : Nat
  context : Nat                      -- the sender's context
  own : Fin 64
  tag : Nat
  bytes : Nat
deriving DecidableEq, Repr

/-- A remote read sent and not yet answered (R420). -/
structure RemoteRead where
  number : Nat
  fetch : FetchRec
deriving DecidableEq, Repr

/-- A received frame whose tiles are not all visible yet, or whose verdict is still to come (R416): its chain indices. -/
structure Crediting where
  slot : Nat
  engine : Nat
  context : Nat
  own : Fin 64
  tag : Nat
  bytes : Nat
  left : List Nat
  frame : Nat
  judged : Bool                      -- the frame's verdict is known
deriving DecidableEq, Repr

/-- A step-link entry of a RECV step at its link station: the step, the consuming step's tag, the entry, and whether its
tile is visible (R253). -/
structure LinkPush where
  slot : Nat
  ctx : Fin 64
  tag : Nat
  entry : QEntry
  visible : Bool
deriving DecidableEq, Repr

/-- One link station. -/
structure Link where
  present : Bool
  failed : Bool
  fVer : PortVer
  lVer : PortVer
  rx : List RxFrame                  -- received frames in order; at most two not released
  dropping : Bool                    -- discarding beats of a frame that was cut (R258)
  nextFrame : Nat
  tx : List TxFrame                  -- frames to be sent, oldest first
  receivers : List Receiver
  crediting : List Crediting
  uncredited : List Uncredited
  requests : List RemoteRead
  nextRequest : Nat
  linkOut : List LinkPush             -- step-link entries of RECV steps, oldest first (R253, R254)
  sentFrames : List Bytes            -- frames handed to the link controller, newest first (L-port output)
deriving DecidableEq, Repr

/-! ### F-port transactions in flight -/

/-- A leaf change or forwarded walk (Table 11-10 ATLAS). -/
inductive AtlasOp where
  | setLeaf (ctx : Fin 64) (page : Nat) (leaf : Leaf) (slot : Nat)
  | walk (f : FetchRec)
deriving DecidableEq, Repr

/-- A hub control transaction (R338, R481). -/
inductive Control where
  | dispatch (share : Share)
  | contextState (ctx : Fin 64)
  | probe
deriving DecidableEq, Repr

/-- A unit's report to the hub (R484): progress of a share or of the sending of frames, a tile that is lost or missing, a share's
end, or a probe answer. -/
structure Report where
  slot : Nat
  j : Nat
  last : Option Nat
  countA : Nat
  countB : Nat
  result : Nat
  tiles : Nat
  escalated : Nat
  conds : List Cond
  flags : Flags
  skipped : Option Nat               -- chain index of a tile that a row mask skips (R327, R334)
  shareDone : Bool
  receivers : Nat                    -- receivers of a link step that need no more frames (R419, R423)
  lost : Option (Nat × Nat × Nat)    -- status, cause and chain index of a tile that cannot be had or written
  miss : Option Miss                 -- an atlas miss that the unit met (R315, R420)
  ofFetch : Bool                     -- that tile was to be fetched
  probeAnswer : Bool
deriving DecidableEq, Repr

/-- What a transaction carries (Table 11-10). -/
inductive Body where
  | fetch (f : FetchRec)
  | grant (slot : Nat) (role : Role) (pos : Nat)
  | write (w : WriteRec)
  | lsend (slot receiver : Nat) (r : TxRecord) (lastRec : Bool)
  | nacc (step : Nat) (wr : Bool) (addr len : Nat) (data : Bytes)
  | summary (ctx : Fin 64) (entry page tile y n : Nat) (bounds : List (Nat × Nat)) (slot chainIdx : Nat)
  | qpush (slot : Nat) (e : QEntry)
  | ctl (c : Control)
  | atlas (op : AtlasOp)
  | stitch (slot : Nat) (role : Role) (pos : Nat) (t : SlotTile)
  | recvTile (slot : Nat) (chainIdx : Nat) (t : SlotTile)
  | ack (slot : Nat) (role : Role) (chainIdx : Nat)
  | ndata (step addr : Nat) (data : Bytes) (bad : List Nat)
  | credit (slot : Nat) (j : Nat) (n : Nat)
  | verdict (frame : Nat) (bad : Bool)
  | status (r : Report)
  | xlate (f : FetchRec) (leaf : Leaf)
  | part (code len : Nat)            -- version 2: a piece of a longer payload that follows, of that type (R385)
deriving DecidableEq, Repr

/-- A transaction in flight on the on-die network (R42, R405). -/
structure Txn where
  src : UnitId
  dst : UnitId
  hdr : BitVec 128                   -- its header word (Table 11-9)
  body : Body
deriving DecidableEq, Repr

/-! ### Hub, dictionary, tally -/

/-- An entry of the event log (R449). -/
structure EventEntry where
  code : BitVec 16
  ctx : Option (Fin 64)
  unit : BitVec 8
  seq : BitVec 32
  arg0 : BitVec 32
  arg1 : BitVec 32
deriving DecidableEq, Repr

/-- Counters that R368 rounds: the exact values. -/
structure Counters where
  powerOnS : Nat
  fences : Nat
  integrity : Nat
  thermalTrips : Nat
  escG6 : Nat
  escG8 : Nat
  escPass : Nat
  clippedTiles : Nat
  hubCorrected : Nat
  hubUncorrected : Nat
  latency : Vector Nat 32
  events : List (Nat × Nat)          -- (code, occurrences)
  eventsLost : Nat
  sliceErrors : List (Nat × Nat)     -- (corrected, uncorrected) of S000 to S131 at the latch
  stationErrors : List (Nat × Nat)
  activeMs : List Nat
deriving DecidableEq, Repr

/-- Block-wide dictionary registers (Tables 12-9, 12-10, 12-15, 10-4). -/
structure Dict where
  stationEnable : BitVec 16
  linkEnable : BitVec 16
  remoteServe : Bool
  tensionSplit : BitVec 32
  quantumUs : BitVec 32
  switchIdleNs : BitVec 32
  cutThrough : BitVec 32
  escThreshold : BitVec 16
  escRateLimit : BitVec 16
  effortDefault : BitVec 8
  blockTiles : BitVec 8
  autoDensity : BitVec 16
  scrubInterval : BitVec 16
  counterSheet : BitVec 64
  eventLogEnable : Bool
  governorPinned : Bool
  opPointMax : BitVec 8
  minReady : BitVec 8
  dormantUs : BitVec 32
  offMs : BitVec 32
deriving DecidableEq, Repr

/-- What the swatch test of a logical slice last showed (0x7000.21). -/
structure Swatch where
  pass : BitVec 8
  done : Bool
  skipped : Bool
  running : Bool
deriving DecidableEq, Repr

/-- Quiescence (0x2000.02). -/
inductive Quiesce where
  | running | draining | quiesced
deriving DecidableEq, Repr

/-- The hub: security, scheduling, health and dictionary-side state. -/
structure Hub where
  dict : Dict
  map : Vector (Option (Fin 132)) 128      -- logical to physical slices (R30)
  spares : List (Fin 132)                  -- remaining spares, ascending
  cVer : PortVer
  fVer : PortVer
  quiesce : Quiesce
  steps : List Step
  nextOrder : Nat
  readEpoch : BitVec 64
  suspensions : BitVec 32
  saved : List (Fin 132 × Fin 64 × Nat)    -- contexts whose state of a slice lies in hub SRAM, and the cycle it left (R338)
  cOut : List NReq                         -- outstanding C-port requests
  cWd : List WBeat                         -- write-data beats of the last write request sent (c_wd, R394)
  cplPulse : Option (Fin 64 × Fin 4)       -- the last c_cpl pulse (R395)
  -- security (Table 10-4)
  measurement : Bytes
  measureSeq : BitVec 32
  stale : Bool
  keyStageLo : BitVec 128
  keyStageHi : BitVec 128
  loadNonce : BitVec 64
  keyCommand : BitVec 32                   -- the last accepted key_command
  scrubRoot : BitVec 256
  scrubSerial : BitVec 64
  weights : Vector WeightSlot 16
  -- patch (Table 12-9)
  patchImage : Mem
  patchLength : BitVec 32
  patchActive : Option Bytes
  -- events and counters
  log : List EventEntry
  logPeeked : Bool                         -- segment 0 was the last event-log frame (R449)
  eventSeq : BitVec 32
  counters : Counters
  latched : Counters
  ticks : Nat
  -- lifetime (Table 12-11)
  checkpointSeq : BitVec 32
  checkpointRecord : Mem
  readSegments : List Nat                  -- segments of the record the root of trust has read (R495)
  building : Bool                          -- a lifetime record is in production (R495; assumption 29)
  checkpointDue : Bool                     -- a checkpoint fell due meanwhile (R495)
  restoreImage : Mem
  restored : Bool
  restoreFailed : Bool
  -- swatch, power, probes, responses
  swatch : Vector Swatch 128
  energy : Nat                             -- estimated energy of the open window in picojoule (R475)
  opIdle : Bool                            -- no step has been unfinished for dormant_after_us (R458)
  probed : List UnitId                     -- units that have not answered the present probe (R481)
  response : Option (BitVec 128)           -- the last H-port response frame (R435)
  -- tally mirror (Table 12-12)
  mirrorEpoch : BitVec 64
  mirrorRecord : Bytes
deriving DecidableEq, Repr

/-- A message on its way to the tally (R499). -/
inductive TallyMsg where
  | count (src : UnitId) (ctx : Fin 64) (quantity : Nat) (amount : Nat)
  | opened (ctx : Fin 64) (tag : BitVec 16)
deriving DecidableEq, Repr

/-- A context entry of the tally (Table 14-11). -/
structure TallyEntry where
  tag : BitVec 16
  opened : Bool
  merged : Bool
  serial : BitVec 32
  expanded : BitVec 64
  compressed : BitVec 64
  mBytes : BitVec 64
  lBytes : BitVec 64
  steps : BitVec 64
deriving DecidableEq, Repr

/-- What waits to be offered on the T-port: a record by epoch, or the all-ones word. -/
inductive TallyOffer where
  | record (epoch : BitVec 64)
  | allOnes
deriving DecidableEq, Repr

/-- The tally (R499 to R505). -/
structure Tally where
  isOpen : Bool
  epoch : BitVec 64
  first : Bool
  resetSeen : Bool
  supplyLost : Bool
  notReady : Bool
  prevHash : Bytes
  entries : Vector TallyEntry 64
  kept : List (BitVec 64 × Bytes)          -- the most recent sealed records, newest first, at most 16
  offers : List TallyOffer
  lastOffered : Bytes                      -- what t_rd last carried
deriving DecidableEq, Repr

/-- The state of the block. -/
structure State where
  phase : Phase
  pins : Pins
  ident : Identity
  hub : Hub
  ctxs : Vector Context 64
  slices : Vector Slice 132
  stations : Vector Station 12
  links : Vector Link 16
  net : List Txn                           -- F-port transactions in flight, oldest first
  near : Mem                               -- the near store as the block sees it
  nearBad : List Nat                       -- near-store granules known uncorrectable
  stackMem : Vector Mem 12
  stackBad : Vector (List Nat) 12
  tallyWire : List TallyMsg
  tally : Tally
  now : Nat                                -- clk_core cycles passed (assumption 2)
  freeCtr : Nat                            -- the model's own: free values drawn (assumption 3)
  pending : List Instr
deriving DecidableEq, Repr

/-! ### Reset -/

/-- A ring pair at reset (Table 08-1). -/
def RingPair.reset : RingPair :=
  { sqBase := 0, sqLog2 := 0, cqBase := 0, cqLog2 := 0, sqHead := 0, cqTail := 0, tail := 0, consumed := 0
    patterns := 0, liveSqBase := 0, liveSqLog2 := 0, liveCqBase := 0, liveCqLog2 := 0, enabled := false
    inUse := false, expect := { left := 0, index := 0, seqNo := 0, serial := false }, burst := none, waiting := [] }

/-- An empty key slot (R347). -/
def KeySlot.empty : KeySlot := { state := .empty, key := 0, gen := 0 }

/-- The stream word of zeros. -/
def StreamWord.zero : StreamWord :=
  { valid := false, persistent := false, streamNo := 0, layout := 0, base := 0, ceiling := 0, bytesStream := false
    chain := 0 }

/-- A FREE persistent stream (R238). -/
def PStream.free : PStream :=
  { state := .free, compress := false, word := StreamWord.zero, chain := Chain.start 0 0, mask := none, depth := 0
    slices := [], weightKey := false, weightSlot := 0, passSlots := [] }

/-- A context at reset (Tables 09-1, 10-1, 10-6). -/
def Context.reset : Context :=
  { state := .free, tag := 0, partition := 1, keyed := false, scrubTable := 0, scrubEntries := 0, scrubCycles := 0
    rings := Vector.replicate 4 RingPair.reset
    atlas := { roots := 0, pool := 0, shareTable := 0, shareRecords := 0, gazBase := 0, gazEntries := 0, gazSpan := 0
               grants := Vector.replicate 4 0 }
    cur := KeySlot.empty, prev := KeySlot.empty, atlasKey := none, sweeping := false, sweepPages := 0
    sweepAt := Vector.replicate 12 0
    sweepDone := false, prevRetire := 0, streams := Vector.replicate 16 PStream.free, retired := [], frames := [], releases := []
    ringFull := false, ringSeen := false, scrub := none, ended := [], initDue := [], turn := 0 }

/-- An empty weight slot (Table 10-6). -/
def WeightSlot.empty : WeightSlot := { state := .empty, key := 0, nonce := 0, bindMask := 0, tilesLoaded := 0 }

/-- An empty accumulator bank. -/
def Bank.empty : Bank := { owner := none, sets := [] }

/-- A slice at reset: it holds nothing; its power state is set at the start instant. -/
def Slice.reset : Slice :=
  { power := .off, waking := false, bound := none, shares := [], dFree := [], dFull := [], aDone := [], sending := none
    decoding := none, frogQ := [], markRefused := none, dEnd := none, aIn := [], records := []
    banks := Vector.replicate 2 Bank.empty, window := none, nOut := [], nWd := [], moveDue := none, zeroLater := []
    fVer := .waiting, corrected := 0, uncorrected := 0, activeMs := 0, idleSince := 0 }

/-- A station at reset. -/
def Station.reset : Station :=
  { present := false, failed := false, idValid := false, capacityLog2 := 0, rate := 0, identity := 0, wrapper := [], fVer := .waiting
    mVer := .waiting, creditRead := 0, creditWrite := 0, creditRemote := 0, opens := [], closed := [], window := [], accepted := 0, mWd := []
    jobs := [], nextJob := 0, sessions := [], heldWrites := [], asked := [], seen := [], grants := [], corrected := 0, uncorrected := 0 }

/-- A link station at reset. -/
def Link.reset : Link :=
  { present := false, failed := false, fVer := .waiting, lVer := .waiting, rx := [], dropping := false, nextFrame := 0
    tx := [], receivers := [], crediting := [], uncredited := [], requests := [], nextRequest := 0, linkOut := [], sentFrames := [] }

/-- The counters before any restore (Table 12-11). -/
def Counters.zero : Counters :=
  { powerOnS := 0, fences := 0, integrity := 0, thermalTrips := 0, escG6 := 0, escG8 := 0, escPass := 0
    clippedTiles := 0, hubCorrected := 0, hubUncorrected := 0, latency := Vector.replicate 32 0, events := []
    eventsLost := 0, sliceErrors := [], stationErrors := [], activeMs := [] }

/-- The dictionary's block-wide defaults (R440; Tables 12-9, 12-10, 12-15, 10-4). station_enable and link_enable take
the identity ROM's values at the start instant. -/
def Dict.default : Dict :=
  { stationEnable := 0, linkEnable := 0, remoteServe := true, tensionSplit := 0, quantumUs := 1000
    switchIdleNs := 2000, cutThrough := 8192, escThreshold := 0, escRateLimit := 0x1000, effortDefault := 0
    blockTiles := 16, autoDensity := 0x8000, scrubInterval := 16, counterSheet := 0, eventLogEnable := true
    governorPinned := false, opPointMax := 0, minReady := 16, dormantUs := 200, offMs := 0 }

/-- The hub at reset. -/
def Hub.reset : Hub :=
  { dict := Dict.default, map := Vector.replicate 128 none, spares := [], cVer := .waiting, fVer := .waiting
    quiesce := .running, steps := [], nextOrder := 0, readEpoch := 0, suspensions := 0, saved := [], cOut := [], cWd := []
    cplPulse := none, measurement := zeros 48, measureSeq := 0, stale := false, keyStageLo := 0
    keyStageHi := 0, loadNonce := 0, keyCommand := 0, scrubRoot := BitVec.ofNat 256 Config.romScrubRoot, scrubSerial := 0
    weights := Vector.replicate 16 WeightSlot.empty, patchImage := [], patchLength := 0, patchActive := none, log := []
    logPeeked := false, eventSeq := 0, counters := Counters.zero, latched := Counters.zero, ticks := 0
    checkpointSeq := 0, checkpointRecord := [], readSegments := [], building := false, checkpointDue := false, restoreImage := [], restored := false
    restoreFailed := false
    swatch := Vector.replicate 128 { pass := 0, done := false, skipped := false, running := false }, energy := 0
    opIdle := false, probed := [], response := none, mirrorEpoch := 0, mirrorRecord := [] }

/-- A tally entry with no counts. -/
def TallyEntry.zero : TallyEntry :=
  { tag := 0, opened := false, merged := false, serial := 0, expanded := 0, compressed := 0, mBytes := 0, lBytes := 0
    steps := 0 }

/-- The tally with its state lost (R505). -/
def Tally.reset : Tally :=
  { isOpen := false, epoch := 0, first := true, resetSeen := false, supplyLost := false, notReady := false
    prevHash := zeros 48, entries := Vector.replicate 64 TallyEntry.zero, kept := [], offers := [], lastOffered := [] }

/-- The identity before the ROM has been read. -/
def Identity.unread : Identity :=
  { engineId := 0, fused := 0, stations := 0, links := 0, nearLog2 := 34, wirInstruction := 0, wirLen := 0, idLen := 0, capPos := 0
    capWidth := 0, ratePos := 0, rateWidth := 0, rateScale := 0, profileOk := true }

/-- The machine right after sb_reset, before the start instant (R440, R460, R463). -/
def State.reset : State :=
  { phase := .held
    pins := { ready := false, supplyValid := true, tallySupply := true, thermal := false, hLocked := false, opReq := 2
              opGrant := 0, powerQ := 0 }
    ident := Identity.unread, hub := Hub.reset, ctxs := Vector.replicate 64 Context.reset
    slices := Vector.replicate 132 Slice.reset, stations := Vector.replicate 12 Station.reset
    links := Vector.replicate 16 Link.reset, net := [], near := [], nearBad := []
    stackMem := Vector.replicate 12 [], stackBad := Vector.replicate 12 [], tallyWire := [], tally := Tally.reset
    now := 0, freeCtr := 0, pending := [] }

end Sys2Proof.Machine
end

