-- ==== Sys2Proof/Machine/Ops.lean ====
section
/-! DEFINITION. The named operations over the block's state: access to contexts, slices, stations and link stations;
the stores as the block sees them; events and counters; F-port transactions; step-table access. -/
namespace Sys2Proof.Machine

/-! ### Indexed access -/

/-- A vector with the element at `i` changed. -/
def vmod {α : Type} {n : Nat} (v : Vector α n) (i : Fin n) (f : α → α) : Vector α n := v.set i.1 (f v[i.1]) i.2

/-- Context `c`. -/
def State.ctx (s : State) (c : Fin 64) : Context := s.ctxs[c.1]

/-- Changes context `c`. -/
def State.modCtx (s : State) (c : Fin 64) (f : Context → Context) : State := { s with ctxs := vmod s.ctxs c f }

/-- Physical slice `n`. -/
def State.slice (s : State) (n : Fin 132) : Slice := s.slices[n.1]

/-- Changes physical slice `n`. -/
def State.modSlice (s : State) (n : Fin 132) (f : Slice → Slice) : State := { s with slices := vmod s.slices n f }

/-- Station `m`. -/
def State.station (s : State) (m : Fin 12) : Station := s.stations[m.1]

/-- Changes station `m`. -/
def State.modStation (s : State) (m : Fin 12) (f : Station → Station) : State :=
  { s with stations := vmod s.stations m f }

/-- Link station `l`. -/
def State.link (s : State) (l : Fin 16) : Link := s.links[l.1]

/-- Changes link station `l`. -/
def State.modLink (s : State) (l : Fin 16) (f : Link → Link) : State := { s with links := vmod s.links l f }

/-- Changes the hub. -/
def State.modHub (s : State) (f : Hub → Hub) : State := { s with hub := f s.hub }

/-- Changes the tally. -/
def State.modTally (s : State) (f : Tally → Tally) : State := { s with tally := f s.tally }

/-- Ring pair `r` of context `c`. -/
def State.ring (s : State) (c : Fin 64) (r : Fin 4) : RingPair := (s.ctx c).rings[r.1]

/-- Changes ring pair `r` of context `c`. -/
def State.modRing (s : State) (c : Fin 64) (r : Fin 4) (f : RingPair → RingPair) : State :=
  s.modCtx c (fun x => { x with rings := vmod x.rings r f })

/-- Folds an update over a list. -/
def State.each {α : Type} (s : State) (xs : List α) (f : State → α → State) : State := xs.foldl f s

/-- All indices of a finite type, ascending. -/
def allFin (n : Nat) : List (Fin n) := List.finRange n

/-- A number as an index, when it is one. -/
def finOf (n x : Nat) : Option (Fin n) := if h : x < n then some ⟨x, h⟩ else none

/-- The block serves commands (from sb_ready until a reset, a supply loss or a hub failure). -/
def State.live (s : State) : Bool := s.phase == .ready

/-- Draws the next free value (assumption 3). -/
def State.draw (s : State) : Nat × State := (Config.freeNat s.freeCtr, { s with freeCtr := s.freeCtr + 1 })

/-! ### The stores -/

/-- Reads the near store: the bytes and whether a granule of the range is uncorrectable (R393, R511). -/
def State.readNear (s : State) (a len : Nat) : Bytes × Bool :=
  (s.near.read a len, (granulesOf a len).any (fun g => s.nearBad.contains g))

/-- Granules of a near-store range known uncorrectable. -/
def State.nearBadIn (s : State) (a len : Nat) : List Nat := (granulesOf a len).filter (fun g => s.nearBad.contains g)

/-- The step an outstanding near-store request is for. -/
def NPurpose.slot? : NPurpose → Option Nat
  | .tileRead f _ _ => some f.slot
  | .tileWrite slot .. | .hubLook slot .. | .hubWrite slot | .nacc .hub slot .. | .naccWrite .hub slot .. => some slot
  | .gaz _ _ _ _ slot _ => some slot
  | _ => none

/-- Writes the near store; a written granule is good again. -/
def State.writeNear (s : State) (a : Nat) (bs : Bytes) : State :=
  { s with near := s.near.write a bs, nearBad := s.nearBad.filter (fun g => !(granulesOf a bs.length).contains g) }

/-- Takes bytes that a near-store read returned into the view, with the granules it marked uncorrectable. -/
def State.learnNear (s : State) (a : Nat) (bs : Bytes) (bad : List Nat) : State :=
  let t := s.writeNear a bs
  { t with nearBad := bad ++ t.nearBad }

/-- Memory of station `m`'s stack. -/
def State.stack (s : State) (m : Fin 12) : Mem := s.stackMem[m.1]

/-- Reads a stack: the bytes and whether a granule of the range is uncorrectable (R389). -/
def State.readStack (s : State) (m : Fin 12) (a len : Nat) : Bytes × Bool :=
  ((s.stack m).read a len, (granulesOf a len).any (fun g => s.stackBad[m.1].contains g))

/-- Writes a stack. -/
def State.writeStack (s : State) (m : Fin 12) (a : Nat) (bs : Bytes) : State :=
  { s with stackMem := vmod s.stackMem m (fun x => x.write a bs)
           stackBad := vmod s.stackBad m (fun l => l.filter (fun g => !(granulesOf a bs.length).contains g)) }

/-- Takes bytes that an M-port read returned into the view, with the granules it marked uncorrectable. -/
def State.learnStack (s : State) (m : Fin 12) (a : Nat) (bs : Bytes) (bad : List Nat) : State :=
  let t := s.writeStack m a bs
  { t with stackBad := vmod t.stackBad m (fun l => bad ++ l) }

/-! ### Units -/

/-- Unit number of Table 11-11. -/
def unitNo : UnitId → Nat
  | .slice n => n.1
  | .ms n => 0x90 + n.1
  | .ls n => 0xA0 + n.1
  | .hub => 0xC0

/-- The unit of a number; none for the reserved numbers. -/
def unitOf (n : Nat) : Option UnitId :=
  if h : n < 132 then some (.slice ⟨n, h⟩)
  else if h : 0x90 ≤ n ∧ n < 0x90 + 12 then some (.ms ⟨n - 0x90, by omega⟩)
  else if h : 0xA0 ≤ n ∧ n < 0xA0 + 16 then some (.ls ⟨n - 0xA0, by omega⟩)
  else if n == 0xC0 then some .hub else none

/-- Physical slice of a logical one (R30, R483). -/
def State.physOf (s : State) (l : Nat) : Option (Fin 132) :=
  match finOf 128 l with
  | none => none
  | some i => s.hub.map[i.1]

/-- Logical slice mapped to a physical one. -/
def State.logicalOf (s : State) (n : Fin 132) : Option (Fin 128) :=
  (allFin 128).find? (fun l => s.hub.map[l.1] == some n)

/-- Logical slices with a physical slice, ascending. -/
def State.usable (s : State) : List (Fin 128) := (allFin 128).filter (fun l => (s.hub.map[l.1]).isSome)

/-- A station that can serve: present, with an identity, enabled and not failed (R373, R443). -/
def State.stationUp (s : State) (m : Fin 12) : Bool :=
  let st := s.station m
  st.present && st.idValid && !st.failed && bitAt s.hub.dict.stationEnable.toNat m.1

/-- A link station that can serve. -/
def State.linkUp (s : State) (l : Fin 16) : Bool :=
  let x := s.link l
  x.present && !x.failed && bitAt s.hub.dict.linkEnable.toNat l.1

/-- A slice that is neither fenced nor fused off. -/
def Slice.alive (x : Slice) : Bool := x.power != .fenced && x.power != .fused

/-- A unit that takes part: a failed unit discards what arrives (R482). -/
def State.unitUp (s : State) : UnitId → Bool
  | .slice n => (s.slice n).alive
  | .ms n => s.stationUp n
  | .ls n => s.linkUp n
  | .hub => s.phase == .ready

/-- A slice that can accept work now (R466, R469: IDLE accepts, DORMANT and OFF wait for their wake). -/
def Slice.awake (x : Slice) : Bool := (x.power == .active || x.power == .idle) && !x.waking

/-- A slice about to be used leaves IDLE: it counts as ACTIVE from here on (R466). -/
def Slice.touch (x : Slice) : Slice := if x.power == .idle then { x with power := .active } else x

/-- The logical slice whose N-port serves station `m`'s near-store accesses: S(116+m), or the highest usable one
below it (R348, R485). -/
def State.nearSliceOf (s : State) (m : Fin 12) : Option (Fin 132) :=
  match s.physOf (116 + m.1) with
  | some n => some n
  | none => ((s.usable.filter (fun l => l.1 < 116 + m.1)).getLast?).bind (fun l => s.physOf l.1)

/-! ### Events and counters -/

/-- Adds to the value of a key, or enters it. -/
def bump (k : Nat) (d : Nat) : List (Nat × Nat) → List (Nat × Nat)
  | [] => [(k, d)]
  | (a, n) :: rest => if a == k then (a, n + d) :: rest else (a, n) :: bump k d rest

/-- Raises an event (R447, R448): counted always, given the next sequence number always, and entered in the log when
the log is enabled, R369 does not exclude it (an event raised by a step of a keyed context) and the log is not full; otherwise a full log counts one lost. -/
def State.raise (s : State) (code : Nat) (ctx : Option (Fin 64)) (unit : Nat) (a0 a1 : Nat) : State :=
  let hidden := match ctx with
    | none => false
    | some c => (s.ctx c).keyed && (code == 0x9001 || code == 0x9002 || code == 0x9005 || code == 0x9006)
  s.modHub (fun h =>
    let entry : EventEntry := { code := BitVec.ofNat 16 code, ctx := ctx, unit := BitVec.ofNat 8 unit
                                seq := h.eventSeq, arg0 := BitVec.ofNat 32 a0, arg1 := BitVec.ofNat 32 a1 }
    let wanted := h.dict.eventLogEnable && !hidden
    let room := h.log.length < 256
    { h with
      eventSeq := h.eventSeq + 1
      log := if wanted && room then h.log ++ [entry] else h.log
      counters := { h.counters with
        events := bump code 1 h.counters.events
        eventsLost := h.counters.eventsLost + b2n (wanted && !room) } })

/-- Changes the exact counters. -/
def State.count (s : State) (f : Counters → Counters) : State :=
  s.modHub (fun h => { h with counters := f h.counters })

/-- Counts integrity failures where they are detected (R479). -/
def State.countIntegrity (s : State) (n : Nat) : State := s.count (fun c => { c with integrity := c.integrity + n })

/-- Sends usage counts to the tally (R499, R500): quantity 0 expanded, 1 compressed, 2 m_bytes, 3 l_bytes, 4 steps. -/
def State.tallyAdd (s : State) (src : UnitId) (c : Fin 64) (quantity amount : Nat) : State :=
  if amount == 0 then s else { s with tallyWire := s.tallyWire ++ [.count src c quantity amount] }

/-- Adds to the energy estimate: `n` units of activity count `k` (R474; assumption 6). -/
def State.spend (s : State) (k n : Nat) : State :=
  s.modHub (fun h => { h with energy := h.energy + Config.powerCoefficient k * n })

/-- Tiles of a format that a codec expands, or compresses (R474). -/
def State.spendCodec (s : State) (compress : Bool) (fmt n : Nat) : State := s.spend (16 + 2 * fmt + b2n compress) n

/-- AES blocks of `n` bytes that a keyed context's data take (R474). -/
def State.spendAes (s : State) (c : Fin 64) (n : Nat) : State := if (s.ctx c).keyed then s.spend 7 (ceilDiv n 16) else s

/-- The governor's request (R458): 2 on a thermal trip or after idling, else op_point_max. -/
def State.settleOpReq (s : State) : State :=
  { s with pins := { s.pins with
    opReq := if s.pins.thermal || s.hub.opIdle then 2 else BitVec.ofNat 2 s.hub.dict.opPointMax.toNat } }

/-! ### F-port transactions -/

/-- The context of the step in a slot. -/
def State.stepCtx (s : State) (slot : Nat) : Option (Fin 64) := (s.hub.steps.find? (fun x => x.slot == slot)).map (·.ctx)

/-- The class bit of a transaction (Table 11-10): true is response. -/
def Body.response : Body → Bool
  | .stitch .. | .recvTile .. | .ack .. | .ndata .. | .credit .. | .verdict .. | .status .. | .xlate .. => true
  | .part code _ => bitAt code 5
  | _ => false

/-- The type code of a transaction (Table 11-10). -/
def Body.typeCode : Body → Nat
  | .fetch .. => 0x01 | .grant .. => 0x02 | .write .. => 0x03 | .lsend .. => 0x04 | .nacc .. => 0x05
  | .summary .. => 0x06 | .qpush .. => 0x07 | .ctl .. => 0x08 | .atlas .. => 0x09
  | .stitch .. | .recvTile .. => 0x21 | .ack .. => 0x22 | .ndata .. => 0x23 | .credit .. => 0x24 | .verdict .. => 0x25
  | .status .. => 0x26 | .xlate .. => 0x27
  | .part code _ => code

/-- Bytes of a transaction's payload: Table 11-10's, in whole units of 16 B (R406); the lengths it leaves open are free
(assumption 109). -/
def Body.payload (b : Body) : Nat :=
  roundUp (match b with
    | .fetch .. => 32
    | .write w => 32 + w.stitch.length
    | .stitch _ _ _ t | .recvTile _ _ t => 32 + t.stitch.length
    | .lsend _ _ r _ => r.record.toBytes.length
    | .nacc _ _ _ _ data => 16 + data.length
    | .ndata _ _ data _ => data.length
    | .summary _ _ _ _ _ _ bounds _ _ => 2 * bounds.length
    | .qpush .. => 8
    | .grant .. | .ack .. | .credit .. | .verdict .. => 0
    | .part _ len => len
    | .ctl .. | .atlas .. | .status .. | .xlate .. => Config.payloadBytes b.typeCode) 16

/-- Width of a unit's F-port in bytes a cycle (Table 01-7). -/
def unitWidth : UnitId → Nat
  | .slice _ => 256
  | .ms _ => 1280
  | .ls _ => 128
  | .hub => 64

/-- Beats of a transaction on a port of a width: one for a header alone, else its payload's (R406). -/
def Body.beats (b : Body) (width : Nat) : Nat := Nat.max 1 (ceilDiv b.payload width)

/-- A port's version is agreed: it is open (R382, R384). -/
def PortVer.isOpen : PortVer → Bool
  | .agreed _ => true
  | _ => false

/-- The F-port version of a unit (R383). -/
def State.fVer (s : State) : UnitId → PortVer
  | .slice n => (s.slice n).fVer
  | .ms m => (s.station m).fVer
  | .ls l => (s.link l).fVer
  | .hub => s.hub.fVer

/-- The hub's probe (R481). -/
def Body.isProbe : Body → Bool
  | .ctl .probe => true
  | _ => false

/-- A transaction is split where the port of either unit is at version 2 (R385). -/
def State.splits (s : State) (src dst : UnitId) : Bool := s.fVer src == .agreed 2 || s.fVer dst == .agreed 2

/-- Beats of a transaction's own pieces at a port of a width: the last piece carries what the pieces before it leave (R385,
R406). -/
def State.beatsAt (s : State) (src dst : UnitId) (b : Body) (width : Nat) : Nat :=
  if s.splits src dst && b.payload > 2048 then Nat.max 1 (ceilDiv (b.payload - 2048 * (ceilDiv b.payload 2048 - 1)) width)
  else b.beats width

/-- F-port beats of a transaction, at its sender's port and at its receiver's (R474). -/
def State.beatsBetween (s : State) (src dst : UnitId) (b : Body) : Nat :=
  s.beatsAt src dst b (unitWidth src) + s.beatsAt src dst b (unitWidth dst)

/-- The pieces that go before a transaction whose payload a version 2 port cannot carry whole: 2,048 B each, of the same
type (R385). -/
def State.partsOf (s : State) (src dst : UnitId) (b : Body) : List Body :=
  if s.splits src dst then List.replicate (ceilDiv b.payload 2048 - 1) (.part b.typeCode 2048) else []

/-- The transaction's hub slot, where it names one. -/
def Body.slot? : Body → Option Nat
  | .fetch f | .xlate f _ | .atlas (.walk f) => some f.slot
  | .grant slot .. | .lsend slot .. | .stitch slot .. | .recvTile slot .. | .qpush slot _ | .credit slot .. => some slot
  | .write w => some w.slot
  | .ack slot .. | .nacc slot .. | .ndata slot .. => some slot
  | .summary _ _ _ _ _ _ _ slot _ => some slot
  | .atlas (.setLeaf _ _ _ slot) => some slot
  | .ctl (.dispatch h) => some h.slot
  | .status r => some r.slot
  | _ => none

/-- The context a transaction names itself. -/
def Body.ctx? : Body → Option (Fin 64)
  | .fetch f | .xlate f _ | .atlas (.walk f) => some f.ctx
  | .write w => some w.ctx
  | .summary c .. | .atlas (.setLeaf c ..) | .ctl (.contextState c) => some c
  | .ctl (.dispatch h) => some h.ctx
  | _ => none

/-- First chain index of a frame at a link station (Table 11-12). -/
def Link.frameIndex (x : Link) (frame : Nat) : Nat :=
  match x.rx.find? (fun f => f.number == frame) with
  | some f => (FrameHeader.ofBytes ((f.words.head?.map (·.data)).getD [])).firstIndex
  | none => 0

/-- The argument of a header (Table 11-10); the numbers it leaves open are free (assumption 109). -/
def State.headerArg (s : State) (b : Body) : Nat :=
  match b with
  | .fetch f => unitNo (.slice f.slice)
  | .grant _ _ pos | .stitch _ _ pos _ => pos
  | .xlate f _ => f.pos
  | .write w => b2n w.pageLast
  | .lsend _ receiver _ _ => receiver
  | .nacc tag .. | .ndata tag .. => tag
  | .summary _ entry .. => entry
  | .credit _ _ n => n
  | .verdict _ bad => b2n bad
  | _ => Config.headerArg b.typeCode s.now s.net.length

/-- The index of a header (Tables 11-9 and 11-10). -/
def State.headerIndex (s : State) (src : UnitId) (b : Body) : Nat :=
  match b with
  | .fetch f | .xlate f _ => f.chainIdx
  | .write w => w.chainIdx
  | .lsend _ _ r _ => r.chainIdx
  | .nacc _ _ addr .. | .ndata _ addr .. => addr / 64
  | .recvTile _ i _ | .ack _ _ i => i
  | .summary _ _ _ _ _ _ _ _ i => i
  | .verdict frame _ => match src with
    | .ls l => (s.link l).frameIndex frame
    | _ => 0
  | _ => 0

/-- The payload is poisoned. -/
def Body.poison : Body → Bool
  | .stitch _ _ _ t | .recvTile _ _ t => t.poison
  | .write w => w.legend.poisoned
  | .ndata _ _ _ bad => !bad.isEmpty
  | _ => false

/-- The transaction header (Table 11-9) of a piece of `len` bytes. -/
def State.headerOf (s : State) (src dst : UnitId) (b : Body) (len : Nat) : BitVec 128 :=
  let slot := b.slot?.filter (· < 16384)
  let c := match b.ctx?, slot.bind s.stepCtx with
    | some c, _ | none, some c => c.1
    | none, none => 0
  BitVec.ofNat 128 (place (s.headerArg b) 96 32 + place (s.headerIndex src b) 64 32 + place (slot.getD 0) 48 14
    + place (len / 16) 35 13 + place c 29 6 + place (b2n b.poison) 28 1 + place (unitNo src) 16 8 + place (unitNo dst) 8 8
    + place b.typeCode 0 8)

/-- A transaction with its header. -/
def State.txn (s : State) (src dst : UnitId) (b : Body) : Txn :=
  { src := src, dst := dst, hdr := s.headerOf src dst b (if s.splits src dst then b.payload - 2048 * (ceilDiv b.payload 2048 - 1) else b.payload), body := b }

/-- A piece that goes before a transaction, with its header. -/
def State.partTxn (s : State) (src dst : UnitId) (b piece : Body) : Txn :=
  { src := src, dst := dst, hdr := s.headerOf src dst b 2048, body := piece }

/-- Sends a transaction; none is sent to a failed unit (R482). -/
def State.post (s : State) (src dst : UnitId) (b : Body) : State :=
  if s.unitUp dst then { s with net := s.net ++ ((s.partsOf src dst b).map (s.partTxn src dst b) ++ [s.txn src dst b]) } else s

/-- A piece of a longer payload (R385). -/
def Body.isPart : Body → Bool
  | .part .. => true
  | _ => false

/-- The oldest transaction of a source, destination and class that is let in, with the pieces that came before it and the
rest (R42, R385). -/
def takeTxn (src dst : UnitId) (resp : Bool) (lets : Body → Bool) : List Txn → Option (List Txn × Txn × List Txn)
  | [] => none
  | t :: ts =>
    if t.src == src && t.dst == dst && t.body.response == resp && lets t.body then
      if t.body.isPart then (takeTxn src dst resp lets ts).map (fun p => (t :: p.1, p.2))
      else some ([], t, ts)
    else (takeTxn src dst resp lets ts).map (fun p => (p.1, p.2.1, t :: p.2.2))

/-- A unit lets a transaction in. A slice that is DORMANT, OFF or waking holds f_rx_ready low and the transaction waits in the
network (R469); its always-on control answers the hub's probe all the same (DEDUCED, assumption 102). -/
def State.letsIn (s : State) (dst : UnitId) (b : Body) : Bool :=
  match dst with
  | .slice n => (s.slice n).awake || b.isProbe
  | _ => true

/-- An IDLE slice returns to ACTIVE on a transaction other than the hub's probe (R466; assumption 102). -/
def State.rouse (s : State) (dst : UnitId) (b : Body) : State :=
  match dst with
  | .slice n => if b.isProbe then s else s.modSlice n Slice.touch
  | _ => s

/-- Takes the oldest transaction of a pair and class that the destination lets in, when it is of type `code` and both units'
F-ports are open (R382). -/
def State.recvTxn (s : State) (src dst : UnitId) (code : Nat) : Option (Body × State) :=
  if !s.live || !s.unitUp dst || !(s.fVer src).isOpen || !(s.fVer dst).isOpen then none
  else match takeTxn src dst (bitAt code 5) (s.letsIn dst) s.net with
    | none => none
    | some (parts, t, rest) =>
      if t.body.typeCode == code then
        some (t.body, (State.rouse { s with net := rest } dst t.body).spend 6
          (sumNat ((parts ++ [t]).map (fun q => s.beatsBetween src dst q.body))))
      else none

/-! ### The step table -/

/-- The step in a slot. -/
def State.step? (s : State) (slot : Nat) : Option Step := s.hub.steps.find? (fun x => x.slot == slot)

/-- Changes the step in a slot. -/
def State.modStep (s : State) (slot : Nat) (f : Step → Step) : State :=
  s.modHub (fun h => { h with steps := h.steps.map (fun x => if x.slot == slot then f x else x) })

/-- Unfinished for R264: until its record has been written. -/
def State.stepsOf (s : State) (c : Fin 64) : List Step := s.hub.steps.filter (fun x => x.ctx == c)

/-- Not yet completed. -/
def Step.open (x : Step) : Bool := match x.phase with | .complete .. => false | _ => true

/-- Dispatched and not yet completed. -/
def Step.running (x : Step) : Bool := x.phase == .dispatched

/-- Dispatched and unfinished: until its completion record has been written (R264, R433). -/
def Step.unfinished (x : Step) : Bool :=
  match x.phase with
  | .dispatched => true
  | .complete _ ran => ran
  | _ => false

/-- The step's header. -/
def Step.head (x : Step) : Header := header x.words

/-- The step's opcode. -/
def Step.op (x : Step) : Option Opcode := Opcode.ofCode x.head.opcode

/-- A chain of the step. -/
def Step.chain (x : Step) (r : Role) : Option Chain := (x.chains.find? (fun p => p.1 == r)).map (·.2)

/-- Changes a chain of the step. -/
def Step.setChain (x : Step) (r : Role) (c : Chain) : Step :=
  { x with chains := (r, c) :: x.chains.filter (fun p => p.1 != r) }

/-- The granule the hub has read at a near-store address: its bytes and whether it was uncorrectable (R182). -/
def Step.granule (x : Step) (a : Nat) : Option (Bytes × Bool) := (x.granules.find? (fun g => g.1 == a)).map (·.2)

/-- Enters a condition: of those with one status the list keeps the one with the lowest tile (R288). -/
def enterCond (c : Cond) : List Cond → List Cond
  | [] => [c]
  | d :: ds =>
    if d.status == c.status then
      (match c.tile, d.tile with
        | some a, some b => if a < b then c else d
        | some _, none => c
        | none, _ => d) :: ds
    else d :: enterCond c ds

/-- Adds a condition. -/
def Step.addCond (x : Step) (c : Cond) : Step := { x with conds := enterCond c x.conds }

/-- Adds a condition to the step in a slot. -/
def State.addCond (s : State) (slot : Nat) (status cause : Nat) (tile : Option Nat) : State :=
  s.modStep slot (fun x => x.addCond { status := status, cause := cause, tile := tile })

/-- The lower of two optional bounds. -/
def minOpt : Option Nat → Option Nat → Option Nat
  | none, b => b
  | a, none => a
  | some a, some b => some (Nat.min a b)

/-- Changes every share of a step on its slices. -/
def State.modShares (s : State) (slot : Nat) (f : Share → Share) : State :=
  { s with slices := s.slices.map (fun x => { x with shares := x.shares.map (fun h => if h.slot == slot then f h else h) }) }

/-- Changes one share on a slice. -/
def State.modShare (s : State) (n : Fin 132) (slot : Nat) (f : Share → Share) : State :=
  s.modSlice n (fun x => { x with shares := x.shares.map (fun h => if h.slot == slot then f h else h) })

/-- The share of a step on a slice. -/
def Slice.share (x : Slice) (slot : Nat) : Option Share := x.shares.find? (fun h => h.slot == slot)

/-- Number j of the slice that handles chain index `n` (R278). -/
def Step.ownerOf (x : Step) (n : Nat) : Nat := n / 2 ^ x.head.interleave % x.slices.length

/-- A share that delivers to a D-port. -/
def Share.delivers (h : Share) : Bool := h.kind == .deliver || h.kind == .gatherMerge

/-- A delivering step has met the failure that stops it on slice `j`: on every other slice delivery stops at the next tile
boundary (R202 item 4). -/
def State.stopOthers (s : State) (slot j : Nat) : State :=
  s.modShares slot (fun h => if h.delivers && h.j != j then { h with stop := some 0 } else h)

/-- Stops every share of a step at chain index `n` (R202, R203, R316). -/
def State.stopStep (s : State) (slot n : Nat) : State :=
  s.modShares slot (fun h => { h with stop := minOpt h.stop (some n) })

/-- A condition at a tile that stops the step there; a coded tile of that index is dropped. -/
def State.failTile (s : State) (slot status cause n : Nat) : State :=
  ((s.addCond slot status cause (some n)).stopStep slot n).modShares slot (fun h =>
    { h with out := h.out.filter (fun o => o.chainIdx != n), coded := h.coded.filter (fun o => o.chainIdx != n) })

/-- Ends every share of a step where it stands: nothing more of it is granted, coded or sent. -/
def State.haltShares (s : State) (slot : Nat) : State :=
  s.modShares slot (fun h =>
    { h with stop := some 0, inDone := true, queue := [], block := none, recvHeld := [], out := [], coded := [], linkOut := [], spillHeld := [], merge := none })

/-- A context's state of a slice lies in hub SRAM: its shares there do nothing (R338). -/
def State.left (s : State) (n : Fin 132) (c : Fin 64) : Bool := s.hub.saved.any (fun e => e.1 == n && e.2.1 == c)

/-- A context is at work on a slice: bound to it, with its state loaded (R280, R340). -/
def State.atWork (s : State) (n : Fin 132) (c : Fin 64) : Bool := (s.slice n).bound == some c && !s.left n c

/-! ### Reports to the hub -/

/-- An empty report of a share. -/
def Report.of (slot j : Nat) : Report :=
  { slot := slot, j := j, last := none, countA := 0, countB := 0, result := 0, tiles := 0, escalated := 0, conds := []
    flags := {}, skipped := none, shareDone := false, receivers := 0, lost := none, miss := none, ofFetch := false, probeAnswer := false }

/-- Flags joined. -/
def Flags.join (a b : Flags) : Flags :=
  { frogged := a.frogged || b.frogged, discarded := a.discarded || b.discarded, detached := a.detached || b.detached
    rowsSkipped := a.rowsSkipped || b.rowsSkipped, storePass := a.storePass || b.storePass
    escalationRate := a.escalationRate || b.escalationRate, markDropped := a.markDropped || b.markDropped
    markLost := a.markLost || b.markLost, poisoned := a.poisoned || b.poisoned, clipped := a.clipped || b.clipped }

/-- A unit reports to the hub over the F-port (STATUS, Table 11-10). -/
def State.report (s : State) (src : UnitId) (r : Report) : State := s.post src .hub (.status r)

/-- A unit reports that a step's tile `n` cannot be had or written: the step stops there with a condition (R484). -/
def State.lose (s : State) (u : UnitId) (slot status cause n : Nat) : State :=
  s.report u { Report.of slot 0 with lost := some (status, cause, n) }

/-- The STATUS transactions of a step. -/
def Body.reportOf (slot : Nat) : Body → Option Report
  | .status r => if r.slot == slot && !r.probeAnswer then some r else none
  | _ => none

/-! ### Ports -/

/-- The smallest id below `limit` that no outstanding request uses. -/
def freeId (limit : Nat) (used : List Nat) : Option Nat := (List.range limit).find? (fun i => !used.contains i)

/-- Lanes of a request of `len` bytes from its first granule on, with the bytes its ranges give (R387). -/
def writeLanes (len : Nat) (ranges : List (Nat × Bytes)) : List (Option Byte) :=
  ranges.foldl (fun acc r => acc.take r.1 ++ r.2.map some ++ acc.drop (r.1 + r.2.length)) (List.replicate len none)

/-- The write-data beats of lanes on a channel of `lane` bytes: in order, the last with the remainder in its low lanes (R387). -/
def writeBeats (lane : Nat) (ls : List (Option Byte)) : List WBeat :=
  let n := ceilDiv ls.length lane
  (List.range n).map (fun j =>
    let bs := (ls.drop (lane * j)).take lane
    { lanes := bs ++ List.replicate (lane - bs.length) none, last := j + 1 == n })

/-- The write-data beats of a near-store write (R387, R393, R394). -/
def NReq.beats (q : NReq) (lane : Nat) : List WBeat :=
  let a := q.addr / 64 * 64
  writeBeats lane (writeLanes (roundUp (q.addr + q.len) 64 - a) [(q.addr - a, q.data)])

/-- A near-store request of a read or write; a read is of whole granules. -/
def NReq.of (id : Nat) (wr : Bool) (a len : Nat) (data : Bytes) (p : NPurpose) : NReq :=
  let a0 := if wr then a else a / 64 * 64
  { id := id, wr := wr, addr := a0, len := if wr then len else roundUp (a + len) 64 - a0, data := data, got := 0, bad := false, purpose := p }

/-- A request of a slice's N-port goes out: a write's data follow (R387, R393). -/
def State.nSent (s : State) (n : Fin 132) (q : NReq) : State :=
  if q.wr then (s.modSlice n (fun x => { x with nWd := q.beats 512 })).spend 3 (q.beats 512).length else s

/-- A near-store request of a slice's N-port (R392); 256 ids, and a request that finds none free waits with id 256. -/
def State.nQueue (s : State) (n : Fin 132) (wr : Bool) (a len : Nat) (data : Bytes) (p : NPurpose) : State :=
  let q := NReq.of ((freeId 256 ((s.slice n).nOut.map (·.id))).getD 256) wr a len data p
  let s1 := s.modSlice n (fun x => { x with nOut := x.nOut ++ [q] })
  if q.id < 256 then s1.nSent n q else s1

/-- The pieces of a byte range between 2,048 B boundaries: address, offset, length (R233). -/
def splitRange (size : Nat) : Nat → Nat → Nat → Nat → List (Nat × Nat × Nat)
  | 0, _, _, _ => []
  | k + 1, a, off, len =>
    if len == 0 then []
    else
      let n := Nat.min len (size - a % size)
      (a, off, n) :: splitRange size k (a + n) (off + n) (len - n)

/-- Near-store accesses of a slice for a byte range: none crosses a 4,096 B boundary (Table 11-4). -/
def State.nPieces (s : State) (n : Fin 132) (wr : Bool) (a len : Nat) (data : Bytes) (p : NPurpose) : State :=
  s.each (splitRange 4096 (len / 4096 + 2) a 0 len) (fun t r => t.nQueue n wr r.1 r.2.2 (cut data r.2.1 r.2.2) p)

/-- A slice's own accesses for a byte range; a write shows in the view at once. -/
def State.nRange (s : State) (n : Fin 132) (wr : Bool) (a len : Nat) (data : Bytes) (p : NPurpose) : State :=
  (if wr then s.writeNear a data else s).nPieces n wr a len data p

/-- The hub's C-port is open (R384). -/
def State.cOpen (s : State) : Bool := s.live && s.hub.cVer.isOpen

/-- A request of the hub's C-port goes out: a write's data follow (R387, R394). -/
def State.cSent (s : State) (q : NReq) : State :=
  if q.wr then (s.modHub (fun h => { h with cWd := q.beats 64 })).spend 4 (q.beats 64).length else s

/-- A request of the hub's C-port (R394); 64 ids, and a request that finds none free, or the port not open (R382, R384), waits
with id 64. -/
def State.cQueue (s : State) (wr : Bool) (a len : Nat) (data : Bytes) (p : NPurpose) : State :=
  let q := NReq.of (if s.cOpen then (freeId 64 (s.hub.cOut.map (·.id))).getD 64 else 64) wr a len data p
  let s1 := s.modHub (fun h => { h with cOut := h.cOut ++ [q] })
  if q.id < 64 then s1.cSent q else s1

/-- A near-store access of the hub's C-port, in requests of at most 4,096 B (R394); a write shows in the view at once. -/
def State.cRequest (s : State) (wr : Bool) (a len : Nat) (data : Bytes) (p : NPurpose) : State :=
  (if wr then s.writeNear a data else s).each (splitRange 4096 (len / 4096 + 2) a 0 len)
    (fun t r => t.cQueue wr r.1 r.2.2 (cut data r.2.1 r.2.2) p)

/-- The requests left when the one with id `i` is done: the oldest waiting one takes its id. -/
def retireReq (i limit : Nat) (qs : List NReq) : List NReq :=
  let rest := qs.filter (fun q => q.id != i)
  match rest.findIdx? (fun q => q.id == limit) with
  | none => rest
  | some k => modifyAt k (fun q => { q with id := i }) rest

/-- A slice's request is done, and the oldest waiting one goes out with its id. -/
def State.nRetire (s : State) (n : Fin 132) (id : Nat) : State :=
  let s1 := s.modSlice n (fun x => { x with nOut := retireReq id 256 x.nOut })
  match (s1.slice n).nOut.find? (fun q => q.id == id) with
  | some q => s1.nSent n q
  | none => s1

/-- A request of the hub is done, and the oldest waiting one goes out with its id. -/
def State.cRetire (s : State) (id : Nat) : State :=
  let s1 := s.modHub (fun h => { h with cOut := retireReq id 64 h.cOut })
  match s1.hub.cOut.find? (fun q => q.id == id) with
  | some q => s1.cSent q
  | none => s1

/-- The oldest waiting request takes the lowest free id. -/
def State.cIssue (s : State) : State :=
  match freeId 64 (s.hub.cOut.map (·.id)), s.hub.cOut.findIdx? (fun q => q.id == 64) with
  | some i, some k =>
    let s1 := s.modHub (fun h => { h with cOut := modifyAt k (fun q => { q with id := i }) h.cOut })
    match s1.hub.cOut.find? (fun q => q.id == i) with
    | some q => s1.cSent q
    | none => s1
  | _, _ => s

/-- Granules of the near store that an unacknowledged write of the block covers, one still on its way by NACC among
them. -/
def State.nearDirty (s : State) : List Nat :=
  ((s.slices.toList.flatMap (·.nOut) ++ s.hub.cOut).filter (·.wr) |>.flatMap (fun q => granulesOf q.addr q.len))
    ++ s.net.flatMap (fun t => match t.body with | .nacc _ true a len _ => granulesOf a len | _ => [])

/-- Takes a near-store read's bytes into the view, granule by granule, but for those a pending write covers. -/
def State.learnRead (s : State) (a : Nat) (bs : Bytes) (bad : List Nat) : State :=
  let dirty := s.nearDirty
  s.each (granulesOf a bs.length) (fun t g =>
    let lo := Nat.max a g
    let hi := Nat.min (a + bs.length) (g + 64)
    if dirty.contains g then t else t.learnNear lo (cut bs (lo - a) (hi - lo)) (bad.filter (· == g)))

/-- Data beats of a read request: `lane` bytes a beat (R387, R393, R394). -/
def NReq.lastBeat (lane : Nat) (q : NReq) : Bool := q.got + lane ≥ q.len

end Sys2Proof.Machine
end

