-- ==== Sys2Proof/Machine/Gaz.lean ====
section
/-! DEFINITION. Gazetteer entries and their merging by the owner slice (R135 to R137, R323 to R326, R486). -/
namespace Sys2Proof.Machine

/-- Entry stride: 64 + 256 × 2^v bytes (R323). -/
def Context.gazStride (x : Context) : Nat := 64 + 256 * 2 ^ x.atlas.gazSpan.toNat

/-- Near-store address of gazetteer entry `e` (R323). -/
def Context.gazAddr (x : Context) (e : Nat) : Nat := x.atlas.gazBase.toNat + e * x.gazStride

/-- A gazetteer entry's header (Table 09-11). -/
structure GazHeader where
  tag : Nat
  conflict : Bool
  span : Nat
  y : Nat
  contributed : Nat
  page : Nat
  merges : Nat
deriving DecidableEq, Repr

/-- The header of an entry's bytes. -/
def GazHeader.ofBytes (bs : Bytes) : GazHeader :=
  { tag := wordField bs 0 32 16, conflict := wordBit bs 0 31, span := wordField bs 0 24 3, y := wordField bs 0 16 8
    contributed := wordField bs 0 0 16, page := wordField bs 1 0 36, merges := wordField bs 2 0 32 }

/-- The 64 bytes of a header. -/
def GazHeader.toBytes (h : GazHeader) : Bytes :=
  leBytes 8 (place h.tag 32 16 + place (b2n h.conflict) 31 1 + place h.span 24 3 + place h.y 16 8 + place h.contributed 0 16)
  ++ leBytes 8 (place h.page 0 36) ++ leBytes 8 (place h.merges 0 32) ++ zeros 40

/-- Values an entry summarises. -/
def GazHeader.n (h : GazHeader) : Nat := 128 * 2 ^ h.span

/-- The bounds stored behind a header: u then l (R324). -/
def gazBounds (bs : Bytes) (n : Nat) : List (Nat × Nat) :=
  (List.range n).map (fun j => (byteAt bs (64 + j), byteAt bs (64 + n + j)))

/-- The bytes of an entry. -/
def gazBytes (h : GazHeader) (b : List (Nat × Nat)) : Bytes :=
  h.toBytes ++ b.map (fun p => byteOf p.1) ++ b.map (fun p => byteOf p.2)

/-- The bounds of an entry in conflict: unbounded everywhere (R325). -/
def unbounded (n : Nat) : List (Nat × Nat) := List.replicate n (0x7F, 0xFF)

/-- The header that a first contribution gives an entry (R137). -/
def SummaryRec.header (q : SummaryRec) (tag : Nat) : GazHeader :=
  { tag := tag, conflict := false, span := Nat.log2 (q.n / 128), y := q.y, contributed := 2 ^ q.tile, page := q.page, merges := 1 }

/-- An entry in conflict: its header, or that of the contribution when it was empty, and unbounded everywhere (R325). -/
def gazConflict (h : GazHeader) (tag : Nat) (q : SummaryRec) : Bytes :=
  let k := if h.contributed == 0 && !h.conflict then q.header tag else h
  gazBytes { k with conflict := true } (unbounded k.n)

/-- An entry's bytes after a contribution, and whether it is a conflict (R137, R325). -/
def gazMerged (tag : Nat) (old : Bytes) (q : SummaryRec) : Bytes × Bool :=
  let h := GazHeader.ofBytes old
  let new := q.header tag
  if h.contributed == 0 && !h.conflict then (gazBytes new q.bounds, false)
  else if h.y == new.y && h.span == new.span && h.page == new.page then
    (gazBytes { h with contributed := if bitAt h.contributed q.tile then h.contributed else h.contributed + 2 ^ q.tile
                       merges := Nat.min (h.merges + 1) (2 ^ 32 - 1) } (mergeAll (gazBounds old q.n) q.bounds), false)
  else (gazConflict h tag q, true)

/-- The read of an entry has come to its owner: the entry after the contribution, and whether event 0x9005 is raised. A
torn entry is set in conflict (R486); an uncorrectable read is an integrity failure of the entry and leaves it unbounded
(assumption 22). -/
def State.gazEntry (s : State) (ph : GazPhase) (c : Fin 64) (q : SummaryRec) : Bytes × Bool :=
  let x := s.ctx c
  let r := s.readNear (x.gazAddr q.entry) x.gazStride
  if r.2 || ph == .torn then (gazConflict (GazHeader.ofBytes r.1) x.tag.toNat q, true) else gazMerged x.tag.toNat r.1 q

/-- A near-store request that belongs to a gazetteer entry. -/
def NPurpose.isGaz : NPurpose → Bool
  | .gaz .. => true
  | _ => false

/-- A slice merges into a gazetteer entry: its next one waits (R325). -/
def Slice.merging (x : Slice) : Bool := x.nOut.any (fun r => r.purpose.isGaz)

/-- Owner of an entry: logical slice S(x mod 128), or, when it has no physical slice, the lowest usable one, which takes
shares under R485 (R325, R486; assumption 23). -/
def State.gazOwner (s : State) (entry : Nat) : Option (Fin 132) :=
  match s.physOf (entry % 128) with
  | some n => some n
  | none => s.usable.head?.bind (fun l => s.physOf l.1)

end Sys2Proof.Machine
end

