-- ==== Sys2Proof/Machine/Flags.lean ====
section
/-! DEFINITION. Completion: status ranks, the flags and the bytes of completion records, and the queries over status
and legend flags (Tables 08-9 to 08-12, 09-9, 09-10). -/
namespace Sys2Proof.Machine

/-- Rank of a completion status (Table 08-10); the lowest rank is reported. -/
def statusRank : Nat → Nat
  | 0x00 => 15 | 0x01 => 14 | 0x02 => 13 | 0x03 => 12 | 0x04 => 11 | 0x24 => 10 | 0x10 => 9 | 0x11 => 8
  | 0x20 => 7 | 0x21 => 7 | 0x22 => 7 | 0x23 => 6 | 0x32 => 5 | 0x30 => 4 | 0x31 => 3 | 0x33 => 2 | 0x3F => 1
  | _ => 16

/-- `a` is reported before `b`: lower rank, then lower code (R288). -/
def outranks (a b : Nat) : Bool :=
  statusRank a < statusRank b || (statusRank a == statusRank b && a < b)

/-- The status a list of conditions gives: DONE when there is none (R288). -/
def bestStatus (conds : List Cond) : Nat := conds.foldl (fun acc c => if outranks c.status acc then c.status else acc) 0

/-- A tile index that comes first; a condition that names no tile comes last. -/
def tileBefore (a b : Option Nat) : Bool :=
  match a, b with
  | some x, some y => x < y
  | some _, none => true
  | none, _ => false

/-- The condition reported: among those of the best status, the lowest tile (R288). -/
def bestCond (conds : List Cond) : Cond :=
  (conds.filter (fun c => c.status == bestStatus conds)).foldl
    (fun acc c => if tileBefore c.tile acc.tile || acc.status != c.status then c else acc)
    { status := 0xFF, cause := 0, tile := none } |> fun c => if c.status == 0xFF then { status := 0, cause := 0, tile := none } else c

/-- Statuses whose record carries extension entries (R287). -/
def hasExtensions (status : Nat) : Bool := status == 0x30 || status == 0x3F || status == 0x23 || status == 0x32

/-- Word 1 of a record. -/
def Flags.word (f : Flags) : Nat :=
  place (b2n f.frogged) 10 1 + place (b2n f.discarded) 9 1 + place (b2n f.detached) 8 1 + place (b2n f.rowsSkipped) 7 1
    + place (b2n f.storePass) 6 1 + place (b2n f.escalationRate) 5 1 + place (b2n f.markDropped) 4 1
    + place (b2n f.markLost) 3 1 + place (b2n f.poisoned) 1 1 + place (b2n f.clipped) 0 1

/-- The slices a record's extension entries name: the step's slice_count, none for a step that binds no slice (R287,
R510). -/
def namedCount (x : Step) : Nat := if (x.op.map Opcode.noSlice).getD false then 0 else x.head.sliceCount

/-- The extension entries, at most 8: one 32-bit value for each slice in order j, the rest all ones (R287). -/
def extensionEntries (count : Nat) (last : List (Nat × Nat)) : List Bytes :=
  let vals := (List.range (Nat.min count 128)).map (fun j => (assoc j last).getD 0xFFFFFFFF)
  (pieces 16 vals).map (fun p => (p ++ List.replicate (16 - p.length) 0xFFFFFFFF).flatMap (leBytes 4))

/-- The resume token (Table 09-10). -/
def resumeToken (ctx slot serial : Nat) : Nat := place ctx 58 6 + place slot 44 14 + place serial 0 32

/-- The miss descriptor (Table 09-9). -/
def missWord (m : Miss) : Nat := place m.kind 60 4 + place m.station 56 4 + place m.level 54 2 + place m.page 0 36

/-- The completion record of step `x` with the counts and slices of `y` (for a RESUME, the suspended step's: R276). -/
def recordFor (x y : Step) (c : Cond) : CompRecord :=
  let exts := if hasExtensions c.status && namedCount y > 1 then extensionEntries (namedCount y) y.last else []
  let w0 := place exts.length 56 4 + place c.cause 48 8 + place x.head.tag 32 16 + place c.status 24 8
    + place x.index 16 8 + place x.pattern 0 16
  let res := if c.status == 0x32 then
      match y.miss with
      | none => 0
      | some m => resumeToken y.ctx.1 y.slot y.serialNo + (missWord m <<< 64)
    else y.result
  { slot := x.slot
    first := leBytes 8 w0 ++ leBytes 8 y.flags.word
      ++ leBytes 4 y.tilesDone ++ leBytes 4 (c.tile.getD 0xFFFFFFFF)
      ++ leBytes 4 y.countA ++ leBytes 4 y.countB ++ leBytes 16 res ++ zeros 16
    exts := exts }

/-- Bin of the step latency histogram (0x7300): bin 0 is 0 to 1, bin k is 2^k to 2^(k+1) - 1, bin 31 the rest. -/
def latencyBin (cycles : Nat) : Fin 32 := if h : Nat.log2 cycles < 32 then ⟨Nat.log2 cycles, h⟩ else 31

/-- The phase bit of a record whose first entry is entry number `tail` of the ring (R265). -/
def phaseBit (tail entries : Nat) : Nat := if tail / entries % 2 == 0 then 1 else 0

/-! ### A step takes its units' reports (R484) -/

/-- The sequence of chain index `n`. -/
def sequenceOf : List Nat → Nat → Nat → Nat
  | [], i, _ => i
  | l :: ls, i, n => if n < l then i else sequenceOf ls (i + 1) (n - l)

/-- The later of two chain indices of one slice's last tile. -/
def setLast (j : Nat) (n : Option Nat) (l : List (Nat × Nat)) : List (Nat × Nat) :=
  match n with
  | none => l
  | some v => (j, match assoc j l with | some w => Nat.max v w | none => v) :: l.filter (fun p => p.1 != j)

/-- Counts a tile that the row mask skips, once, however often the walk passes it (R334). -/
def Step.countRow (x : Step) (i : Nat) : Step :=
  if x.rowMark.any (fun e => e.1 ≤ i && i < e.2) then x
  else
    { x with countB := x.countB + 1
             rowMark := if x.rowMark.any (fun e => e.2 == i) then x.rowMark.map (fun e => if e.2 == i then (e.1, i + 1) else e)
               else (i, i + 1) :: x.rowMark }

/-- A step takes a report (R288, R290, R484). -/
def Step.take (x : Step) (r : Report) : Step :=
  let y : Step :=
    { x with
      countA := x.countA + r.countA, countB := x.countB + r.countB, result := x.result + r.result
      tilesDone := x.tilesDone + r.tiles, escalated := x.escalated + r.escalated, flags := x.flags.join r.flags
      conds := r.conds.foldl (fun l c => enterCond c l) x.conds
      last := setLast r.j r.last x.last
      perSeq := match r.last with
        | some n => if x.op == some .gather && r.tiles != 0 then modifyAt (sequenceOf x.seqLens 0 n) (· + r.tiles) x.perSeq else x.perSeq
        | none => x.perSeq
      doneShares := if r.shareDone && !x.doneShares.contains r.j then r.j :: x.doneShares else x.doneShares }
  let z : Step := { y with toDo := y.toDo - r.receivers }
  match r.skipped with
  | some i => z.countRow i
  | none => z

end Sys2Proof.Machine
end

