-- ==== Sys2Proof/Machine/Contour.lean ====
section
/-! DEFINITION. The contour codec: planes, predictors, residues, Rice codes, the encoder's choice, size classes and
the decoder's checks (05_contour_codec.md). -/
namespace Sys2Proof.Machine

/-- One plane of an element type: low bit, width and whether its residue is XOR (Table 05-3). -/
structure Plane where
  lo : Nat
  w : Nat
  xor : Bool
deriving DecidableEq, Repr

/-- Bytes per element (Table 05-3). -/
def elemBytes : Nat → Nat
  | 1 => 2 | 2 => 2 | 3 => 4 | 4 => 2 | _ => 1

/-- Planes of an element type; none for the reserved codes (Table 05-3). -/
def elemPlanes : Nat → List Plane
  | 0 => [⟨0, 8, false⟩]
  | 1 => [⟨7, 9, true⟩, ⟨0, 7, false⟩]
  | 2 => [⟨10, 6, true⟩, ⟨0, 10, false⟩]
  | 3 => [⟨23, 9, true⟩, ⟨0, 23, false⟩]
  | 4 => [⟨0, 16, false⟩]
  | 5 => [⟨3, 5, true⟩, ⟨0, 3, false⟩]
  | _ => []

/-- A 256-byte row split into the planes of its element type (R144). -/
def splitRow (et : Nat) (row : Bytes) : List (List Nat) :=
  let es := (pieces (elemBytes et) row).map leNat
  (elemPlanes et).map (fun p => es.map (fun e => field e p.lo p.w))

/-- The planes of a row joined into its 256 bytes (R153). -/
def joinRow (et : Nat) (planes : List (List Nat)) : Bytes :=
  let n := 256 / elemBytes et
  (List.range n).flatMap (fun i =>
    leBytes (elemBytes et) (sumNat (((elemPlanes et).zip planes).map (fun p => (p.2.getD i 0) <<< p.1.lo))))

/-- The unsigned residue of R150. -/
def residue (p : Plane) (x pred : Nat) : Nat :=
  if p.xor then Nat.xor x pred
  else
    let s := (x + 2 ^ p.w - pred) % 2 ^ p.w
    if s < 2 ^ (p.w - 1) then 2 * s else 2 * (2 ^ p.w - s) - 1

/-- The element of a residue and prediction (R150, inverse). -/
def invertResidue (p : Plane) (u pred : Nat) : Nat :=
  if p.xor then Nat.xor u pred
  else if u % 2 == 0 then (pred + u / 2) % 2 ^ p.w
  else (pred + 2 ^ p.w - (u + 1) / 2) % 2 ^ p.w

/-- Length of one code (R151). -/
def codeLen (w k u : Nat) : Nat := if u >>> k < 16 then (u >>> k) + 1 + k else 16 + w

/-- Bits of one code, in stream order (R151, R152). -/
def codeBits (w k u : Nat) : List Bool :=
  if u >>> k < 16 then List.replicate (u >>> k) true ++ [false] ++ bitList k u
  else List.replicate 16 true ++ bitList w u

/-- The Rice parameter of least total length, the smaller at a tie, and that length (R154). -/
def bestK (w : Nat) (us : List Nat) : Nat × Nat :=
  let len := fun k => sumNat (us.map (codeLen w k))
  (List.range w).foldl (fun best k => if len k < best.2 then (k, len k) else best) (0, len 0)

/-- Cost of a plane of residues (R154). -/
def planeCost (w : Nat) (us : List Nat) : Nat := if us.all (· == 0) then 1 else 6 + (bestK w us).2

/-- Bits of a plane: the zero flag, or k and the codes (Table 05-5). -/
def planeBits (w : Nat) (us : List Nat) : List Bool :=
  if us.all (· == 0) then [true]
  else
    let k := (bestK w us).1
    false :: (bitList 5 k ++ us.flatMap (codeBits w k))

/-- A row's predictor choice (Table 05-4, R146). -/
inductive Pred where
  | none | prev | stride | mean
  | matchRef (offset : Int)
  | matchBack (distance : Nat)
deriving DecidableEq, Repr

/-- Rows of a step's reference chain with their tile's poisoned flag (R147, R155). -/
abbrev RefRows := List (Bytes × Bool)

/-- Reference row `g + o`, when it lies in the chain (R146). -/
def refRow (ref : RefRows) (g o : Int) : Option (Bytes × Bool) :=
  let i := g + o
  if i < 0 then Option.none else ref[i.toNat]?

/-- The predictions of one plane of row `r` of known rows (Table 05-4). -/
def predictions (pred : Pred) (d r n pl : Nat) (rows : List (List (List Nat))) (mrow : List (List Nat)) : List Nat :=
  let planeOf := fun (q : Nat) => ((rows.getD q []).getD pl [])
  let prevP := (if r == 0 then 0 else (planeOf (r - 1)).getD (n - 1) 0) :: (planeOf r).dropLast
  let strideP := if r < d then List.replicate n 0 else planeOf (r - d)
  match pred with
  | .none => List.replicate n 0
  | .prev => prevP
  | .stride => strideP
  | .mean => (prevP.zip strideP).map (fun p => (p.1 + p.2) / 2)
  | _ => mrow.getD pl []

/-- The fixed leading fields of a row (Table 05-5, orders 1 to 3). -/
def predBits : Pred → List Bool
  | .none => bitList 3 0
  | .prev => bitList 3 1
  | .stride => bitList 3 2
  | .mean => bitList 3 3
  | .matchRef o => bitList 3 4 ++ [false] ++ bitList 11 ((o + 2048).toNat % 2048)
  | .matchBack b => bitList 3 4 ++ [true] ++ bitList 8 b

/-- MATCH candidates per row of an effort level (Table 05-6). -/
def matchCount : Nat → Nat
  | 0 => 0 | 1 => 1 | 2 => 4 | 3 => 16 | 4 => 64 | 5 => 256 | 6 => 1024 | _ => 4096

/-- Offset z(i) of R155: 0, −1, +1, −2, … -/
def zOffset (i : Nat) : Int := if i % 2 == 0 then Int.ofNat (i / 2) else -(Int.ofNat ((i + 1) / 2))

/-- Parameters of one contour step (R142, R144, R155). -/
structure ContourParams where
  elemType : Nat
  distance : Nat
  effort : Nat
deriving DecidableEq, Repr

/-- The candidates of row `r` in order, each with its matched row; skipped ones are left out (R154, R155). -/
def candidates (p : ContourParams) (ref : RefRows) (g r : Nat) (rows : List (List (List Nat))) :
    List (Pred × List (List Nat)) :=
  [(Pred.none, []), (Pred.prev, []), (Pred.stride, []), (Pred.mean, [])]
  ++ (List.range (matchCount p.effort)).filterMap (fun j =>
    if j % 2 == 0 then
      match refRow ref (g + r) (zOffset (j / 2)) with
      | some (bs, false) => some (Pred.matchRef (zOffset (j / 2)), splitRow p.elemType bs)
      | _ => Option.none
    else if (j + 1) / 2 ≤ r then some (Pred.matchBack ((j + 1) / 2), rows.getD (r - (j + 1) / 2) [])
    else Option.none)

/-- The residues of all planes of a row under a predictor. -/
def rowResidues (p : ContourParams) (r : Nat) (rows : List (List (List Nat))) (c : Pred × List (List Nat)) :
    List (Plane × List Nat) :=
  let n := 256 / elemBytes p.elemType
  (indexedPlanes (elemPlanes p.elemType)).map (fun ip =>
    let xs := (rows.getD r []).getD ip.1 []
    (ip.2, (xs.zip (predictions c.1 p.distance r n ip.1 rows c.2)).map (fun q => residue ip.2 q.1 q.2)))
where
  /-- Planes with their index. -/
  indexedPlanes (ps : List Plane) : List (Nat × Plane) := (List.range ps.length).zip ps

/-- Exact bit count of a row (R154). -/
def rowCost (c : Pred) (us : List (Plane × List Nat)) : Nat :=
  (predBits c).length + sumNat (us.map (fun q => planeCost q.1.w q.2))

/-- Bits of a row (Table 05-5). -/
def rowBits (c : Pred) (us : List (Plane × List Nat)) : List Bool :=
  predBits c ++ us.flatMap (fun q => planeBits q.1.w q.2)

/-- The chosen predictor of a row and its bits: the candidate of lowest cost, the earlier at a tie (R154). -/
def chooseRow (p : ContourParams) (ref : RefRows) (g r : Nat) (rows : List (List (List Nat))) : Pred × List Bool :=
  let scored := (candidates p ref g r rows).map (fun c =>
    let us := rowResidues p r rows c
    (c.1, rowCost c.1 us, us))
  match scored with
  | [] => (Pred.none, [])
  | c :: cs =>
    let best := cs.foldl (fun (b : Pred × Nat × List (Plane × List Nat)) c => if c.2.1 < b.2.1 then c else b) c
    (best.1, rowBits best.1 best.2.2)

/-- A coded block before placement (R142). -/
structure ContourBlock where
  tiles : Nat
  stored : Bytes
  storedLen : Nat
  padded : Bool
  noGain : Bool
deriving DecidableEq, Repr

/-- Whether a predictor draws on the reference stream. -/
def Pred.usesRef : Pred → Bool
  | .matchRef _ => true | _ => false

/-- The header word of Table 05-2. -/
def contourHeader (payloadLen d : Nat) (boundOff refUsed : Bool) (effort : Nat) (padded : Bool) (et tiles : Nat) : Nat :=
  place payloadLen 32 17 + place (d - 1) 21 4 + place (b2n boundOff) 20 1 + place (b2n refUsed) 19 1
    + place effort 16 3 + place (b2n padded) 15 1 + place et 12 3 + place (tiles - 1) 8 4 + 0xC7

/-- The size class of a block in bytes (R157). -/
def sizeClass (s payload : Nat) : Nat := ceilDiv (12 + payload) (s / 8) * (s / 8)

/-- Code a block of whole tiles: rows, header, source CRC and, in a keyed context, class padding (R142 to R158). -/
def encodeContour (p : ContourParams) (keyed boundOff : Bool) (ref : RefRows) (g : Nat) (source : Bytes) : ContourBlock :=
  let rows := (pieces 256 source).map (splitRow p.elemType)
  let chosen := (List.range rows.length).map (fun r => chooseRow p ref g r rows)
  let payload := packBits (chosen.flatMap (·.2))
  let s := source.length
  let tiles := s / 4096
  let hdr := contourHeader payload.length p.distance boundOff (chosen.any (fun c => c.1.usesRef)) p.effort keyed
    p.elemType tiles
  let body := leBytes 8 hdr ++ leBytes 4 (crc32c source) ++ payload
  let len := if keyed then sizeClass s payload.length else 12 + payload.length
  { tiles := tiles, stored := fitTo len body, storedLen := len, padded := keyed
    noGain := if keyed then len ≥ s else (12 + payload.length) * 16 > 15 * s }

/-- A bit reader: the value and the rest, none when the payload ends (Table 05-7). -/
def takeBits (n : Nat) (bits : List Bool) : Option (Nat × List Bool) :=
  if bits.length < n then Option.none else some (natOfBits (bits.take n), bits.drop n)

/-- Leading 1 bits up to 16; the terminating 0 is consumed below 16 (R151). -/
def takeUnary : Nat → List Bool → Option (Nat × List Bool)
  | 0, bits => some (0, bits)
  | _ + 1, [] => Option.none
  | _ + 1, false :: bits => some (0, bits)
  | n + 1, true :: bits => (takeUnary n bits).map (fun q => (q.1 + 1, q.2))

/-- One Rice code; none for a payload end or an escape below 16 (R151, Table 05-7). A code below the escape whose value is
2^w or more is no failure of Table 05-7 and is taken as it stands (DESIGN CHOICE, assumption 98). -/
def takeCode (w k : Nat) (bits : List Bool) : Option (Nat × List Bool) :=
  match takeUnary 16 bits with
  | Option.none => Option.none
  | some (q, rest) =>
    if q == 16 then
      match takeBits w rest with
      | some (u, rest') => if u >>> k < 16 then Option.none else some (u, rest')
      | Option.none => Option.none
    else (takeBits k rest).map (fun v => ((q <<< k) + v.1, v.2))

/-- `n` codes in order. -/
def takeCodes (w k : Nat) : Nat → List Bool → Option (List Nat × List Bool)
  | 0, bits => some ([], bits)
  | n + 1, bits =>
    match takeCode w k bits with
    | Option.none => Option.none
    | some (u, rest) => (takeCodes w k n rest).map (fun q => (u :: q.1, q.2))

/-- The residues of one plane (Table 05-5). -/
def takePlane (n w : Nat) (bits : List Bool) : Option (List Nat × List Bool) :=
  match takeBits 1 bits with
  | Option.none => Option.none
  | some (1, rest) => some (List.replicate n 0, rest)
  | some (_, rest) =>
    match takeBits 5 rest with
    | Option.none => Option.none
    | some (k, rest') =>
      if k > w - 1 then Option.none
      else match takeCodes w k n rest' with
        | Option.none => Option.none
        | some (us, rest'') => if us.all (· == 0) then Option.none else some (us, rest'')

/-- Invert a plane's residues from left to right (R145, R150): `prev` is the element to the left. -/
def invertPlane (p : Plane) (pred : Pred) : Nat → List Nat → List Nat → List Nat
  | _, [], _ => []
  | prev, u :: us, ss =>
    let s := ss.headD 0
    let guess := match pred with
      | .none => 0 | .prev => prev | .stride => s | .mean => (prev + s) / 2 | _ => s
    let x := invertResidue p u guess
    x :: invertPlane p pred x us (ss.drop 1)

/-- All planes of a row. -/
def takePlanes (p : ContourParams) (pred : Pred) (r : Nat) (rows : List (List (List Nat))) (mrow : List (List Nat)) :
    Nat → List Plane → List Bool → Option (List (List Nat) × List Bool)
  | _, [], bits => some ([], bits)
  | pl, q :: qs, bits =>
    let n := 256 / elemBytes p.elemType
    match takePlane n q.w bits with
    | Option.none => Option.none
    | some (us, rest) =>
      let planeOf := fun (k : Nat) => ((rows.getD k []).getD pl [])
      let prev0 := if r == 0 then 0 else (planeOf (r - 1)).getD (n - 1) 0
      let side := match pred with
        | .matchRef _ => mrow.getD pl [] | .matchBack _ => mrow.getD pl []
        | _ => if r < p.distance then List.replicate n 0 else planeOf (r - p.distance)
      let xs := invertPlane q pred prev0 us side
      (takePlanes p pred r rows mrow (pl + 1) qs rest).map (fun t => (xs :: t.1, t.2))

/-- The predictor fields of a row; the row matched and whether it is poisoned (R146, Table 05-7). `maxPred` is 4 for
version 4 and 3 for older blocks (R173). -/
def takePred (p : ContourParams) (maxPred : Nat) (ref : RefRows) (refOk : Bool) (g : Int) (r : Nat)
    (rows : List (List (List Nat))) (bits : List Bool) :
    Option (Pred × List (List Nat) × Bool × List Bool) :=
  match takeBits 3 bits with
  | Option.none => Option.none
  | some (c, rest) =>
    if c > maxPred then Option.none
    else if c == 4 then
      match takeBits 1 rest with
      | Option.none => Option.none
      | some (0, rest1) =>
        if !refOk then Option.none
        else match takeBits 11 rest1 with
          | Option.none => Option.none
          | some (o, rest2) =>
            match refRow ref (g + Int.ofNat r) (signed o 11) with
            | Option.none => Option.none
            | some (bs, bad) => some (Pred.matchRef (signed o 11), splitRow p.elemType bs, bad, rest2)
      | some (_, rest1) =>
        match takeBits 8 rest1 with
        | Option.none => Option.none
        | some (b, rest2) =>
          if b == 0 || b > r then Option.none
          else some (Pred.matchBack b, rows.getD (r - b) [], false, rest2)
    else some ((match c with | 0 => Pred.none | 1 => Pred.prev | 2 => Pred.stride | _ => Pred.mean), [], false, rest)

/-- Decode `n` more rows: the rows, which of them drew on poison, and the rest of the payload (R163, R164). -/
def takeRows (p : ContourParams) (maxPred : Nat) (ref : RefRows) (refOk : Bool) (g : Int) :
    Nat → List (List (List Nat)) → List Bool → List Bool → Option (List (List (List Nat)) × List Bool × List Bool)
  | 0, rows, bad, bits => some (rows, bad, bits)
  | n + 1, rows, bad, bits =>
    match takePred p maxPred ref refOk g rows.length rows bits with
    | Option.none => Option.none
    | some (pred, mrow, isBad, rest) =>
      match takePlanes p pred rows.length rows mrow 0 (elemPlanes p.elemType) rest with
      | Option.none => Option.none
      | some (planes, rest') => takeRows p maxPred ref refOk g n (rows ++ [planes]) (bad ++ [isBad]) rest'

/-- What the decoder makes of a block (R163 to R166). `refNeeded` is the ENABLE_CONFLICT case of R148. -/
inductive ContourOut where
  | metadata
  | refNeeded
  | ok (tiles : List Bytes) (poisoned : List Bool)
deriving DecidableEq, Repr

/-- What the decoder knows of the block from its legends and its step (Table 05-7). -/
structure BlockEnv where
  version : Nat
  keyed : Bool
  storedLen : Nat
  legendTiles : Nat
  hasRef : Bool
  hasWindow : Bool
deriving DecidableEq, Repr

/-- The header checks of Table 05-7 (R142, R143, R157, R173). An old block must have padded = 0 in every context: the row
'padded = 0 in a keyed context' is not applied to it (DEDUCED, assumption 101). -/
def headerOk (env : BlockEnv) (hdr : Nat) : Bool :=
  let tiles := field hdr 8 4 + 1
  let payload := field hdr 32 17
  let et := field hdr 12 3
  let padded := bitAt hdr 15
  let ident := field hdr 0 8
  if env.version == 4 then
    ident == 0xC7 && field hdr 49 15 == 0 && field hdr 25 7 == 0 && et < 6 && tiles == env.legendTiles
      && (padded || !env.keyed)
      && env.storedLen == (if padded then sizeClass (4096 * tiles) payload else 12 + payload)
  else
    ident == (if env.version == 2 then 0xC5 else 0xC6) && field hdr 49 15 == 0 && field hdr 25 7 == 0 && tiles == 1 && !bitAt hdr 19 && !padded && et < 2
      && env.storedLen == 12 + payload

/-- Decode the first `rows` rows of a stored block, as tiles of 16 rows each (R161 to R166, R173, R333). -/
def decodeRows (env : BlockEnv) (ref : RefRows) (g : Int) (rows : Nat) (stored : Bytes) : ContourOut :=
  let hdr := leAt stored 0 8
  let p : ContourParams := { elemType := field hdr 12 3, distance := field hdr 21 4 + 1, effort := field hdr 16 3 }
  let tiles := field hdr 8 4 + 1
  let refUsed := bitAt hdr 19
  if stored.length < 12 || !headerOk env hdr || rows > 16 * tiles then .metadata
  else if refUsed && !env.hasWindow then .refNeeded
  else if refUsed && !env.hasRef then .metadata
  else
    let payload := cut stored 12 (field hdr 32 17)
    match takeRows p (if env.version == 4 then 4 else 3) ref refUsed g rows [] [] (bitsOf payload) with
    | Option.none => .metadata
    | some (done, bad, rest) =>
      let bs := done.map (joinRow p.elemType)
      let whole := rows == 16 * tiles
      let tailOk := !whole || (rest.length ≤ 7 && rest.all (fun b => !b)
        && (stored.drop (12 + field hdr 32 17)).all (fun b => b == 0#8))
      let out := (pieces 16 bs).map (fun rs => rs.flatten)
      let badTiles := (pieces 16 bad).map (fun fs => fs.any id)
      let crcBad := whole && crc32c out.flatten != leAt stored 8 4
      if !tailOk then .metadata else .ok out (badTiles.map (fun b => b || crcBad))

/-- Decode tiles 0 to `last` of a stored block (R164). -/
def decodeContour (env : BlockEnv) (ref : RefRows) (g : Int) (last : Nat) (stored : Bytes) : ContourOut :=
  decodeRows env ref g (16 * (last + 1)) stored

/-- The swatch sample of R176. -/
def swatchSample : Bytes :=
  (List.range 256).flatMap (fun r => (List.range 256).map (fun c => byteOf ((7 * c + 13 * r) % 256)))

/-- The swatch with its rows in reverse order, as reference rows (R176). -/
def swatchReference : RefRows := ((pieces 256 swatchSample).reverse).map (fun r => (r, false))

/-- The stored swatch block of an effort (R176); bound_off, which no step decides for it, is 1 (DESIGN CHOICE, assumption
100). -/
def swatchBlock (effort : Nat) : Bytes :=
  (encodeContour ⟨0, 1, effort⟩ false true swatchReference 0 swatchSample).stored

/-- Contour compress rate in bytes per cycle (Table 05-6). -/
def contourRate : Nat → Nat
  | 0 => 64 | 1 => 48 | 2 => 32 | 3 => 16 | 4 => 8 | 5 => 4 | 6 => 2 | _ => 1

/-- Cycles to code a block of `s` source bytes (R167); they depend on size and effort alone (R169). -/
def contourCycles (s effort : Nat) : Nat := ceilDiv s (contourRate effort) + 48

end Sys2Proof.Machine
end

