-- ==== Sys2Proof/Machine/Requests.lean ====
section
/-! DEFINITION. Requests on the M-ports and near-store accesses of the stations, and what a station has read before it
goes on (R233 to R235, R301, R348, R392, R511). -/
namespace Sys2Proof.Machine

/-! ### Requests (R233 to R235) -/

/-- Byte address after a request. -/
def MReq.stop (q : MReq) : Nat := q.first + 64 * q.granules

/-- A range within one 2,048 B block joins an open request (R234). -/
def MReq.joins (q : MReq) (c : Fin 64) (k : RangeKind) (r : MRange) : Bool :=
  let g := r.addr / 64 * 64
  q.ctx == c && q.kind == k && (g == q.stop || g + 64 == q.stop) && q.first / 2048 == (r.addr + r.len - 1) / 2048

/-- The request with a range appended. -/
def MReq.add (q : MReq) (r : MRange) : MReq :=
  { q with granules := (roundUp (r.addr + r.len) 64 - q.first) / 64, ranges := q.ranges ++ [r] }

/-- A new request of one range. -/
def MReq.ofRange (cls : ReqClass) (wr : Bool) (c : Fin 64) (k : RangeKind) (r : MRange) : MReq :=
  { cls := cls, wr := wr, ctx := c, kind := k, first := r.addr / 64 * 64
    granules := (roundUp (r.addr + r.len) 64 - r.addr / 64 * 64) / 64, ranges := [r], scrub := false, fill := none }

/-- Two requests touch a granule in common. -/
def MReq.overlaps (a b : MReq) : Bool := a.first < b.stop && b.first < a.stop

/-- Its place in the order of acceptance: that of its oldest range (R234, R285). -/
def MReq.order (q : MReq) : Nat := (q.ranges.head?.map (·.order)).getD 0

/-- Every range of it is traffic of a re-wrap sweep (R359). -/
def MReq.sweep (q : MReq) : Bool := q.ranges.all (·.sweep)

/-- Two requests must keep their order: they touch a granule in common, and one of them writes (R69, R235). -/
def MReq.conflicts (a b : MReq) : Bool := a.order != b.order && (a.wr || b.wr) && a.overlaps b

/-- A sweep's request goes behind those of the steps of its class, unless another request has to wait for it (R359; assumption
110). -/
def MReq.yields (q : MReq) (others : List MReq) : Bool := q.sweep && !others.any q.conflicts

/-- Request `b` goes before `q`: it was accepted first, in its class or of the same bytes; but a sweep's request goes behind
its class (R235, R285, R359). -/
def MReq.before (others : List MReq) (b q : MReq) : Bool :=
  (b.conflicts q && b.order < q.order)
    || (b.cls == q.cls && (if b.yields others == q.yields others then b.order < q.order else q.yields others))

/-- Closes the open requests that a predicate names, keeping their order (R234). -/
def Station.closeOpens (x : Station) (p : MReq → Bool) : Station :=
  { x with opens := x.opens.filter (fun q => !p q), closed := x.closed ++ x.opens.filter p }

/-- A request that has reached 2,048 B. -/
def MReq.full (q : MReq) : Bool := q.granules ≥ 32

/-- Appends one range, which crosses no 2,048 B boundary: to the open request of its class and direction, or to a new
one; an open request it cannot join, and one of another kind that it overlaps, is closed first (R234, R235). -/
def Station.append (x0 : Station) (cls : ReqClass) (wr : Bool) (c : Fin 64) (k : RangeKind) (r0 : MRange) : Station :=
  let r := { r0 with order := x0.accepted }
  let x := { x0 with accepted := x0.accepted + 1 }
  let n := MReq.ofRange cls wr c k r
  let mine := fun (q : MReq) => q.cls == cls && q.wr == wr
  let y := x.closeOpens (fun q => if mine q then !q.joins c k r else q.overlaps n)
  let z : Station := if y.opens.any mine then { y with opens := y.opens.map (fun q => if mine q then q.add r else q) }
    else { y with opens := y.opens ++ [n] }
  z.closeOpens MReq.full

/-- Adds a byte range for a job; the station knows how many requests the job waits for. -/
def State.addRange (s : State) (m : Fin 12) (cls : ReqClass) (wr : Bool) (c : Fin 64) (k : RangeKind) (a len : Nat) (data : Bytes)
    (job off : Nat) : State :=
  let ps := splitRange 2048 (len / 2048 + 2) a off len
  s.modStation m (fun x =>
    let y := ps.foldl (fun (z : Station) p =>
      z.append cls wr c k { addr := p.1, len := p.2.2, data := cut data (p.2.1 - off) p.2.2, job := job, off := p.2.1, order := 0, sweep := false }) x
    { y with jobs := y.jobs.map (fun j => if j.id == job then { j with waiting := j.waiting + ps.length } else j) })

/-- A new job of a station; 0 is no job's number. -/
def State.newJob (s : State) (m : Fin 12) (k : JobKind) : State × Nat :=
  let id := (s.station m).nextJob + 1
  (s.modStation m (fun x =>
    { x with nextJob := id
             jobs := x.jobs ++ [{ id := id, kind := k, waiting := 0, bad := [], legends := none, buf := [], tile := none }] }), id)

/-- Changes a job. -/
def State.modJob (s : State) (m : Fin 12) (id : Nat) (f : Job → Job) : State :=
  s.modStation m (fun x => { x with jobs := x.jobs.map (fun j => if j.id == id then f j else j) })

/-- Ends a job. -/
def State.endJob (s : State) (m : Fin 12) (id : Nat) : State :=
  s.modStation m (fun x => { x with jobs := x.jobs.filter (fun j => j.id != id) })

/-- The ranges a station has accepted from number `n` on become a sweep's. -/
def Station.markSweep (x : Station) (n : Nat) : Station :=
  let mark := fun (q : MReq) => { q with ranges := q.ranges.map (fun r => if r.order ≥ n then { r with sweep := true } else r) }
  { x with opens := x.opens.map mark, closed := x.closed.map mark }

/-- What `f` asks of the M-ports is traffic of a re-wrap sweep (R359). -/
def State.asSweep (s : State) (f : State → State) : State :=
  let t := f s
  { t with stations := Vector.ofFn (fun m => (t.station m).markSweep (s.station m).accepted) }

/-- The write-data beats of an M-port request (R387). -/
def MReq.beats (q : MReq) : List WBeat :=
  writeBeats 512 (writeLanes (64 * q.granules) (q.ranges.map (fun r => (r.addr - q.first, r.data))))

/-- The byte enables of a beat; at M-port version 2 one for each granule, in bits [7:0] (Table 11-2, R387). -/
def WBeat.enables (b : WBeat) (version : Nat) : List Bool :=
  if version == 2 then (List.range 8).map (fun g => ((b.lanes.drop (64 * g)).take 64).any (·.isSome)) else b.lanes.map (·.isSome)

/-- A write request of an M-port goes out, and its data follow (R387). -/
def State.mSent (s : State) (m : Fin 12) (q : MReq) : State :=
  if q.wr then (s.modStation m (fun x => { x with mWd := q.beats })).spend 2 q.beats.length else s

/-! ### Writes that no job waits for -/

/-- Writes a station's stack: the view shows it at once, and the write-class requests follow (R301, R310, R356). -/
def State.putStack (s : State) (m : Fin 12) (c : Fin 64) (k : RangeKind) (a : Nat) (bs : Bytes) : State :=
  if bs.isEmpty then s else (s.writeStack m a bs).addRange m .write true c k a bs.length bs 0 0

/-- A near-store write by NACC: the view shows it at once, and the access goes to the slice (R392, R511). -/
def State.naccWrite (s : State) (u : UnitId) (n : Fin 132) (tag a : Nat) (bs : Bytes) : State :=
  (s.writeNear a bs).post u (.slice n) (.nacc tag true a bs.length bs)

/-- Writes the near store for a station, through its slice (R348, R511). -/
def State.putNear (s : State) (m : Fin 12) (a : Nat) (bs : Bytes) : State :=
  match s.nearSliceOf m with
  | some n => s.naccWrite (.ms m) n 16384 a bs
  | none => s.writeNear a bs

/-! ### Reads that a row waits for -/

/-- The granules of the near store that hold `len` bytes at `a`, as station `m` reads them. -/
def nearLook (m : Fin 12) (a len : Nat) : Look :=
  { ms := m, place := none, addr := a / 64 * 64, len := roundUp (a + len) 64 - a / 64 * 64 }

/-- A range of a stack. -/
def stackLook (m : Fin 12) (k : RangeKind) (a len : Nat) : Look := { ms := m, place := some k, addr := a, len := len }

/-- A read a station has made for someone and that still stands. -/
def State.hasSeen (s : State) (who : Asker) (l : Look) : Bool := (s.station l.ms).seen.contains (who, l)

/-- The first read of a list that has still to be made: one at a time, since where the next one lies may depend on it. A
station that cannot serve makes none. -/
def State.lacks (s : State) (who : Asker) (ls : List Look) : Option Look :=
  ls.find? (fun l => l.len != 0 && s.stationUp l.ms && !s.hasSeen who l)

/-- The class of a read that a station makes for someone: remote for a peer and for the steps that send to peers or take in
from them, else read (R283, R301). -/
def State.lookClass (s : State) (who : Asker) : ReqClass :=
  match who with
  | .peer _ => .remote
  | .own _ => .read
  | .step slot => match (s.step? slot).bind (·.op) with
    | some .send | some .mcast | some .recv => .remote
    | _ => .read

/-- Makes a read, unless it is under way: by NACC for the near store, in its class for a stack (R283, R301, R511). -/
def State.seek (s : State) (who : Asker) (c : Fin 64) (l : Look) : State :=
  if (s.station l.ms).asked.contains (who, l) then s
  else
    let s1 := s.modStation l.ms (fun x => { x with asked := (who, l) :: x.asked })
    match l.place with
    | none => match s.nearSliceOf l.ms with
      | some n => s1.post (.ms l.ms) (.slice n) (.nacc 16384 false l.addr l.len [])
      | none => s1
    | some k =>
      let p := s1.newJob l.ms (.look who l)
      p.1.addRange l.ms (s.lookClass who) false c k l.addr l.len [] p.2 0

/-- For whom the reads of a fetch are made: its step, or a peer. -/
def FetchRec.asker (f : FetchRec) : Asker := if f.remoteFor.isSome then .peer f.ctx else .step f.slot

/-- None when every read of a list has been made, else the state that makes the next one. -/
def State.need (s : State) (who : Asker) (c : Fin 64) (ls : List Look) : Option State :=
  (s.lacks who ls).map (fun l => s.seek who c l)

/-- Reads that have come to a station: they are no longer asked for, and stand for who asked. -/
def Station.take (x : Station) (p : Look → Bool) : Station :=
  { x with asked := x.asked.filter (fun a => !p a.2), seen := x.asked.filter (fun a => p a.2) ++ x.seen }

/-- A near-store access of a station has returned its data (R511). -/
def State.nearCame (s : State) (m : Fin 12) (a len : Nat) : State :=
  s.modStation m (fun x => x.take (fun l => l.place.isNone && l.addr == a && l.len == len))

/-- A read of a stack has come for who asked. -/
def State.stackCame (s : State) (m : Fin 12) (who : Asker) (l : Look) : State :=
  s.modStation m (fun x =>
    { x with asked := x.asked.filter (· != (who, l)), seen := if x.asked.contains (who, l) then (who, l) :: x.seen else x.seen })

/-- Drops reads on every station. -/
def State.forget (s : State) (p : Asker × Look → Bool) : State :=
  { s with stations := s.stations.map (fun x => { x with asked := x.asked.filter (fun a => !p a), seen := x.seen.filter (fun a => !p a) }) }

/-- Drops the standing reads of a list. -/
def State.forgetLooks (s : State) (who : Asker) (ls : List Look) : State := s.forget (fun a => a.1 == who && ls.contains a.2)

/-- Near-store reads that were under way through a slice that has failed are made again (R482, R485). -/
def State.reseek (s : State) : State :=
  { s with stations := s.stations.map (fun x => { x with asked := x.asked.filter (fun a => a.2.place.isSome) }) }

end Sys2Proof.Machine
end

