-- ==== Sys2Proof/Machine/Pages.lean ====
section
/-! DEFINITION. Pages on the stacks: version counters, sealed atlas entries and tiles, the atlas walk, frames, share
records, read epochs and write sessions (09_atlas_kv_pages.md, 10_contexts_security.md). -/
namespace Sys2Proof.Machine

/-! ### Version counters (R348, R349) -/

/-- 64 KiB pages of station `m`'s stack (R348). -/
def State.stackPages (s : State) (m : Fin 12) : Nat :=
  if (s.station m).idValid then 2 ^ ((s.station m).capacityLog2 + 14) else 0

/-- Near-store address of the counter of physical page `pg` of station `m` (R348). -/
def State.counterAddr (s : State) (m : Fin 12) (pg : Nat) : Nat :=
  s.hub.dict.counterSheet.toNat
    + 8 * (sumNat ((allFin 12).filterMap (fun i => if i.1 < m.1 then some (s.stackPages i) else none)) + pg)

/-- A version counter and whether its read was uncorrectable. -/
def State.counter (s : State) (m : Fin 12) (pg : Nat) : Nat × Bool :=
  let r := s.readNear (s.counterAddr m pg) 8
  (leNat r.1, r.2)

/-- The read of a counter (R348). -/
def State.counterLook (s : State) (m : Fin 12) (pg : Nat) : Look := nearLook m (s.counterAddr m pg) 8

/-- Writes a counter, never below its present value (R348). -/
def State.setCounter (s : State) (m : Fin 12) (pg v : Nat) : State :=
  s.putNear m (s.counterAddr m pg) (leBytes 8 (Nat.max (s.counter m pg).1 v))

/-! ### Keys -/

/-- The 32 bytes of a key. -/
def keyBytes (k : BitVec 256) : Bytes := leBytes 32 k.toNat

/-- The context key of a generation, while its slot is LOADED or DRAINING (R352). -/
def Context.keyOf (x : Context) (gen : Nat) : Option Bytes :=
  if x.cur.state != .empty && x.cur.gen.toNat == gen then some (keyBytes x.cur.key)
  else if x.prev.state != .empty && x.prev.gen.toNat == gen then some (keyBytes x.prev.key)
  else none

/-- Generations a reader accepts (R64 check 3). -/
def Context.gens (x : Context) : List Nat :=
  (if x.cur.state != .empty then [x.cur.gen.toNat] else []) ++ (if x.prev.state != .empty then [x.prev.gen.toNat] else [])

/-- Weight slots bound to a context (R362). -/
def State.boundSlots (s : State) (c : Fin 64) : List Nat :=
  ((allFin 16).filter (fun w => bitAt (s.hub.weights[w.1]).bindMask.toNat c.1 && (s.hub.weights[w.1]).state != .empty)).map (·.1)

/-! ### Atlas entries (R294, R297) -/

/-- Bytes of an entry that are protected: 8 of an interior entry, 24 of a leaf; the check word follows them. -/
def entryBody (leaf : Bool) : Nat := if leaf then 24 else 8

/-- The clear body of stored entry bytes, or none when the check fails (R297). -/
def openEntry (keyed : Bool) (key : Bytes) (station tag version addr : Nat) (leaf : Bool) (stored : Bytes) : Option Bytes :=
  let n := entryBody leaf
  let body := stored.take n
  let check := leAt stored n 8
  if keyed then
    if leNat (tagOf key body (counterBlock 3 station tag (addr / 16) version)) == check
    then some (cryptAt key station tag version addr body) else none
  else if stored.all (· == 0#8) then some body
  else if check == crc32c body then some body else none

/-- The stored bytes of a clear body (R297). -/
def sealEntry (keyed : Bool) (key : Bytes) (station tag version addr : Nat) (body : Bytes) : Bytes :=
  if keyed then
    let enc := cryptAt key station tag version addr body
    enc ++ tagOf key enc (counterBlock 3 station tag (addr / 16) version)
  else body ++ leBytes 8 (crc32c body)

/-- The atlas key of a context, as bytes. -/
def Context.atlasKeyBytes (x : Context) : Bytes := keyBytes (x.atlasKey.getD 0)

/-- What reading an entry gives. -/
inductive EntryRead where
  | ok (body : Bytes)
  | badCheck
  | badCounter
deriving DecidableEq, Repr

/-- Reads an entry from a stack (R297, R348, R389). -/
def State.readEntry (s : State) (c : Fin 64) (m : Fin 12) (addr : Nat) (leaf : Bool) : EntryRead :=
  let x := s.ctx c
  let r := s.readStack m addr (entryBody leaf + 8)
  let v := s.counter m (addr / 65536)
  if x.keyed && v.2 then .badCounter
  else if r.2 then .badCheck
  else match openEntry x.keyed x.atlasKeyBytes m.1 x.tag.toNat v.1 addr leaf r.1 with
    | none => .badCheck
    | some b => .ok b

/-- The reads that an entry needs: the 64 B granule it lies in, and in a keyed context its page's counter (R301, R348). -/
def State.entryLooks (s : State) (c : Fin 64) (m : Fin 12) (addr : Nat) : List Look :=
  (if (s.ctx c).keyed then [s.counterLook m (addr / 65536)] else []) ++ [stackLook m .atlasEntry (addr / 64 * 64) 64]

/-- Atlas physical pages a step has opened a session on (R357). -/
abbrev Opened := List (Nat × Nat)

/-- Reseals one entry from version `v` to `v + 1`; an entry whose tag fails is left as stored and reported (R356). -/
def State.resealEntry (s : State) (c : Fin 64) (m : Fin 12) (leaf : Bool) (v : Nat) (addr : Nat) : State :=
  let x := s.ctx c
  let r := s.readStack m addr (entryBody leaf + 8)
  match (if r.2 then none else openEntry true x.atlasKeyBytes m.1 x.tag.toNat v addr leaf r.1) with
  | some b => s.putStack m c .atlasEntry addr (sealEntry true x.atlasKeyBytes m.1 x.tag.toNat (v + 1) addr b)
  | none => s.raise 0x9006 (some c) (0x90 + m.1) (addr / 65536) (addr % 65536)

/-- The part of a node that lies in the physical page of `addr`: first byte and length. -/
def nodePart (node nodeLen addr : Nat) : Nat × Nat :=
  let lo := Nat.max node (addr / 65536 * 65536)
  (lo, Nat.min (node + nodeLen) ((addr / 65536 + 1) * 65536) - lo)

/-- The reads that a write of an entry needs besides its own: the node's part in the physical page, when the write opens
a session there (R355 to R357). -/
def State.writeLooks (s : State) (o : Opened) (c : Fin 64) (m : Fin 12) (node nodeLen addr : Nat) : List Look :=
  if !(s.ctx c).keyed || o.contains (m.1, addr / 65536) then []
  else [s.counterLook m (addr / 65536), stackLook m .atlasEntry (nodePart node nodeLen addr).1 (nodePart node nodeLen addr).2]

/-- Opens the write session of an atlas physical page: the counter goes from v to v + 1 and every entry of the node in
that page is rewritten under v + 1 (R355 to R357). -/
def State.openAtlasPage (s : State) (o : Opened) (c : Fin 64) (m : Fin 12) (leaf : Bool) (node nodeLen addr : Nat) :
    State × Opened :=
  let pg := addr / 65536
  if !(s.ctx c).keyed || o.contains (m.1, pg) then (s, o)
  else
    let v := (s.counter m pg).1
    let size := entryBody leaf + 8
    let part := nodePart node nodeLen addr
    let s1 := s.setCounter m pg (v + 1)
    (s1.each ((List.range (part.2 / size)).map (fun i => part.1 + i * size)) (fun t a => t.resealEntry c m leaf v a),
      (m.1, pg) :: o)

/-- Writes an entry's clear body at its address inside a node (R297, R303). -/
def State.writeEntry (s : State) (o : Opened) (c : Fin 64) (m : Fin 12) (leaf : Bool) (node nodeLen addr : Nat)
    (body : Bytes) : State × Opened :=
  let p := s.openAtlasPage o c m leaf node nodeLen addr
  let x := s.ctx c
  let v := (p.1.counter m (addr / 65536)).1
  (p.1.putStack m c .atlasEntry addr (sealEntry x.keyed x.atlasKeyBytes m.1 x.tag.toNat v addr body), p.2)

/-- Physical pages of a node that a step has no session on. -/
def newNodePages (o : Opened) (m : Fin 12) (node nodeLen : Nat) : List Nat :=
  ((List.range ((node + nodeLen - 1) / 65536 - node / 65536 + 1)).map (fun i => node / 65536 + i)).filter (fun pg => !o.contains (m.1, pg))

/-- Writes every entry of a node as an invalid or ABSENT one with a valid check; an atlas physical page the step has no
session on takes the present version plus one (R354, R355, R357). -/
def State.initNode (s : State) (o : Opened) (c : Fin 64) (m : Fin 12) (leaf : Bool) (node nodeLen : Nat) : State × Opened :=
  let x := s.ctx c
  let size := entryBody leaf + 8
  let new := newNodePages o m node nodeLen
  let s1 := s.each new (fun t pg => t.setCounter m pg ((t.counter m pg).1 + 1))
  let entryAt := fun (a : Nat) =>
    sealEntry true x.atlasKeyBytes m.1 x.tag.toNat (s1.counter m (a / 65536)).1 a (zeros (entryBody leaf))
  (s1.putStack m c .atlasEntry node ((List.range (nodeLen / size)).flatMap (fun i => entryAt (node + i * size))),
    new.map (fun pg => (m.1, pg)) ++ o)

/-! ### The walk (R293, R299) -/

/-- Home station of a page (R293). -/
def homeOf (c : Fin 64) (p : Nat) : Fin 12 := ⟨(p + c.1) % 12, Nat.mod_lt _ (by decide)⟩

/-- What a walk gives. -/
inductive WalkRes where
  | leaf (l : Leaf) (node addr : Nat)
  | miss (level : Nat)
  | integrity (cause : Nat)
  | stationDown
deriving DecidableEq, Repr

/-- The root-node address of a context on a station, from the near-store table (R292, R294). -/
def State.rootAddr (s : State) (c : Fin 64) (m : Fin 12) : Option Nat :=
  let a := (s.ctx c).atlas.roots.toNat
  if a == 0 then some 0
  else
    let r := s.readNear (a + 8 * m.1) 8
    if r.2 then none else some (leNat r.1)

/-- The read of a context's root address (R511). -/
def State.rootLooks (s : State) (c : Fin 64) (m : Fin 12) : List Look :=
  let a := (s.ctx c).atlas.roots.toNat
  if a == 0 then [] else [nearLook m (a + 8 * m.1) 8]

/-- An interior entry: its node's address when valid. -/
def interiorNode (body : Bytes) : Option Nat := if wordBit body 0 63 then some (wordField body 0 0 38) else none

/-- The interior part of the walk: the leaf node's address (Tables 09-2, 09-3). -/
def State.leafNode (s : State) (c : Fin 64) (m : Fin 12) (q : Nat) : WalkRes :=
  match s.rootAddr c m with
  | none => .integrity 0x01
  | some 0 => .miss 0
  | some root =>
    match s.readEntry c m (root + 16 * field q 24 9) false with
    | .badCheck => .integrity 0x01
    | .badCounter => .integrity 0x02
    | .ok b => match interiorNode b with
      | none => .miss 0
      | some mid =>
        match s.readEntry c m (mid + 16 * field q 12 12) false with
        | .badCheck => .integrity 0x01
        | .badCounter => .integrity 0x02
        | .ok b2 => match interiorNode b2 with
          | none => .miss 1
          | some node => .leaf Leaf.absent node (node + 32 * field q 0 12)

/-- The reads of the interior part of a walk, each after those that say where it lies, and behind them what `more`
names when the walk has found its leaf node. -/
def State.nodeLooks (s : State) (c : Fin 64) (m : Fin 12) (q : Nat) (more : Nat → List Look) : List Look :=
  s.rootLooks c m ++ (match s.rootAddr c m with
    | none | some 0 => []
    | some root =>
      let a := root + 16 * field q 24 9
      s.entryLooks c m a ++ (match s.readEntry c m a false with
        | .ok b => match interiorNode b with
          | none => []
          | some mid =>
            let a2 := mid + 16 * field q 12 12
            s.entryLooks c m a2 ++ (match s.readEntry c m a2 false with
              | .ok b2 => match interiorNode b2 with
                | none => []
                | some node => more node
              | _ => [])
        | _ => []))

/-- The reads of the walk of page `p` (R299, R301). -/
def State.walkLooks (s : State) (c : Fin 64) (p : Nat) : List Look :=
  let m := homeOf c p
  if s.stationUp m then s.nodeLooks c m (p / 12) (fun node => s.entryLooks c m (node + 32 * field (p / 12) 0 12)) else []

/-- The walk of page `p` in context `c` (R293, R294, R297). -/
def State.walk (s : State) (c : Fin 64) (p : Nat) : WalkRes :=
  let m := homeOf c p
  if !s.stationUp m then .stationDown
  else match s.leafNode c m (p / 12) with
    | .leaf _ node addr =>
      match s.readEntry c m addr true with
      | .badCheck => .integrity 0x01
      | .badCounter => .integrity 0x02
      | .ok b => .leaf (Leaf.ofBytes b) node addr
    | r => r

/-- The reads of a change of a page's leaf: its walk, what `more` the old leaf asks for, and the session of the node
(R300, R355). -/
def State.leafLooks (s : State) (o : Opened) (c : Fin 64) (p : Nat) (more : Leaf → List Look) : List Look :=
  s.walkLooks c p ++ (match s.walk c p with
    | .leaf l node addr => more l ++ s.writeLooks o c (homeOf c p) node 131072 addr
    | _ => [])

/-- Changes the leaf of a page whose walk succeeds (R300). -/
def State.setLeaf (s : State) (o : Opened) (c : Fin 64) (p : Nat) (l : Leaf) : State × Opened :=
  match s.walk c p with
  | .leaf _ node addr => s.writeEntry o c (homeOf c p) true node 131072 addr l.toBytes
  | _ => (s, o)

/-! ### Frames, share records and epochs (R307 to R311) -/

/-- A frame from a pool. -/
structure Frame where
  station : Fin 12
  stitch : Nat
  legend : Nat
  large : Bool
deriving DecidableEq, Repr

/-- What an allocation gives. -/
inductive AllocRes where
  | ok (f : Frame) (s : State)
  | poolEmpty
  | integrity
deriving DecidableEq, Repr

/-- One descriptor of the pool table (Table 09-8): ring base, log2 of entries, producer and consumer counts. -/
def State.poolDescriptor (s : State) (c : Fin 64) (i : Nat) : Option (Nat × Nat × Nat × Nat) :=
  let r := s.readNear ((s.ctx c).atlas.pool.toNat + 32 * i) 32
  if r.2 then none else some (wordField r.1 0 0 34, wordField r.1 1 0 5, wordField r.1 2 0 32, wordField r.1 3 0 32)

/-- A ring of the pool table that can be used (R307). -/
def poolUsable (d : Nat × Nat × Nat × Nat) : Bool := 4 ≤ d.2.1 && d.2.1 ≤ 16 && d.1 % 16 == 0

/-- Near-store address of the descriptor of station `m`'s pool for a span (Table 09-8, R307). -/
def State.poolAddr (s : State) (c : Fin 64) (m : Fin 12) (span : Nat) : Nat :=
  (s.ctx c).atlas.pool.toNat + 32 * (2 * m.1 + b2n (span > 32768))

/-- The reads of an allocation: the pool's descriptor and the entry it names (R307, R511). -/
def State.poolLooks (s : State) (c : Fin 64) (m : Fin 12) (span : Nat) : List Look :=
  if (s.ctx c).atlas.pool == 0 then []
  else nearLook m (s.poolAddr c m span) 32 :: (match s.poolDescriptor c (2 * m.1 + b2n (span > 32768)) with
    | some d => if !poolUsable d || d.2.2.1 == d.2.2.2 then [] else [nearLook m (d.1 + 16 * (d.2.2.2 % 2 ^ d.2.1)) 16]
    | none => [])

/-- Takes a frame of the smallest class that holds `span` from station `m`'s pool; what was read of the pool no longer
stands (R307). -/
def State.allocate (s : State) (c : Fin 64) (m : Fin 12) (span : Nat) : AllocRes :=
  if (s.ctx c).atlas.pool == 0 then .poolEmpty
  else
    let large := span > 32768
    let i := 2 * m.1 + b2n large
    match s.poolDescriptor c i with
    | none => .integrity
    | some d =>
      if !poolUsable d || d.2.2.1 == d.2.2.2 then .poolEmpty
      else
        let a := d.1 + 16 * (d.2.2.2 % 2 ^ d.2.1)
        let r := s.readNear a 16
        if r.2 then .integrity
        else
          let f : Frame := { station := m, stitch := wordField r.1 0 0 32 * 64, legend := wordField r.1 1 0 29 * 512
                             large := large }
          let old := s.poolLooks c m span
          let s0 := s.forget (fun e => old.contains e.2)
          let s1 := s0.putNear m (s.poolAddr c m span + 24) (leBytes 8 ((d.2.2.2 + 1) % 2 ^ 32))
          .ok f (s1.modCtx c (fun x => { x with frames := (m.1, f.stitch, large) :: x.frames }))

/-- Count of a share record (the record format is the block's own: word 0 holds the count; R292). -/
def State.shareCount (s : State) (c : Fin 64) (idx : Nat) : Nat × Bool :=
  let r := s.readNear ((s.ctx c).atlas.shareTable.toNat + 16 * idx) 16
  (leAt r.1 0 8, r.2)

/-- The read of a share record by station `m` (R511). -/
def State.shareLook (s : State) (c : Fin 64) (m : Fin 12) (idx : Nat) : Look :=
  nearLook m ((s.ctx c).atlas.shareTable.toNat + 16 * idx) 16

/-- The read that dropping a leaf's reference needs. -/
def State.dropLooks (s : State) (c : Fin 64) (m : Fin 12) (l : Leaf) : List Look :=
  if (l.state == 1 || l.state == 2) && l.shared then [s.shareLook c m l.shareIdx] else []

/-- Writes the count of a share record, through station `m`'s slice. -/
def State.setShare (s : State) (c : Fin 64) (m : Fin 12) (idx n : Nat) : State :=
  s.putNear m ((s.ctx c).atlas.shareTable.toNat + 16 * idx) (leBytes 8 n)

/-- The record is retired and not yet released (R309). -/
def Context.shareRetired (x : Context) (i : Nat) : Bool := x.retired.any (fun e => e.2 == .shareRecord i)

/-- The first record at or above `i` that is free, or that could not be read, which ends the search (R511); `n` records are
left to look at. The second answer says that it could be read. -/
def State.findShare (s : State) (c : Fin 64) (i : Nat) : Nat → Option (Nat × Bool)
  | 0 => none
  | n + 1 =>
    let r := s.shareCount c i
    if r.2 then some (i, false)
    else if r.1 == 0 && !(s.ctx c).shareRetired i then some (i, true)
    else s.findShare c (i + 1) n

/-- A share record with count 0 that no retired item names, or the first before it that could not be read. -/
def State.freeShare (s : State) (c : Fin 64) : Option (Nat × Bool) := s.findShare c 0 (s.ctx c).atlas.shareRecords.toNat

/-- The reads of the search for a free share record, up to the one it finds. -/
def State.freeShareLooks (s : State) (c : Fin 64) (m : Fin 12) : List Look :=
  (List.range (match s.freeShare c with | some i => i.1 + 1 | none => (s.ctx c).atlas.shareRecords.toNat)).map (s.shareLook c m)

/-- Retires items at the counter's present value and advances the counter by 1 (R309). -/
def State.retire (s : State) (c : Fin 64) (items : List Retired) : State :=
  let e := s.hub.readEpoch.toNat
  (s.modCtx c (fun x => { x with retired := x.retired ++ items.map (fun i => (e, i)) })).modHub
    (fun h => { h with readEpoch := h.readEpoch + 1 })

/-- Source field of a release record: 0 small pool, 1 large pool, 2 any other (R308). -/
def Context.sourceOf (x : Context) (station stitch : Nat) : Nat :=
  match x.frames.find? (fun f => f.1 == station && f.2.1 == stitch) with
  | none => 2
  | some f => b2n f.2.2

/-- The frame a RESIDENT or NEAR leaf refers to. -/
def Leaf.frameItem (l : Leaf) (x : Context) : Retired :=
  let st := if l.state == 2 then 15 else l.station
  .frame st l.stitchBase l.legendAddr (x.sourceOf st l.stitchBase)

/-- Drops the reference of a leaf whose home is station `m` (R305): whether a last reference was dropped, and whether the
share table could be read. -/
def State.dropRef (s : State) (c : Fin 64) (m : Fin 12) (l : Leaf) : State × Bool × Bool :=
  if l.state != 1 && l.state != 2 then (s, false, true)
  else
    let item := l.frameItem (s.ctx c)
    if l.shared then
      let n := s.shareCount c l.shareIdx
      if n.2 then (s, false, false)
      else if n.1 > 1 then (s.setShare c m l.shareIdx (n.1 - 1), false, true)
      else ((s.setShare c m l.shareIdx 0).retire c [item, .shareRecord l.shareIdx], true, true)
    else (s.retire c [item], true, true)

/-- The epoch of a peer's read of a context while it is served (R309). -/
def FetchRec.peerEpoch (f : FetchRec) (c : Fin 64) : Option Nat := if f.ctx == c then f.remoteFor.map (·.2.2) else none

/-- Read epochs held by the steps of a context and by peers' reads of it (R309). -/
def State.epochsOf (s : State) (c : Fin 64) : List Nat :=
  (s.stepsOf c).filterMap (·.epoch)
    ++ s.net.filterMap (fun t => match t.body with | .fetch f => f.peerEpoch c | _ => none)
    ++ s.stations.toList.flatMap (fun m => m.jobs.filterMap (fun j => match j.kind with
      | .readTile f _ _ => f.peerEpoch c
      | _ => none))

/-- No step of the context holds an epoch at or below `e` (R309, R312). -/
def State.epochClear (s : State) (c : Fin 64) (e : Nat) : Bool := (s.epochsOf c).all (fun x => x > e)

/-! ### Tiles under keys (R350 to R352, R364, R365) -/

/-- The key, tag field and version of a tile from its legend's clear header. -/
structure TileKey where
  key : Bytes
  tag : Nat
  version : Nat
deriving DecidableEq, Repr

/-- The session open on a physical page (R356: one at a time). -/
def State.sessionOn (s : State) (m : Fin 12) (stitchBase : Nat) : Option Session :=
  (s.station m).sessions.find? (fun x => x.stitchBase / 65536 == stitchBase / 65536)

/-- The read of a keyed page's version, which a session holds while it is open (R348, R357). -/
def State.versionLooks (s : State) (c : Fin 64) (m : Fin 12) (stitchBase : Nat) : List Look :=
  if (s.ctx c).keyed && (s.sessionOn m stitchBase).isNone then [s.counterLook m (stitchBase / 65536)] else []

/-- The version could not be read (R348). -/
def State.versionBad (s : State) (c : Fin 64) (m : Fin 12) (stitchBase : Nat) : Bool :=
  (s.ctx c).keyed && (s.sessionOn m stitchBase).isNone && (s.counter m (stitchBase / 65536)).2

/-- Version of a tile of a page: the session's for tiles it has written, one below for the rest (R357). -/
def State.versionFor (s : State) (m : Fin 12) (stitchBase t : Nat) : Nat :=
  match s.sessionOn m stitchBase with
  | some x => if x.written.contains t then x.version else x.version - 1
  | none => (s.counter m (stitchBase / 65536)).1

/-- Key of a tile by its header (R352, R364), a version 2 one by bit 4 alone (Table 02-8); none when its slot is not LOADED
or DRAINING, or is EMPTY. -/
def State.tileKey (s : State) (c : Fin 64) (raw : Legend) (version : Nat) : Option TileKey :=
  let l := raw.asVersion4
  if l.keyClass == 1 then ((s.ctx c).keyOf l.keyGen).map (fun k => { key := k, tag := (s.ctx c).tag.toNat, version := version })
  else if l.keyClass == 2 then
    match finOf 16 l.weightSlot with
    | none => none
    | some w =>
      let x := s.hub.weights[w.1]
      if x.state == .empty then none else some { key := keyBytes x.key, tag := 0, version := x.nonce.toNat }
  else none

/-- The clear legend of 32 stored bytes: bytes 4 to 23 are encrypted (R350). -/
def clearLegend (k : TileKey) (m : Fin 12) (addr : Nat) (stored : Bytes) : Bytes :=
  stored.take 4 ++ cryptAt k.key m.1 k.tag k.version (addr + 4) (cut stored 4 20) ++ stored.drop 24

/-- The stored legend of clear bytes and the slot's stored bytes, with its tag (R350, R351). -/
def sealLegend (k : TileKey) (m : Fin 12) (addr : Nat) (slotStored clear : Bytes) : Bytes :=
  let head := clear.take 4 ++ cryptAt k.key m.1 k.tag k.version (addr + 4) (cut clear 4 20)
  head ++ tagOf k.key (slotStored ++ head) (counterBlock 3 m.1 k.tag (addr / 16) k.version)

/-- Check 4 of R64 in data form (R351). -/
def tagGood (k : TileKey) (m : Fin 12) (addr : Nat) (slotStored stored : Bytes) : Bool :=
  tagOf k.key (slotStored ++ stored.take 24) (counterBlock 3 m.1 k.tag (addr / 16) k.version) == cut stored 24 8

/-- Check 4 in image form (R365): chain index `n` of the tile, `n0` of its block's first tile. -/
def imageTagGood (key : Bytes) (n : Nat) (block stored : Bytes) : Bool :=
  xorBytes ((ghash (aes256 key (zeros 16)) (block ++ stored.take 24)).take 8) ((aes256 key (imageBlock n 4093)).take 8)
    == cut stored 24 8

/-- The clear legend in image form: j = 4,094 for bytes 0 to 15 and 4,095 for bytes 16 to 31; bytes 4 to 23 are
encrypted (R365). -/
def imageLegend (key : Bytes) (n : Nat) (stored : Bytes) : Bytes :=
  let ks := imageCrypt key n 4094 (zeros 32)
  stored.take 4 ++ xorBytes (cut stored 4 20) (cut ks 4 20) ++ stored.drop 24

/-! ### Page geometry -/

/-- Where a tile's stored bytes lie relative to the stitch base, and how many: the slot of a dense or packed page, the
block of a variable one (Table 02-5). -/
def tileRange (lay : Layout) (tileMap ceiling : Nat) (l : Legend) (t : Nat) : Nat × Nat :=
  let slot := ((Fmt.ofCode ceiling).map slotSize).getD 0
  match lay with
  | .variableL => (64 * l.blockOffset, if l.fmt == Fmt.pass.code then 4096 else l.storedLen)
  | _ => (slotOffset lay tileMap slot t, slot)

/-- Stitch span of a page (Table 02-5); a variable page's frame is sized for its bound (R55). -/
def stitchSpan (lay : Layout) (tileMap ceiling : Nat) : Nat :=
  let slot := ((Fmt.ofCode ceiling).map slotSize).getD 4096
  match lay with
  | .dense => 16 * slot
  | .packed => popBelow tileMap 16 * slot
  | .variableL => 65536

/-- Tiles of a page that have a legend, in order (R53). -/
def legendTiles (lay : Layout) (tileMap : Nat) : List Nat :=
  (List.range 16).filter (fun t => lay != .packed || bitAt tileMap t)

/-- Stored legend of a tile. -/
def State.storedLegend (s : State) (m : Fin 12) (lay : Layout) (tileMap legendAddr t : Nat) : Bytes :=
  (s.readStack m (legendAddr + legendOffset lay tileMap t) 32).1

/-- Clear legend of a tile of a page on a stack, in data form; its stored bytes when no key is found. -/
def State.legendOf (s : State) (c : Fin 64) (m : Fin 12) (lay : Layout) (tileMap legendAddr stitchBase t : Nat) : Bytes :=
  let a := legendAddr + legendOffset lay tileMap t
  let st := (s.readStack m a 32).1
  match s.tileKey c (Legend.ofBytes st) (s.versionFor m stitchBase t) with
  | none => st
  | some k => clearLegend k m a st

/-! ### Tiles counted for the tally (R499) -/

/-- Counted size of a tile for the tally: the ceiling's slot; 4,096 B for contour and for PASS where no slot is named, in a
variable page; 0 for ABSENT (Table 14-9, R130). -/
def countedSize (ceiling : Nat) (l : Legend) : Nat :=
  let slot := ((Fmt.ofCode ceiling).map slotSize).getD 0
  if l.fmt == Fmt.absent.code then 0
  else if l.fmt == Fmt.contour.code || slot == 0 then 4096
  else slot

/-- A tile read or written through an M-port counts for its context, with the AES blocks of its `n` stored bytes and its
legend (Table 14-9, R474). -/
def State.countTile (s : State) (m : Fin 12) (c : Fin 64) (l : Legend) (n : Nat) : State :=
  (s.tallyAdd (.ms m) c 2 (countedSize l.slotFmt l + 32)).spendAes c (n + 32)

/-! ### Write sessions (R355 to R357) -/

/-- A legend and content in clear as the block writes them back: version 4 (R67). A version 2 or 3 CONTOUR tile, which a
dense page of version 4 cannot hold, stands as the PASS tile it expands to: poisoned when it expands only in part or not to
its CRC, and a poisoned tile of zeros when it does not expand at all (DEDUCED, assumption 85). -/
def upgraded (keyed : Bool) (l : Legend) (slot : Bytes) : Legend × Bytes :=
  let up := { l.asVersion4 with version := 4 }
  if !oldContour l then (up, slot)
  else
    let asPass := fun (data : Bytes) (bad : Bool) =>
      ({ up with fmt := Fmt.pass.code, slotFmt := Fmt.pass.code, blockTile := 0, blockOffset := 0, storedLen := 0, crc := crc32c data
                 poisoned := l.poisoned || bad }, data)
    match decodeContour { version := l.version, keyed := keyed, storedLen := l.storedLen, legendTiles := 1, hasRef := false, hasWindow := true }
      [] 0 0 (slot.take l.storedLen) with
    | .ok [data] [bad] => asPass (fitTo 4096 data) (bad || crc32c data != l.crc)
    | _ => asPass (zeros 4096) true

/-- What the refresh of a closing session does with a tile it did not write (R356): left as stored, left and reported
because its generation has no slot, or rewritten. -/
inductive Refreshed where
  | keep
  | lost
  | put (addr : Nat) (slot : Bytes) (legendAddr : Nat) (legend : Bytes) (good : Bool) (was now : Legend)
deriving DecidableEq, Repr

/-- The refresh of one tile: same plaintext under v + 1 and the current slot (R356, R358); poisoned when its tag fails. -/
def State.refreshed (s : State) (x : Session) (m : Fin 12) (lay : Layout) (t : Nat) : Refreshed :=
  let a := x.legendAddr + legendOffset lay x.tileMap t
  let rl := s.readStack m a 32
  let raw := Legend.ofBytes rl.1
  match s.tileKey x.ctx raw (x.version - 1) with
  | none => if raw.asVersion4.keyClass == 1 then .lost else .keep
  | some k =>
    if raw.asVersion4.keyClass != 1 then .keep
    else
      let l := Legend.ofBytes (clearLegend k m a rl.1)
      let absent := l.fmt == Fmt.absent.code
      let rg := tileRange lay x.tileMap x.ceiling l t
      let addr := x.stitchBase + rg.1
      let rs := if absent then ([], false) else s.readStack m addr rg.2
      let good := !rl.2 && !rs.2 && tagGood k m a rs.1 rl.1
      let ctx := s.ctx x.ctx
      let k2 : TileKey := { key := keyBytes ctx.cur.key, tag := k.tag, version := x.version }
      let up := upgraded true l (cryptAt k.key m.1 k.tag k.version addr rs.1)
      let enc := cryptAt k2.key m.1 k2.tag k2.version addr up.2
      let l2 := { up.1 with keyGen := ctx.cur.gen.toNat, poisoned := up.1.poisoned || !good }.toBytes
      .put addr enc a (sealLegend k2 m a enc l2) good l.asVersion4 up.1.asVersion4

/-- Writes what the refresh of a tile gives; the tile counts as read and as written (R499). -/
def State.putRefreshed (s : State) (x : Session) (m : Fin 12) (t : Nat) (r : Refreshed) : State :=
  let report := fun (u : State) => u.raise 0x9006 (some x.ctx) (0x90 + m.1) (x.stitchBase / 65536) t
  match r with
  | .keep => s
  | .lost => report s
  | .put addr slot a legend good was now =>
    let s1 := (s.countTile m x.ctx was slot.length).countTile m x.ctx now slot.length
    let s2 := (s1.putStack m x.ctx .stitch addr slot).putStack m x.ctx .legend a legend
    if good then s2 else (report s2).countIntegrity 1

/-- Tiles of a session's page that it has not written. -/
def Session.rest (x : Session) : List Nat :=
  match Layout.ofCode x.layout with
  | none => []
  | some lay => (legendTiles lay x.tileMap).filter (fun t => !x.written.contains t)

/-- The reads of a refresh: the legends of the tiles the session did not write, then their slots or blocks (R356). -/
def State.refreshLooks (s : State) (m : Fin 12) (x : Session) : List Look :=
  match Layout.ofCode x.layout with
  | none => []
  | some lay =>
    x.rest.map (fun t => stackLook m .legend (x.legendAddr + legendOffset lay x.tileMap t) 32)
      ++ x.rest.map (fun t =>
        let a := x.legendAddr + legendOffset lay x.tileMap t
        let st := (s.readStack m a 32).1
        match s.tileKey x.ctx (Legend.ofBytes st) (x.version - 1) with
        | none => stackLook m .stitch x.stitchBase 0
        | some k =>
          let l := Legend.ofBytes (clearLegend k m a st)
          let rg := tileRange lay x.tileMap x.ceiling l t
          stackLook m .stitch (x.stitchBase + rg.1) (if l.fmt == Fmt.absent.code || l.asVersion4.keyClass != 1 then 0 else rg.2))

/-- Two sessions are of one step on one page. -/
def Session.same (x y : Session) : Bool := x.slot == y.slot && x.stitchBase == y.stitchBase

/-- A read job's tile has not come whole yet, and it is one that a predicate names. -/
def Job.reads (j : Job) (p : FetchRec → Leaf → Bool) : Bool :=
  j.tile.isNone && (match j.kind with | .readTile f l _ => p f l | _ => false)

/-- A station is reading a tile of the page: what it reads stays as it is until then (R69). -/
def State.readingPage (s : State) (m : Fin 12) (stitchBase : Nat) : Bool :=
  (s.station m).jobs.any (fun j => j.reads (fun _ l => l.stitchBase == stitchBase))

/-- A station is reading the tile, or, in a variable page, one that may lie in the same block (R69). -/
def State.readingTile (s : State) (m : Fin 12) (stitchBase t : Nat) (lay : Layout) : Bool :=
  (s.station m).jobs.any (fun j => j.reads (fun f l => l.stitchBase == stitchBase && (lay == .variableL || f.tileNo % 16 == t)))

/-- Slot number that stands for the sweep's own sessions. -/
def sweepSlot : Nat := 16384

/-- Goes on with a closed session: its next read, or, when none is left and no tile of the page is being read, the refresh of the tiles as they
stand, and the session is gone (R69, R356). -/
def State.refreshStep (s : State) (m : Fin 12) (x : Session) : State :=
  match s.need (.own x.ctx) x.ctx (s.refreshLooks m x) with
  | some t => t
  | none =>
    if s.readingPage m x.stitchBase then s
    else
    let s1 := match Layout.ofCode x.layout with
      | none => s
      | some lay => s.each (x.rest.map (fun t => (t, s.refreshed x m lay t))) (fun u r => u.putRefreshed x m r.1 r.2)
    (s1.forgetLooks (.own x.ctx) (s.refreshLooks m x)).modStation m (fun st =>
      { st with sessions := st.sessions.filter (fun y => !y.same x) })

/-- Goes on with a closed session; a sweep's is traffic of the sweep (R356, R359). -/
def State.refreshSession (s : State) (m : Fin 12) (x : Session) : State :=
  if x.slot == sweepSlot then s.asSweep (fun u => u.refreshStep m x) else s.refreshStep m x

/-- Closes a session: it takes no further write, and its refresh begins (R355, R356). -/
def State.closeSession (s : State) (m : Fin 12) (x : Session) : State :=
  (s.modStation m (fun st => { st with sessions := st.sessions.map (fun y => if y.same x then { y with closing := true } else y) })).refreshSession m
    { x with closing := true }

/-- Goes on with the closed sessions of a station, after a read has come. -/
def State.refreshClosed (s : State) (m : Fin 12) : State :=
  s.each ((s.station m).sessions.filter (·.closing)) (fun t x => t.refreshSession m x)

/-- Closes every session of a step (its completion, suspension or abort: R355), and drops what was read for it. -/
def State.closeSessionsOf (s : State) (slot : Nat) : State :=
  (s.forget (fun e => e.1 == .step slot)).each (allFin 12) (fun t m =>
    t.each ((t.station m).sessions.filter (fun x => x.slot == slot && !x.closing)) (fun u x => u.closeSession m x))

/-- Opens a session on a page for a step, unless it has one: the counter goes to v + 1 (R355). -/
def State.openSession (s : State) (m : Fin 12) (slot : Nat) (c : Fin 64) (stitchBase legendAddr layout tileMap ceiling : Nat) :
    State × Session :=
  match (s.station m).sessions.find? (fun x => x.slot == slot && x.stitchBase == stitchBase && !x.closing) with
  | some x => (s, x)
  | none =>
    let pg := stitchBase / 65536
    let v := (s.counter m pg).1 + 1
    let x : Session := { slot := slot, ctx := c, stitchBase := stitchBase, legendAddr := legendAddr, layout := layout
                         tileMap := tileMap, ceiling := ceiling, version := v, written := [], closing := false }
    ((s.setCounter m pg v).modStation m (fun st => { st with sessions := st.sessions ++ [x] }), x)

/-- Records tile `t` as written in a session. -/
def State.markWritten (s : State) (m : Fin 12) (x : Session) (t : Nat) : State :=
  s.modStation m (fun st => { st with sessions := st.sessions.map (fun y =>
    if y.same x then { y with written := t :: y.written } else y) })

/-- Stores a tile and its legend on a stack. In a keyed context the slot is filled with zero tail and both are sealed
under the session's version (R47, R51, R350, R351); `keyClass` 2 uses the weight slot's nonce (R364). -/
def storedTile (k : Option TileKey) (m : Fin 12) (legendAddr stitchAddr slotLen : Nat) (l : Legend) (stitch : Bytes) :
    Bytes × Bytes :=
  match k with
  | none => (l.toBytes, stitch)
  | some k =>
    let slot := if l.fmt == Fmt.absent.code then [] else fitTo slotLen stitch
    let enc := cryptAt k.key m.1 k.tag k.version stitchAddr slot
    (sealLegend k m legendAddr enc l.toBytes, enc)

/-- A frame's legend block filled with sixteen copies of an ABSENT legend, sealed under a key or not, or left empty for a
packed page (R314). -/
def State.fillLegends (s : State) (c : Fin 64) (m : Fin 12) (lay : Layout) (legendAddr : Nat) (l : Legend) (k : Option TileKey) : State :=
  if lay == .packed then s
  else s.each (List.range 16) (fun t i =>
    let a := legendAddr + 32 * i
    t.putStack m c .legend a (storedTile k m a 0 0 l []).1)

/-- The legend block of a frame that a context's step writes to, filled with its ABSENT legends (R314); in a keyed context
under the session `version`. -/
def State.fillAbsent (s : State) (c : Fin 64) (m : Fin 12) (lay : Layout) (legendAddr ceiling version : Nat) : State :=
  let x := s.ctx c
  s.fillLegends c m lay legendAddr
    (absentLegend x.tag.toNat (b2n x.keyed) (if x.keyed then x.cur.gen.toNat else 0) (if lay == .variableL then 0 else ceiling))
    (if x.keyed then some { key := keyBytes x.cur.key, tag := x.tag.toNat, version := version } else none)

end Sys2Proof.Machine
end

