-- ==== Sys2Proof/Machine/Finish.lean ====
section
/-! DEFINITION. The end of a step: completion, strict cancellation, suspension, context abort and the first phase of a
scrub (R264, R265, R274 to R277, R282, R291, R316, R335, R371). -/
namespace Sys2Proof.Machine

/-- A fetch of a step of this block, not one served to a peer. -/
def FetchRec.ofStep (f : FetchRec) (slot : Nat) : Bool := f.slot == slot && f.remoteFor.isNone

/-- Drops the fetches of a step that are under way: requests, grants, stitches, station jobs and remote reads; a
near-store read that is out returns to no one (R316). -/
def State.dropFetches (s : State) (slot : Nat) : State :=
  { s with
    net := s.net.filter (fun t => match t.body with
      | .fetch f | .atlas (.walk f) => !f.ofStep slot
      | .xlate f _ => !(f.ofStep slot && f.leaf.isNone)
      | .grant k _ _ | .stitch k _ _ _ => k != slot
      | .status r => !(r.slot == slot && r.ofFetch)
      | _ => true)
    stations := s.stations.map (fun m =>
      { m with
        grants := m.grants.filter (fun g => g.2.1 != slot)
        jobs := m.jobs.filter (fun j => match j.kind with | .readTile f _ _ => !f.ofStep slot | _ => true) })
    slices := s.slices.map (fun x => { x with nOut := x.nOut.map (fun q => match q.purpose with
      | .tileRead f _ _ => if f.ofStep slot then { q with purpose := .other } else q
      | _ => q) })
    links := s.links.map (fun l => { l with requests := l.requests.filter (fun r => !r.fetch.ofStep slot) }) }

/-- The counts of a step's reports that are on their way to the hub count before its record is filled (R290; DEDUCED, assumption 123). -/
def State.lastReports (s : State) (slot : Nat) : State :=
  let mine := fun (t : Txn) => (t.body.reportOf slot).filter (fun r => r.lost.isNone && r.miss.isNone)
  let s1 : State := { s with net := s.net.filter (fun t => (mine t).isNone) }
  s1.each (s.net.filterMap mine) (fun t r => t.modStep slot (fun x => x.take r))

/-! ### Answers to peers (R330, R412, R420) -/

/-- The header of an answer to a read request: the request's, turned round. -/
def State.replyHeader (s : State) (q : FrameHeader) (whole : Bool) (n : Nat) (lastRec : Bool) : FrameHeader :=
  { q with
    ident := 0x5C, kind := if n == 0 then 4 else 3, srcEngine := s.ident.engineId.toNat, dstEngine := q.srcEngine
    srcContext := q.dstContext, dstContext := q.srcContext, records := n, firstIndex := 0, seq := 0, wholeSlot := whole
    lastFrame := lastRec, catchup := false, credit := 0, tiles := 0 }

/-- Hands a frame that no step sends to a link station: it goes out before step data (R411); a failed one sends nothing
(R489). -/
def State.queueFrame (s : State) (l : Fin 16) (h : FrameHeader) (recs : List Record) : State :=
  if !s.linkUp l then s
  else s.modLink l (fun x =>
    { x with tx := x.tx ++ [{ slot := 0, receiver := 0, reply := true, header := h
                              body := recs.flatMap Record.toBytes, tiles := recs.length }] })

/-- A fetch made for a peer's request. -/
def FetchRec.forPeer (f : FetchRec) (l : Fin 16) (q : FrameHeader) : Bool :=
  match f.remoteFor with
  | some r => r.1 == l && r.2.1 == q
  | none => false

/-- Drops what is left of a peer's request. -/
def State.dropPeer (s : State) (l : Fin 16) (q : FrameHeader) : State :=
  { s with
    net := s.net.filter (fun t => match t.body with
      | .fetch f | .atlas (.walk f) => !f.forPeer l q
      | _ => true)
    stations := s.stations.map (fun m => { m with jobs := m.jobs.filter (fun j => match j.kind with
      | .readTile f _ _ => !f.forPeer l q
      | _ => true) }) }

/-- Answers a peer's request PEER_ABSENT, once. -/
def State.answerAbsent (s : State) (l : Fin 16) (q : FrameHeader) : State :=
  (s.dropPeer l q).queueFrame l (s.replyHeader q false 0 true) []

/-- The peers' requests under way that name a context. -/
def State.peerReads (s : State) (c : Fin 64) : List (Fin 16 × FrameHeader) :=
  let fs := s.net.filterMap (fun t => match t.body with | .fetch f | .atlas (.walk f) => some f | _ => none)
    ++ s.stations.toList.flatMap (fun m => m.jobs.filterMap (fun j => match j.kind with | .readTile f _ _ => some f | _ => none))
  ((fs.filter (fun f => f.ctx == c)).filterMap (fun f => f.remoteFor.map (fun r => (r.1, r.2.1)))).eraseDups

/-- From a scrub's first cycle no frame carries the context's data or is sent on its behalf, and its peers' reads are
answered PEER_ABSENT (R375). -/
def State.quietLinks (s : State) (c : Fin 64) : State :=
  let mine := fun (slot : Nat) => s.hub.steps.any (fun x => x.slot == slot && x.ctx == c)
  let s1 : State :=
    { s with links := s.links.map (fun x =>
      { x with
        receivers := x.receivers.filter (fun r => !mine r.slot)
        tx := x.tx.filter (fun f => f.header.kind == 4 || f.header.srcContext != c.1)
        requests := x.requests.filter (fun r => r.fetch.ctx != c)
        crediting := x.crediting.filter (fun k => k.own != c)
        linkOut := x.linkOut.filter (fun p => p.ctx != c)
        uncredited := x.uncredited.filter (fun k => k.own != c) }) }
  s1.each (s1.peerReads c) (fun t p => t.answerAbsent p.1 p.2)

/-- A kind whose tiles leave through the D-port. -/
def ShareKind.toDPort : ShareKind → Bool
  | .deliver | .gatherMerge => true
  | _ => false

/-- The d_end pulse of a slice whose delivering share is cut short between two tiles; a tile whose first beat has gone
brings its own after its last beat (R398). -/
def Slice.cutEnd (y : Slice) (slot : Nat) : Option (BitVec 16) :=
  let begun : Bool := match y.sending with | some d => d.slot == slot && d.sent != 0 | none => false
  match y.shares.find? (fun h => h.slot == slot && h.kind.toDPort && !h.ended) with
  | some h => if begun then y.dEnd else some (BitVec.ofNat 16 h.tag)
  | none => y.dEnd

/-- Removes what the slices and the network hold of a step: its shares, its reports, tiles decoded or not yet begun on the D-port, markers; a tile
whose first beat has gone runs to its boundary (R282, R291, R484). -/
def State.dropShares (s0 : State) (slot : Nat) : State :=
  let s := s0.dropFetches slot
  { s with
    slices := s.slices.map (fun x =>
      { x with
        shares := x.shares.filter (fun h => h.slot != slot)
        dEnd := x.cutEnd slot
        sending := match x.sending with | some d => if d.slot == slot && d.sent == 0 then none else some d | none => none
        decoding := match x.decoding with | some d => if d.slot == slot then none else some d | none => none
        window := match x.window with | some w => if w.2.1 == slot then none else some w | none => none
        frogQ := x.frogQ.filter (fun f => f.slot != slot) })
    links := s.links.map (fun l => { l with receivers := l.receivers.filter (fun r => r.slot != slot) })
    net := s.net.filter (fun t => (t.body.reportOf slot).isNone) }

/-- A pass has ended: the stream is ARMED when no pass is left, and in TAIL when the one that held it in PASS has gone
(Table 07-3). -/
def PStream.endPass (p : PStream) (slot : Nat) : PStream :=
  let left := p.passSlots.filter (· != slot)
  if p.state == .free then p
  else if !p.passSlots.contains slot then p
  else { p with passSlots := left, state := if left.isEmpty then .armed
           else if p.state == .pass && p.passSlots.getLast? == some slot then .tail else p.state }

/-- No step is dispatched and unfinished: DRAINING becomes QUIESCED (Table 12-9). -/
def State.settleQuiesce (s : State) : State :=
  if s.hub.quiesce == .draining && s.hub.steps.all (fun x => !x.unfinished) then s.modHub (fun h => { h with quiesce := .quiesced })
  else s

/-- The catch-ups of a step (R422). -/
def State.catchupsOf (s : State) (slot : Nat) : List Step := s.hub.steps.filter (fun x => (x.parent.map (·.1)) == some slot)

/-- Removes a step from the table with what the slices and link stations hold of it. -/
def State.removeStep (s : State) (slot : Nat) : State :=
  (s.dropShares slot).modHub (fun h => { h with steps := h.steps.filter (fun z => z.slot != slot) })

/-- A catch-up ends with no record of its own: its MCAST has one receiver fewer to wait for, counts the tiles sent, and
takes over what the catch-up met (R422, R423, Table 11-16). -/
def State.endCatchup (s : State) (x : Step) (parent : Nat) : State :=
  (s.removeStep x.slot).modStep parent (fun y =>
    { y with toDo := y.toDo - 1, result := y.result + x.countA * 2 ^ 64, flags := y.flags.join x.flags
             conds := x.conds.foldl (fun l c => enterCond c l) y.conds })

/-- A compress step's escalated tiles pass the rate limit (R134): E × 65,536 > L × N. -/
def Step.escalates (x : Step) (limit : Nat) : Bool :=
  x.op == some .compress && !x.flags.escalationRate && x.escalated * 65536 > limit * x.countA

/-- The escalation-rate event of a compress step that completes, once, and its flag (R134). The event's unit is the slice
the step numbers j = 0 (DESIGN CHOICE, assumption 88). -/
def State.escalationEvent (s : State) (x : Step) (status : Nat) : State × Step :=
  if status != 0x32 && x.escalates s.hub.dict.escRateLimit.toNat then
    let unit := match x.slices.head?.bind (fun l => s.physOf l) with | some n => n.1 | none => 0xFF
    let mark := fun (y : Step) => { y with flags := { y.flags with escalationRate := true } }
    ((s.raise 0x9001 (some x.ctx) unit x.escalated x.countA).modStep x.slot mark, mark x)
  else (s, x)

/-- Counts a completed step in its latency bin, once: a suspended step is counted when it completes ATLAS_MISS, and one
refused before it was ready has no latency to count (R14, R276, Table 12-11). -/
def State.countLatency (s : State) (x : Step) : State :=
  match x.readyAt with
  | some t => if x.serialNo == 0 then s.count (fun k => { k with latency := vmod k.latency (latencyBin (s.now - t)) (· + 1) }) else s
  | none => s

/-- Completes the step in `slot` with a condition; `y` is the step whose counts the record carries. Catch-ups that still run end
with it, and what they have sent counts (R290, Table 11-16). -/
def State.writeEnd (s : State) (x y : Step) (c : Cond) : State :=
  let ev := s.escalationEvent y c.status
  let cs := s.catchupsOf x.slot ++ (if y.slot == x.slot || c.status == 0x32 then [] else s.catchupsOf y.slot)
  let sent := sumNat (cs.map (·.countA))
  let s0 := ev.1.each cs (fun t k => t.removeStep k.slot)
  let s1 := (s0.dropShares x.slot).closeSessionsOf x.slot
  let s2 := s1.modStep x.slot (fun z => { z with phase := .complete c.status x.running, epoch := none })
  let s3 := s2.modRing x.ctx x.ring (fun r => { r with waiting := r.waiting ++ [recordFor x { ev.2 with result := ev.2.result + sent * 2 ^ 64 } c] })
  let s4 := s3.modCtx x.ctx (fun k =>
    { k with ended := k.ended ++ [{ ring := x.ring, pattern := x.pattern, index := x.index, status := c.status }]
             streams := k.streams.map (fun p => p.endPass x.slot) })
  ((s4.countLatency x).tallyAdd .hub x.ctx 4 1).settleQuiesce

/-- Completes a step, or ends a catch-up. -/
def State.completeWith (s : State) (x y : Step) (c : Cond) : State :=
  match x.parent with
  | some p => s.endCatchup x p.1
  | none => s.writeEnd x y c

/-- Completes the step in a slot. A RESUME carries the suspended step's counts, and unless it misses again its status
counts as that step's completion too (R276). -/
def State.finish (s0 : State) (slot : Nat) (c : Cond) : State :=
  let targets := ((s0.step? slot).bind (·.target)).toList
  let s := (s0.lastReports slot).each (targets ++ ((slot :: targets).flatMap s0.catchupsOf).map (·.slot)) State.lastReports
  match s.step? slot with
  | none => s
  | some x =>
    match x.target.bind (fun t => s.step? t) with
    | none => s.completeWith x x c
    | some y =>
      let s1 := s.completeWith x y c
      if c.status == 0x32 then s1.modStep y.slot (fun z => { z with phase := .suspended, epoch := none, resumedBy := none })
      else
        let s2 := (s1.dropShares y.slot).closeSessionsOf y.slot
        let s3 := s2.modCtx y.ctx (fun k =>
          { k with ended := k.ended ++ [{ ring := y.ring, pattern := y.pattern, index := y.index, status := c.status }]
                   streams := k.streams.map (fun p => p.endPass y.slot) })
        (s3.modHub (fun h => { h with steps := h.steps.filter (fun z => z.slot != y.slot) })).settleQuiesce

/-- Status with which a predecessor has completed, if it has. -/
def State.endedStatus (s : State) (x : Step) (pred : Nat) : Option Nat :=
  ((s.ctx x.ctx).ended.find? (fun e => e.ring == x.ring && e.pattern == x.pattern && e.index == pred)).map (·.status)

/-- A held step with a strict edge to a predecessor that failed (R274). -/
def State.doomed (s : State) (x : Step) : Bool :=
  x.phase == .held && x.head.edges.any (fun e => e.2 && (match s.endedStatus x e.1 with | some st => st ≥ 0x10 | none => false))

/-- Cancels doomed steps until none is left (R274). -/
def State.cancelStrict : Nat → State → State
  | 0, s => s
  | n + 1, s => match s.hub.steps.find? (fun x => s.doomed x) with
    | none => s
    | some x => State.cancelStrict n (s.finish x.slot { status := 0x3F, cause := 0x02, tile := none })

/-- Strict cancellation over the whole step table. -/
def State.settle (s : State) : State := s.cancelStrict s.hub.steps.length

/-- Completes a step and cancels what strictly depends on it. -/
def State.complete (s : State) (slot status cause : Nat) (tile : Option Nat) : State :=
  (s.finish slot { status := status, cause := cause, tile := tile }).settle

/-! ### Completion records (R265) -/

/-- Entries of the completion ring. -/
def RingPair.cqEntries (r : RingPair) : Nat := 2 ^ r.liveCqLog2.toNat

/-- Free entries of the completion ring. -/
def RingPair.cqRoom (r : RingPair) : Nat := r.cqEntries - (r.cqTail - r.consumed).toNat

/-- The oldest waiting record of a ring, when the ring has room for all of its entries (R265). -/
def RingPair.writable (r : RingPair) : Option (CompRecord × List CompRecord) :=
  match r.waiting with
  | [] => none
  | w :: ws => if r.cqRoom ≥ 1 + w.exts.length then some (w, ws) else none

/-- Writes the entries of a record: extensions first, then the first entry with its phase bit (R265). -/
def State.putRecord (s : State) (c : Fin 64) (ring : Fin 4) (w : CompRecord) (ws : List CompRecord) : State :=
  let r := s.ring c ring
  let at_ (i : Nat) := r.liveCqBase.toNat + 64 * ((r.cqTail.toNat + i) % r.cqEntries)
  let first := leBytes 8 (leAt w.first 0 8 + place (phaseBit r.cqTail.toNat r.cqEntries) 63 1) ++ w.first.drop 8
  let s1 := s.each ((List.range w.exts.length).zip w.exts) (fun t p =>
    t.cRequest true (at_ (p.1 + 1)) 64 p.2 (.record c ring false))
  let s2 := s1.cRequest true (at_ 0) 64 first (.record c ring true)
  let s3 := s2.modRing c ring (fun q => { q with waiting := ws, cqTail := q.cqTail + BitVec.ofNat 32 (1 + w.exts.length) })
  (s3.modHub (fun h => { h with steps := h.steps.filter (fun x => !(x.slot == w.slot && !x.open)) })).settleQuiesce

/-- Writes records of a ring while there is room; `n` bounds their number. -/
def State.putRecords (c : Fin 64) (ring : Fin 4) : Nat → State → State
  | 0, s => s
  | n + 1, s => match (s.ring c ring).writable with
    | none => s
    | some (w, ws) => State.putRecords c ring n (s.putRecord c ring w ws)

/-! ### Scrub, phase 1 (R371, R372) -/

/-- Zeroises both key slots of a context and discards its atlas key (R347). -/
def Context.zeroKeys (x : Context) : Context := { x with cur := KeySlot.empty, prev := KeySlot.empty, atlasKey := none, sweeping := false }

/-- A slice forgets a context: shares, tiles in its datapaths, which are the bound context's, a tile it is sending cut
short, binding, window and banks (R371, R375). A DORMANT slice zeroes what its SRAM holds at its next wake (R471). -/
def Slice.forget (x : Slice) (c : Fin 64) : Slice :=
  { x with
    shares := x.shares.filter (fun h => h.ctx != c)
    bound := if x.bound == some c then none else x.bound
    sending := if x.bound == some c then none else x.sending
    decoding := if x.bound == some c then none else x.decoding
    frogQ := if x.bound == some c then [] else x.frogQ
    aIn := if x.bound == some c then [] else x.aIn
    records := if x.bound == some c then [] else x.records
    banks := x.banks.map (fun b => match b.owner with | some o => if o.ctx == c then Bank.empty else b | none => b)
    window := match x.window with | some w => if w.1 == c then none else some w | none => none
    moveDue := if x.moveDue == some c then none else x.moveDue
    zeroLater := if x.power == .dormant then c :: x.zeroLater.filter (· != c) else x.zeroLater }

/-- Issues the next reads of a scrub extent table, up to the next 4 KiB boundary each (R372). -/
def State.askScrubTable (s : State) (c : Fin 64) : Nat → State
  | 0 => s
  | n + 1 =>
    match (s.ctx c).scrub with
    | none => s
    | some sc =>
      let total := 16 * (s.ctx c).scrubEntries.toNat
      let a := (s.ctx c).scrubTable.toNat + sc.asked
      let len := Nat.min (total - sc.asked) (4096 - a % 4096)
      if sc.asked ≥ total then s
      else
        let s1 := s.cRequest false a len [] (.scrubTable c)
        (s1.modCtx c (fun x => { x with scrub := x.scrub.map (fun k => { k with asked := k.asked + len }) })).askScrubTable c n

/-- A look is made for a context: its own work there, or one of its steps. -/
def State.looksFor (s : State) (c : Fin 64) : Asker → Bool
  | .own d | .peer d => d == c
  | .step slot => s.hub.steps.any (fun x => x.slot == slot && x.ctx == c)

/-- A near-store access on its way is made for a context: by the hub for one of its steps, or a station's read that only the
context's work waits for. Writes of counters and tables keep their way. -/
def State.naccFor (s : State) (c : Fin 64) (u : UnitId) (tag : Nat) (wr : Bool) (a len : Nat) : Bool :=
  match u with
  | .hub => s.hub.steps.any (fun x => x.slot == tag && x.ctx == c)
  | .ms m =>
    let who := ((s.station m).asked.filter (fun e => e.2.place.isNone && e.2.addr == a && e.2.len == len)).map (·.1)
    !wr && !who.isEmpty && who.all (s.looksFor c)
  | _ => false

/-- A near-store access of the hub or a slice is made for a context. -/
def State.purposeFor (s : State) (c : Fin 64) (p : NPurpose) : Bool :=
  let mine := fun (slot : Nat) => s.hub.steps.any (fun x => x.slot == slot && x.ctx == c)
  match p with
  | .tileRead f _ _ => f.ctx == c
  | .tileWrite slot _ _ | .hubLook slot _ _ | .hubWrite slot => mine slot
  | .nacc u tag a len => s.naccFor c u tag false a len
  | .naccWrite u tag a len => s.naccFor c u tag true a len
  | .gaz _ _ d _ _ _ | .ringPoll d | .entries d _ => d == c
  | _ => false

/-- From a scrub's first cycle the pins carry nothing of the context but the scrub (R375): what is on the network for it
is dropped, and the near-store accesses for it that no port has taken yet; what one under way brings leads to nothing. -/
def State.quietNet (s : State) (c : Fin 64) : State :=
  let mine := fun (slot : Nat) => s.hub.steps.any (fun x => x.slot == slot && x.ctx == c)
  let quiet := fun (limit : Nat) (qs : List NReq) =>
    (qs.filter (fun q => !(q.id == limit && s.purposeFor c q.purpose))).map (fun q =>
      if s.purposeFor c q.purpose then { q with purpose := .other } else q)
  { s with
    net := s.net.filter (fun t => match t.body with
      | .fetch f | .atlas (.walk f) | .xlate f _ => f.ctx != c
      | .atlas (.setLeaf d _ _ _) | .summary d _ _ _ _ _ _ _ _ | .ctl (.contextState d) => d != c
      | .write w => w.ctx != c
      | .ctl (.dispatch h) => h.ctx != c
      | .status r => r.probeAnswer || !mine r.slot
      | .nacc tag wr a len _ => !s.naccFor c t.src tag wr a len
      | .grant slot _ _ | .lsend slot _ _ _ | .qpush slot _ | .stitch slot _ _ _ | .recvTile slot _ _ | .credit slot _ _ => !mine slot
      | _ => true)
    slices := s.slices.map (fun x => { x with nOut := quiet 256 x.nOut })
    hub := { s.hub with cOut := quiet 64 s.hub.cOut } }

/-- Nothing of a context is under way any more on the links and the network (R375). -/
def State.quiet (s : State) (c : Fin 64) : State := (s.quietLinks c).quietNet c

/-- Phase 1 of a scrub begins (R371): the context is SCRUBBING. -/
def State.startScrub (s : State) (c : Fin 64) : State :=
  let serial := s.hub.scrubSerial + 1
  let key := BitVec.ofNat 256 (leNat (scrubKey (keyBytes s.hub.scrubRoot) serial.toNat c.1))
  let s0 := s.quiet c
  let s1 := s0.modCtx c (fun x =>
    { x.zeroKeys with
      state := .scrubbing
      atlas := { x.atlas with grants := Vector.replicate 4 0 }
      rings := x.rings.map (fun r => { r with waiting := [], enabled := false, inUse := false, burst := none })
      streams := Vector.replicate 16 PStream.free
      retired := [], releases := [], frames := [], ringFull := false, ringSeen := false, ended := [], initDue := []
      scrub := some { phase2 := false, serial := serial, key := key, asked := 0, extents := [], working := [], taken := []
                      inherited := [], units := 0, began := s.now, late := [] } })
  let s2 := s1.modHub (fun h =>
    { h with
      scrubSerial := serial
      steps := h.steps.filter (fun x => x.ctx != c)
      saved := h.saved.filter (fun e => e.2.1 != c)
      weights := h.weights.map (fun w => { w with bindMask := w.bindMask &&& ~~~ (BitVec.ofNat 64 (2 ^ c.1)) }) })
  let s3 : State :=
    { s2 with
      slices := s2.slices.map (fun x => x.forget c)
      stations := s2.stations.map (fun m =>
        { m with
          sessions := m.sessions.filter (fun x => x.ctx != c)
          heldWrites := m.heldWrites.filter (fun w => w.ctx != c)
          opens := m.opens.filter (fun q => q.ctx != c)
          closed := m.closed.filter (fun q => q.ctx != c)
          jobs := m.jobs.filter (fun j => match j.kind with
            | .readTile f _ _ => f.ctx != c
            | .writeTile w => w.ctx != c
            | .fill => true
            | .look (.own d) _ | .look (.peer d) _ => d != c
            | .look (.step slot) _ => !s.hub.steps.any (fun x => x.slot == slot && x.ctx == c)) }) }
  ((s3.forget (fun e => s.looksFor c e.1)).askScrubTable c 4097).settleQuiesce

/-- A CLOSING context whose every step has completed enters SCRUBBING (Table 10-2). -/
def State.settleClosing (s : State) (c : Fin 64) : State :=
  if (s.ctx c).state == .closing && (s.stepsOf c).isEmpty then s.startScrub c else s

/-! ### Abort (R291, R335, R336) -/

/-- Completes the steps of a context that are in a list, in submission order, ABORTED; a RESUME's record carries the
counts and extension entries of the step it continues (R276, R291). -/
def State.abortSteps (s : State) (cause : Nat) (xs : List Step) : State :=
  s.each xs (fun t x => match t.step? x.slot with
    | none => t
    | some y => if y.open then t.completeWith y ((y.target.bind (fun k => t.step? k)).getD y) { status := 0x3F, cause := cause, tile := none } else t)

/-- Aborts a context: every unfinished step ABORTED in submission order, records written while their rings have room,
then SCRUBBING (Table 10-2, R291, R336); after a hub failure no record is written (R490). Sessions end unrefreshed (R344, R375; assumption 20). -/
def State.abortCtx (s : State) (c : Fin 64) (cause : Nat) : State :=
  let st := (s.ctx c).state
  if st == .opened || st == .closing then
    let noSessions : State :=
      { s with stations := s.stations.map (fun m => { m with sessions := m.sessions.filter (fun x => x.ctx != c) }) }
    let s1 := (noSessions.quiet c).abortSteps cause (s.stepsOf c)
    let s2 := if s.phase == .hubFailed then s1 else s1.each (allFin 4) (fun t r => State.putRecords c r (t.ring c r).waiting.length t)
    s2.startScrub c
  else s

/-! ### Suspension (R276, R316 to R318) -/

/-- Puts a step's shares back to where their next tiles are used, with nothing of theirs under way; the tiles that a mark
retains behind a rewind are kept, since they have been delivered (R316). -/
def State.parkShares (s : State) (x : Step) : State :=
  let s1 := s.modShares x.slot (fun h =>
    { h with
      paused := true, stop := none, reported := false
      rounds := h.rounds.map (fun r =>
        let k := Nat.max r.h r.done
        let dropped := r.slots.filter (fun q => q.pos ≥ k)
        { r with slots := r.slots.filter (fun q => q.pos < k), granted := k
                 walk := dropped.foldl (fun w q => Nat.min w q.walkPos) r.walk }) })
  (s1.dropFetches x.slot).closeSessionsOf x.slot

/-- Suspends a dispatched step at its miss: the epoch is released, undelivered stitches are dropped, the serial counts
on, and the ATLAS_MISS record is queued. A RESUME that misses again completes ATLAS_MISS and is itself entered as ended:
steps that wait on the RESUME's own edge take that status, those on the suspended step's wait on (DESIGN CHOICE:
assumption 95). -/
def State.suspendStep (s0 : State) (x0 : Step) (m : Miss) : State :=
  let s := s0.lastReports x0.slot
  let x := (s.step? x0.slot).getD x0
  let serial := (s.hub.suspensions + 1).toNat
  let s1 := s.modHub (fun h => { h with suspensions := h.suspensions + 1 })
  let s2 := s1.modStep x.slot (fun y =>
    { y with phase := .suspended, epoch := none, miss := some m, serialNo := serial, resumedBy := none, doneShares := [] })
  let s4 := s2.parkShares x
  let y : Step := { x with miss := some m, serialNo := serial }
  let c : Cond := { status := 0x32, cause := 0, tile := some m.tile }
  match x.resumedBy.bind (fun r => s.step? r) with
  | some r => ((s4.completeWith r y c).settle)
  | none => (s4.countLatency x).modRing x.ctx x.ring (fun q => { q with waiting := q.waiting ++ [recordFor x y c] })

end Sys2Proof.Machine
end

