-- ==== Sys2Proof/Machine/Operands.lean ====
section
/-! DEFINITION. The operand words of every step opcode and the descriptor errors the hub finds when it reads an entry
(R269 to R272, R181, R187, R197, R208, R242, R270, R271, R323; Tables 08-5, 09-6, 11-15). -/
namespace Sys2Proof.Machine

/-- Where an opcode's stream words lie: role, stream word, mask word, and whether the word must name a stream. -/
def Opcode.slots : Opcode → List (Role × Nat × Option Nat × Bool)
  | .deliver | .deliverRows => [(.src, 4, some 5, true), (.ref, 7, none, false)]
  | .compress => [(.dst, 4, some 5, true)]
  | .cCompress => [(.dst, 4, none, true), (.src, 5, none, false), (.ref, 7, none, false)]
  | .cDecompress => [(.src, 4, none, true), (.dst, 5, none, true), (.ref, 7, none, false)]
  | .gatherMerge => [(.src, 4, some 5, true), (.act, 6, some 7, true)]
  | .scatter | .mergeOut => [(.table, 4, some 5, true), (.spillA, 6, none, true), (.spillB, 7, none, true)]
  | .castOn | .send | .mcast => [(.src, 4, some 5, true)]
  | .move => [(.src, 4, some 5, true), (.dst, 6, some 7, true)]
  | .gather => [(.src, 4, none, true)]
  | .recv => [(.dst, 4, some 5, true)]
  | _ => []

/-- The word of the operand block that holds round_slots_m1, for opcodes that have the field. -/
def Opcode.roundWord : Opcode → Option Nat
  | .deliver | .deliverRows | .gather | .castOn => some 6
  | .gatherMerge | .move => some 8
  | _ => none

/-- Round depth: round_slots_m1 + 1, or the field's default of 4 for an opcode without the field (assumption 21). -/
def roundDepth (op : Opcode) (bs : Bytes) : Nat :=
  match op.roundWord with
  | some w => wordField bs w 12 4 + 1
  | none => 4

/-- Table 06-2 and W6 of DELIVER. -/
structure DeliverFields where
  outLimit : Nat
  linkEn : Bool
  linkDepth : Nat
  orientation : Bool
  skip : Bool
  mode : Nat
deriving DecidableEq, Repr

/-- The delivery fields of a step; GATHER_MERGE holds its own in W8, and no other opcode has any. -/
def deliverFields (op : Opcode) (bs : Bytes) : DeliverFields :=
  match op with
  | .gatherMerge =>
    { outLimit := 0, linkEn := false, linkDepth := 0, orientation := wordBit bs 8 0, skip := wordBit bs 8 1, mode := 3 }
  | .deliver | .deliverRows | .gather =>
    { outLimit := wordField bs 6 32 32, linkEn := wordBit bs 6 23, linkDepth := wordField bs 6 16 7
      orientation := wordBit bs 6 3, skip := wordBit bs 6 2, mode := wordField bs 6 0 2 }
  | _ => { outLimit := 0, linkEn := false, linkDepth := 0, orientation := false, skip := false, mode := 0 }

/-- A pass step: a DELIVER or COMPRESS whose stream word has persistent = 1. -/
def isPass (bs : Bytes) : Bool :=
  (wordField bs 0 56 8 == 0x01 || wordField bs 0 56 8 == 0x02) && (streamWord bs 4).persistent

/-- The declared output limit in units of 4 KiB (W6 of DELIVER and C_DECOMPRESS); 0 is none (R162). -/
def outLimit (bs : Bytes) : Nat := wordField bs 6 32 32

/-- Effort of a contour compress step: its own, or the default object's (Table 08-5, 0x5000.05). -/
def effortOf (bs : Bytes) (dflt : Nat) : Nat := if wordBit bs 6 7 then wordField bs 6 4 3 else dflt

/-- A COMPRESS or RECV that feeds a step link: the consuming step's tag (Tables 08-5, 11-15). -/
def linkOut (op : Opcode) (bs : Bytes) : Option Nat :=
  match op with
  | .compress => if wordBit bs 6 47 then some (wordField bs 6 48 16) else none
  | .recv => if wordBit bs 7 47 then some (wordField bs 7 48 16) else none
  | _ => none

/-- A compress step's page summaries (R135): Y, log2 of N / 128, first entry, first page. -/
structure SummaryFields where
  y : Nat
  span : Nat
  firstEntry : Nat
  firstPage : Nat
deriving DecidableEq, Repr

/-- The summary fields of a COMPRESS that enables them. -/
def summaryFields (op : Opcode) (bs : Bytes) : Option SummaryFields :=
  if op == .compress && wordBit bs 6 16 then
    some { y := wordField bs 6 24 8, span := wordField bs 6 17 3, firstEntry := wordField bs 7 0 32
           firstPage := wordField bs 8 0 36 }
  else none

/-- Formats of the stream in word `i`, when legal (R270). -/
def fmtAt (bs : Bytes) (i : Nat) : Option StreamFmt := (streamWord bs i).fmt

/-- A stream of 2,048 BF16 values: G4F, G4I, G6, G8 or PASS of a BF16 stream. -/
def StreamFmt.bf16 (f : StreamFmt) : Bool := f.base.mx || (f.base == .pass && !f.bytesStream)

/-- A PASS byte stream (Table 06-8). -/
def StreamFmt.passBytes (f : StreamFmt) : Bool := f.base == .pass && f.ceiling == .pass && f.bytesStream

/-- The format rules of an opcode over its streams' formats (R161, R187, R197, R208, R210, R271, R272). -/
def formatsOk (op : Opcode) (bs : Bytes) (f : Role → Option StreamFmt) : Bool :=
  match op with
  | .deliver | .deliverRows | .gather =>
    match f .src with
    | none => false
    | some a => !(wordField bs 6 0 2 == 1 && (a.base == .g3 || a.base == .contour || (a.base == .pass && a.bytesStream)
        || wordBit bs 6 3))
  | .compress =>
    match f .dst with
    | none => false
    | some d => d.base != .contour && (wordField bs 6 0 2 != 1 || d.base.ternary) && (wordField bs 6 0 2 != 2 || d.bf16)
  | .cCompress => match f .dst with | some d => d.base == .contour | none => false
  | .cDecompress =>
    match f .src, f .dst with
    | some a, some d => (a.base == .contour || (a.layout == .dense && a.base == .pass && a.ceiling == .pass)) && d.base != .contour
    | _, _ => false
  | .gatherMerge =>
    match f .src, f .act with
    | some w, some a => w.base.ternary && a.bf16
    | _, _ => false
  | .scatter | .mergeOut =>
    match f .table, f .spillA, f .spillB with
    | some t, some a, some b => t.bf16 && a.passBytes && b.passBytes
    | _, _, _ => false
  | .move =>
    match f .src, f .dst with
    | some a, some d => a.base == d.base && a.ceiling == d.ceiling && a.bytesStream == d.bytesStream
        && (a.layout == d.layout || (a.layout == .dense && a.base == .pass && a.ceiling == .pass && d.layout == .variableL))
    | _, _ => false
  | _ => true

/-- One stream word is legal where it stands (R270, Table 08-4). -/
def streamOk (op : Opcode) (bs : Bytes) (slot : Role × Nat × Option Nat × Bool) : Bool :=
  let w := streamWord bs slot.2.1
  let maskOk := match slot.2.2.1 with
    | none => true
    | some m => match maskWord bs m with | none => true | some a => a % 64 == 0
  if isPass bs && slot.2.1 == 4 then w.valid && maskOk
  else if w.persistent != (op == .castOn) then false
  else if !w.valid then !slot.2.2.2
  else w.fmt.isSome && w.chain % 128 == 0 && maskOk

/-- The operand fields of Tables 08-5, 09-6 and 11-15, streams apart. -/
def fieldsOk (op : Opcode) (bs : Bytes) (engine links : Nat) : Bool :=
  let aligned := fun (w bits n : Nat) => wordField bs w 0 bits % n == 0
  let depthOk := match op.roundWord with
    | none => true
    | some w => isPass bs || wordField bs w 12 4 ≥ 2
  let deliver := wordField bs 6 0 2 != 3 && (!wordBit bs 6 23 || (4 ≤ wordField bs 6 16 7 && wordField bs 6 16 7 ≤ 64))
  depthOk && match op with
    | .deliver => deliver
    | .deliverRows => deliver && aligned 8 34 64 && aligned 9 34 64
    | .gather => deliver && (streamWord bs 4).chain == 0 && !wordBit bs 5 63 && !wordBit bs 6 23 && wordField bs 6 32 32 == 0
        && aligned 7 34 16 && aligned 9 34 8 && aligned 10 34 16
    | .compress => wordField bs 6 0 2 != 3 && wordField bs 6 17 3 ≤ 4 && (!wordBit bs 6 16 || wordField bs 6 24 8 != 255)
    | .cCompress => wordField bs 6 0 3 ≤ 5
    | .recast => !wordBit bs 4 4 || aligned 6 34 128
    | .atlasWrite => aligned 4 34 64 && wordField bs 5 0 32 != 0
    | .share => wordField bs 6 0 32 != 0
    | .free | .frog | .demote | .promote | .gazClear => wordField bs 5 0 32 != 0
    | .send => wordField bs 6 46 18 != engine && bitAt links (wordField bs 6 0 4)
    | .mcast => aligned 6 34 8 && wordField bs 7 0 7 != 0 && wordField bs 7 0 7 ≤ 64
    | _ => true

/-- RECAST's mask word, when it replaces the mask (Table 08-5). -/
def recastMaskOk (op : Opcode) (bs : Bytes) : Bool :=
  op != .recast || !wordBit bs 7 62 || !wordBit bs 7 63 || wordField bs 7 0 34 % 64 == 0

/-- The common header obeys Table 08-3 for the entry at position `pos` (R267, R269, R278, R510). -/
def headerOk' (op : Opcode) (h : Header) (pos : Nat) : Bool :=
  h.stepIndex == pos && h.edges.all (fun e => e.1 < h.stepIndex)
    && (op.noSlice || (h.policy ≤ 1 && 1 ≤ h.sliceCount && h.sliceCount ≤ 128
        && (h.policy == 1 || h.sliceBase + h.sliceCount ≤ 128)))

/-- GATHER_MERGE names only logical S000 to S007 (R197). -/
def mergeSlicesOk (op : Opcode) (h : Header) : Bool :=
  op != .gatherMerge || h.policy == 1 || h.sliceBase + h.sliceCount ≤ 8

/-- The summary fields fit the context's gazetteer (R323). -/
def summariesOk (op : Opcode) (bs : Bytes) (x : Context) : Bool :=
  match summaryFields op bs with
  | none => true
  | some f => f.span ≤ x.atlas.gazSpan.toNat && x.atlas.gazEntries != 0

/-- The entry at position `pos` is free of the descriptor errors found when it is read (R272). -/
def entryOk (x : Context) (engine links : Nat) (pos : Nat) (bs : Bytes) : Bool :=
  match Opcode.ofCode (wordField bs 0 56 8) with
  | none => false
  | some op =>
    headerOk' op (header bs) pos && mergeSlicesOk op (header bs) && op.slots.all (streamOk op bs) && fieldsOk op bs engine links
      && recastMaskOk op bs && summariesOk op bs x
      && (isPass bs || formatsOk op bs (fun r => ((op.slots.find? (fun t => t.1 == r)).bind (fun t =>
            if (streamWord bs t.2.1).valid then fmtAt bs t.2.1 else none))))

/-- A stream operand of a step as it takes effect: for a pass, the cast-on's word, mask and depth (R270). -/
structure Use where
  role : Role
  word : StreamWord
  mask : Option Nat
  fmt : StreamFmt
deriving DecidableEq, Repr

/-- The stream number of a pass, CAST_ON, RECAST or TEARDOWN. -/
def streamNoOf (op : Opcode) (bs : Bytes) : Fin 16 :=
  match op with
  | .recast | .teardown => ⟨wordField bs 4 0 4, by unfold wordField field; exact Nat.mod_lt _ (by decide)⟩
  | _ => ⟨(streamWord bs 4).streamNo, by unfold streamWord wordField field; exact Nat.mod_lt _ (by decide)⟩

/-- The stream operands of a step (R270, Table 07-2); a pass takes its formats from the persistent stream, and its mask
from its own mask word when that is present, else from the cast-on. -/
def usesOf (x : Context) (op : Opcode) (bs : Bytes) : List Use :=
  op.slots.filterMap (fun t =>
    let own := t.2.2.1.bind (maskWord bs)
    if isPass bs && t.2.1 == 4 then
      let p := x.streams[(streamNoOf op bs).1]
      p.word.fmt.map (fun f => { role := t.1, word := p.word, mask := own.or p.mask, fmt := f })
    else
      let w := streamWord bs t.2.1
      if !w.valid then none else w.fmt.map (fun f => { role := t.1, word := w, mask := own, fmt := f }))

/-- The operand of a role. -/
def useOf (x : Context) (op : Opcode) (bs : Bytes) (r : Role) : Option Use := (usesOf x op bs).find? (fun u => u.role == r)

/-- The operand of a role of a step in the table. -/
def State.use (s : State) (x : Step) (r : Role) : Option Use := x.op.bind (fun op => useOf (s.ctx x.ctx) op x.words r)

/-- The weight key bit and slot a step reads under: a pass step takes those its stream was cast on with (R72, R236). -/
def State.keyUse (s : State) (x : Step) : Bool × Nat :=
  if isPass x.words then
    let p := (s.ctx x.ctx).streams[(streamNoOf (x.op.getD .nop) x.words).1]
    (p.weightKey, p.weightSlot)
  else (x.head.weightKey, x.head.weightSlot)

/-- Reads a contour stream, so one slot holds a whole block (R241). -/
def StreamFmt.contour (f : StreamFmt) : Bool := f.layout == .variableL

/-- Bytes of one round slot (R241). -/
def StreamFmt.slotBytes (f : StreamFmt) : Nat :=
  if f.base == .contour then 65536 else roundUp (slotSize f.ceiling + 32) 64

/-- Chain index of slice j's i-th tile (R278). -/
def shareIndex (log2g count j i : Nat) : Nat :=
  let g := 2 ^ log2g
  i / g * (g * count) + j * g + i % g

/-- How many of the first `n` chain indices slice j handles (R278). -/
def shareTiles (log2g count j n : Nat) : Nat :=
  let g := 2 ^ log2g
  n / (g * count) * g + (Nat.min g (n % (g * count) - j * g))

/-- The place in slice j's order of chain index `n`, when the slice handles it. -/
def sharePlace (log2g count j n : Nat) : Option Nat :=
  let g := 2 ^ log2g
  if n / g % count == j then some (n / (g * count) * g + n % g) else none

/-- The bank a SCATTER or MERGE_OUT names. -/
def bankOf (bs : Bytes) : Fin 2 := ⟨wordField bs 8 0 1, by unfold wordField field; exact Nat.mod_lt _ (by decide)⟩

/-- An accumulation set's declared fields (Table 06-8), compared by R211. -/
def accFields (c : Fin 64) (u : List Use) (bs : Bytes) : Option AccSet :=
  let find := fun r => u.find? (fun x => x.role == r)
  match find .table, find .spillA, find .spillB with
  | some t, some a, some b => some
    { ctx := c, table := t.word, tableChain := Chain.start t.word.chain 0, tableMask := t.mask, spillAWord := a.word
      spillBWord := b.word, spillA := Chain.start a.word.chain 0, spillB := Chain.start b.word.chain 0
      rowCount := wordField bs 9 0 32 + 1, rowChunks := wordField bs 8 2 12 + 1, add := wordBit bs 8 1, fillA := 0, fillB := 0
      swapped := false, bank := bankOf bs, slices := [] }
  | _, _, _ => none

/-- Two accumulation sets with the same declared fields. -/
def AccSet.same (a b : AccSet) : Bool :=
  a.ctx == b.ctx && a.table == b.table && a.tableMask == b.tableMask && a.spillAWord == b.spillAWord
    && a.spillBWord == b.spillBWord && a.rowCount == b.rowCount && a.rowChunks == b.rowChunks && a.add == b.add

/-- SCATTER: records declared. -/
def recordsOf (bs : Bytes) : Nat := wordField bs 10 0 32

end Sys2Proof.Machine
end

