-- ==== Sys2Proof/Machine/PageBody.lean ====
section
/-! DEFINITION. The body of a RESIDENT page: its tiles opened under their keys, stored again elsewhere or under another
version, and the contour block of a demoted page (R310, R332, R333, R350, R351, R356, R358). -/
namespace Sys2Proof.Machine

/-- Where a RESIDENT page lies; `demotedLen` is 0 unless the page is demoted. -/
structure PageAt where
  m : Fin 12
  lay : Layout
  tileMap : Nat
  ceiling : Nat
  stitch : Nat
  legend : Nat
  demotedLen : Nat
deriving DecidableEq, Repr

/-- The slot format of a page by its legends: that of the first one that gives a format with a slot (a version 2 ABSENT
legend gives none); PASS when none does. -/
def pageCeiling (ls : List Legend) : Nat :=
  match (ls.map (fun l => l.asVersion4.slotFmt)).find? (fun f => ((Fmt.ofCode f).map slotSize).getD 0 != 0) with
  | some f => f
  | none => Fmt.pass.code

/-- Clear legends of a page on a stack. -/
def State.pageLegends (s : State) (c : Fin 64) (m : Fin 12) (lay : Layout) (l : Leaf) : List Legend :=
  (legendTiles lay l.tileMap).map (fun t => Legend.ofBytes (s.legendOf c m lay l.tileMap l.legendAddr l.stitchBase t))

/-- The page a RESIDENT leaf maps; none when the leaf names no station or layout. -/
def State.pageAt (s : State) (c : Fin 64) (l : Leaf) : Option PageAt :=
  match finOf 12 l.station, Layout.ofCode l.layout with
  | some m, some lay =>
    some { m := m, lay := lay, tileMap := l.tileMap, ceiling := pageCeiling (s.pageLegends c m lay l), stitch := l.stitchBase
           legend := l.legendAddr
           demotedLen := if l.demoted then l.demotedLen else 0 }
  | _, _ => none

/-- Bytes of the page's legends (R53). -/
def legendSpan (lay : Layout) (tileMap : Nat) : Nat := 32 * (legendTiles lay tileMap).length

/-- The reads of a whole RESIDENT page: its legends, its version, and its stitch span or the block of a demoted page
(R310, R332, R333). -/
def State.pageLooks (s : State) (c : Fin 64) (l : Leaf) : List Look :=
  match finOf 12 l.station, Layout.ofCode l.layout with
  | some m, some lay =>
    s.versionLooks c m l.stitchBase ++ [stackLook m .legend l.legendAddr (legendSpan lay l.tileMap)]
      ++ [stackLook m .stitch l.stitchBase (if l.demoted then l.demotedLen
            else stitchSpan lay l.tileMap (pageCeiling (s.pageLegends c m lay l)))]
  | _, _ => []

/-- Writes of the page that its home station has accepted are held there, or on their way to the station of its stitches: a
change of its leaf comes after them (R300, R311). -/
def State.pageHeld (s : State) (c : Fin 64) (p : Nat) : Bool :=
  (s.station (homeOf c p)).heldWrites.any (fun v => v.ctx == c && v.tileNo / 16 == p)
    || s.net.any (fun t => match t.body with
      | .write w => w.leaf.isSome && w.ctx == c && w.tileNo / 16 == p
      | _ => false)

/-- A tile of the page is being read, or a fetch of it is on its way to the station of its stitches (R69). -/
def State.pageBusy (s : State) (l : Leaf) : Bool :=
  (match finOf 12 l.station with | some m => s.readingPage m l.stitchBase | none => false)
    || s.net.any (fun t => match t.body with
      | .fetch f => (match f.leaf with | some k => k.station == l.station && k.stitchBase == l.stitchBase | none => false)
      | _ => false)

/-- Address of a tile's legend. -/
def PageAt.legendOf (p : PageAt) (t : Nat) : Nat := p.legend + legendOffset p.lay p.tileMap t

/-- Stitch span of the page in bytes (Table 02-5); a variable page's frame is sized for its bound. -/
def PageAt.span (p : PageAt) : Nat := stitchSpan p.lay p.tileMap p.ceiling

/-- Tiles of the contour block that holds a demoted page's span (R332). -/
def PageAt.spanTiles (p : PageAt) : Nat := ceilDiv p.span 4096

/-- Raw legend of a tile, as stored. -/
def State.rawLegend (s : State) (p : PageAt) (t : Nat) : Legend := Legend.ofBytes (s.readStack p.m (p.legendOf t) 32).1

/-- The stored block of a demoted page in clear, and whether its bytes could be read. -/
def State.demotedBlock (s : State) (c : Fin 64) (p : PageAt) : Bytes × Bool :=
  let r := s.readStack p.m p.stitch p.demotedLen
  let first := (legendTiles p.lay p.tileMap).headD 0
  match s.tileKey c (s.rawLegend p first) (s.versionFor p.m p.stitch first) with
  | some k => (cryptAt k.key p.m.1 k.tag k.version p.stitch r.1, !r.2)
  | none => (r.1, !r.2)

/-- What the contour decoder knows of a demoted page's block (R332). -/
def PageAt.blockEnv (p : PageAt) (keyed : Bool) : BlockEnv :=
  { version := 4, keyed := keyed, storedLen := p.demotedLen, legendTiles := p.spanTiles, hasRef := false, hasWindow := true }

/-- The restored bytes of a demoted page's span up to the end of the row that holds byte `upTo` - 1; none when the block is
illegal (R333). -/
def demotedBytes (p : PageAt) (keyed : Bool) (upTo : Nat) (block : Bytes) : Option (Bytes × Bool) :=
  match decodeRows (p.blockEnv keyed) [] 0 (ceilDiv upTo 256) block with
  | .ok tiles bad => some (tiles.flatten, !bad.any id)
  | _ => none

/-- A tile opened: its clear legend, its slot or block in clear (empty for an ABSENT tile), whether it is sound, and
the key it was stored under. -/
structure OpenTile where
  clear : Bytes
  slot : Bytes
  sound : Bool
  key : Option TileKey
deriving DecidableEq, Repr

/-- Opens a tile of a page (R350 to R352); none when its legend's key is in no slot. -/
def State.openTile (s : State) (c : Fin 64) (p : PageAt) (t : Nat) : Option OpenTile :=
  let a := p.legendOf t
  let rl := s.readStack p.m a 32
  let raw := Legend.ofBytes rl.1
  let key := s.tileKey c raw (s.versionFor p.m p.stitch t)
  if (s.ctx c).keyed && key.isNone then none
  else
    let clear := match key with | some k => clearLegend k p.m a rl.1 | none => rl.1
    let l := (Legend.ofBytes clear).asVersion4
    let rg := tileRange p.lay p.tileMap p.ceiling l t
    let addr := p.stitch + rg.1
    if l.fmt == Fmt.absent.code then
      some { clear := clear, slot := [], key := key
             sound := !rl.2 && (match key with | some k => tagGood k p.m a [] rl.1 | none => true) }
    else if p.demotedLen != 0 then
      let b := s.demotedBlock c p
      match demotedBytes p (s.ctx c).keyed (rg.1 + rg.2) b.1 with
      | none => some { clear := clear, slot := zeros rg.2, sound := false, key := key }
      | some d =>
        let slot := cut d.1 rg.1 rg.2
        some { clear := clear, slot := slot, key := key
               sound := !rl.2 && b.2 && d.2 && (match key with
                 | some k => tagGood k p.m a (cryptAt k.key p.m.1 k.tag k.version addr slot) rl.1
                 | none => true) }
    else
      let rs := s.readStack p.m addr rg.2
      match key with
      | none => some { clear := clear, slot := rs.1, sound := !rl.2 && !rs.2, key := none }
      | some k => some { clear := clear, slot := cryptAt k.key p.m.1 k.tag k.version addr rs.1, key := key
                         sound := !rl.2 && !rs.2 && tagGood k p.m a rs.1 rl.1 }

/-- The key a tile is written back under: a context-keyed tile takes the current slot (R358) and `version`, a weight
tile keeps its nonce. -/
def State.writeKey (s : State) (c : Fin 64) (o : OpenTile) (version : Nat) : Option TileKey :=
  match o.key with
  | none => none
  | some k =>
    if (Legend.ofBytes o.clear).asVersion4.keyClass == 1
    then some { key := keyBytes (s.ctx c).cur.key, tag := (s.ctx c).tag.toNat, version := version } else some k

/-- The legend and slot a tile is written back with: version 4, poisoned when it is not sound, under the current
generation. In a demoted page the slot stands inside the block, where an old CONTOUR tile, which no DEMOTE of this block
leaves there, cannot be expanded: its legend says poisoned (assumption 85). -/
def State.backTile (s : State) (c : Fin 64) (q : PageAt) (o : OpenTile) : Legend × Bytes :=
  let l := Legend.ofBytes o.clear
  let up := upgraded (s.ctx c).keyed l o.slot
  ({ up.1 with poisoned := up.1.poisoned || !o.sound || (q.demotedLen != 0 && oldContour l)
               keyGen := if l.asVersion4.keyClass == 1 then (s.ctx c).cur.gen.toNat else up.1.keyGen }, up.2)

/-- An opened tile as version 4 holds it (R67): what the contour block of a demoted page is made of (R332). -/
def OpenTile.upgrade (keyed : Bool) (o : OpenTile) : OpenTile :=
  let up := upgraded keyed (Legend.ofBytes o.clear) o.slot
  { o with clear := up.1.toBytes, slot := up.2 }

/-- Stores an opened tile in page `q`: its slot, unless `q` is demoted, and its legend, sealed under `version` in a keyed
context. It counts as a tile written (R499). -/
def State.storeTile (s : State) (c : Fin 64) (q : PageAt) (t : Nat) (o : OpenTile) (version : Nat) : State :=
  let a := q.legendOf t
  let b := s.backTile c q o
  let rg := tileRange q.lay q.tileMap q.ceiling b.1.asVersion4 t
  let addr := q.stitch + rg.1
  let k := s.writeKey c o version
  let enc := match k with | some k => cryptAt k.key q.m.1 k.tag k.version addr b.2 | none => b.2
  let s0 := s.countTile q.m c b.1.asVersion4 (if q.demotedLen != 0 then 0 else enc.length)
  let s1 := if q.demotedLen != 0 then s0 else s0.putStack q.m c .stitch addr enc
  let stored := match k with | some k => sealLegend k q.m a enc b.1.toBytes | none => b.1.toBytes
  let s2 := s1.putStack q.m c .legend a stored
  if o.sound || o.key.isNone then s2
  else (s2.raise 0x9006 (some c) (0x90 + q.m.1) (q.stitch / 65536) t).countIntegrity 1

/-- Counts the destination page's version on, in a keyed context (a session of its own: R357). -/
def State.newVersion (s : State) (c : Fin 64) (m : Fin 12) (stitch : Nat) : State × Nat :=
  if (s.ctx c).keyed then
    let v := (s.counter m (stitch / 65536)).1 + 1
    (s.setCounter m (stitch / 65536) v, v)
  else (s, 0)

/-- The tiles of a page that have legends, opened (a tile whose key is in no slot stands as none). -/
def State.openPage (s : State) (c : Fin 64) (p : PageAt) : List (Nat × Option OpenTile) :=
  (legendTiles p.lay p.tileMap).map (fun t => (t, s.openTile c p t))

/-- A tile of page `p` that has been opened counts as read (R499). -/
def State.countRead (s : State) (c : Fin 64) (p : PageAt) (o : OpenTile) : State :=
  s.countTile p.m c (Legend.ofBytes o.clear).asVersion4 o.slot.length

/-- Stores opened tiles of page `p` in page `q`; a tile that could not be opened is copied as stored and reported (R356). -/
def State.storePage (s : State) (c : Fin 64) (p q : PageAt) (version : Nat) (tiles : List (Nat × Option OpenTile)) : State :=
  s.each tiles (fun u e => match e.2 with
    | some o => (u.countRead c p o).storeTile c q e.1 o version
    | none =>
      let raw := (s.readStack p.m (p.legendOf e.1) 32).1
      (u.putStack q.m c .legend (q.legendOf e.1) raw).raise 0x9006 (some c) (0x90 + q.m.1) (q.stitch / 65536) e.1)

/-- The slot format of a NEAR page. -/
def State.nearCeiling (s : State) (l : Leaf) (lay : Layout) : Nat :=
  pageCeiling ((legendTiles lay l.tileMap).map (fun t => Legend.ofBytes (s.readNear (l.legendAddr + legendOffset lay l.tileMap t) 32).1))

/-- Tile `t` of a NEAR page, which the near store holds in clear, as it is written back under `key`. -/
def State.nearOpen (s : State) (l : Leaf) (lay : Layout) (ceiling : Nat) (key : Option TileKey) (t : Nat) : OpenTile :=
  let rl := s.readNear (l.legendAddr + legendOffset lay l.tileMap t) 32
  let g := Legend.ofBytes rl.1
  let rg := tileRange lay l.tileMap ceiling g.asVersion4 t
  let rs := if g.fmt == Fmt.absent.code then ([], false) else s.readNear (l.stitchBase + rg.1) rg.2
  { clear := rl.1, slot := rs.1, sound := !rl.2 && !rs.2, key := key }

/-- Copies a page into another place (R310): its tiles are re-sealed there in a session of their own. -/
def State.copyPage (s : State) (c : Fin 64) (p q : PageAt) : State :=
  let v := s.newVersion c q.m q.stitch
  v.1.storePage c p q v.2 (s.openPage c p)

/-- The bytes of a page's span in clear: the opened slots, over the stored bytes in an unkeyed context and over zeros in a
keyed one (an ABSENT slot; DESIGN CHOICE, assumption 24). -/
def State.spanBytes (s : State) (c : Fin 64) (p : PageAt) (tiles : List (Nat × Option OpenTile)) : Bytes :=
  tiles.foldl (fun acc e => match e.2 with
    | some o => if o.slot.isEmpty then acc else overwrite acc (tileRange p.lay p.tileMap p.ceiling (Legend.ofBytes o.clear).asVersion4 e.1).1 o.slot
    | none => acc) (if (s.ctx c).keyed then zeros p.span else (s.readStack p.m p.stitch p.span).1)

/-- The contour block of a page's span: BYTES, effort 0, row distance 1, no reference, padded in a keyed context
(R332, R157). Its bound_off, which R139 and R142 state for compress steps only, is 1 (DESIGN CHOICE, assumption 112). -/
def spanBlock (keyed : Bool) (span : Bytes) : ContourBlock :=
  encodeContour { elemType := 0, distance := 1, effort := 0 } keyed true [] 0 (fitTo (roundUp span.length 4096) span)

/-- Stores a demoted page's block at its place, encrypted under the current slot in a keyed context. -/
def State.storeBlock (s : State) (c : Fin 64) (m : Fin 12) (stitch version : Nat) (block : Bytes) : State :=
  let x := s.ctx c
  s.putStack m c .stitch stitch (if x.keyed then cryptAt (keyBytes x.cur.key) m.1 x.tag.toNat version stitch block else block)

/-- A demoted page written again at its place under the current slot and the next version: the re-wrap sweep's form of
such a page (R359). -/
def State.rewrapDemoted (s : State) (c : Fin 64) (p : PageAt) : State :=
  let block := (s.demotedBlock c p).1
  let tiles := s.openPage c p
  let v := s.newVersion c p.m p.stitch
  (v.1.storeBlock c p.m p.stitch v.2 block).storePage c p p v.2 tiles

end Sys2Proof.Machine
end

