-- ==== Sys2Proof/Machine/Tick.lean ====
section
/-! DEFINITION. What a clk_core cycle with no command does: station credits grow (R285), the cycle count advances. -/
namespace Sys2Proof.Machine

/-- The split of Table 08-7 in units of 1/320: read, write, remote (R284). -/
def shares (split : Nat) : Nat × Nat × Nat :=
  if bitAt split 31 then (5 * field split 16 7, 5 * field split 8 7, 5 * field split 0 7) else (192, 80, 48)

/-- A station's service rate in 1/48 byte per cycle: the smaller of the stack rate and the AES pool's 1,280 B, at the
granted operating point (R285, R455, Table 13-2). -/
def serviceRate48 (rate grant : Nat) : Nat :=
  Nat.min ((if grant == 0 then 30 else if grant == 1 then 40 else 60) * rate) 61440

/-- The credit cap of 4,096 B in 1/15360 byte (R285). -/
def creditCap : Int := 4096 * 15360

/-- One cycle's credit of a station: class k gains s(k) / 320 × q, capped (R285). -/
def Station.gain (x : Station) (split grant : Nat) : Station :=
  let sh := shares split
  let q := serviceRate48 x.rate grant
  let g := fun (c : Int) (k : Nat) => min (c + Int.ofNat (k * q)) creditCap
  { x with creditRead := g x.creditRead sh.1, creditWrite := g x.creditWrite sh.2.1, creditRemote := g x.creditRemote sh.2.2 }

/-- Energy of one cycle: each unit's clk_core cycle in its power state at the operating point, and the hub's constant
(R474; activity counts 64 and up are cycles; assumption 6). -/
def State.cycleEnergy (s : State) : Nat :=
  let op := Nat.min s.pins.opGrant.toNat 2
  let code := fun (p : Power) => match p with | .active => 0 | .idle => 1 | .dormant => 2 | .off => 3 | .fenced => 4 | .fused => 5
  sumNat (s.slices.toList.map (fun x => Config.powerCoefficient (64 + 8 * op + code x.power)))
    + sumNat (s.stations.toList.map (fun m => if m.present then Config.powerCoefficient (96 + op) else 0))
    + sumNat (s.links.toList.map (fun l => if l.present then Config.powerCoefficient (100 + op) else 0))
    + Config.powerCoefficient (104 + op)

/-- One clk_core cycle without a command (assumption 2). -/
def State.tick (s : State) : State :=
  if s.live then
    { s with
      now := s.now + 1
      hub := { s.hub with energy := s.hub.energy + s.cycleEnergy }
      stations := s.stations.map (fun m => m.gain s.hub.dict.tensionSplit.toNat s.pins.opGrant.toNat) }
  else s

end Sys2Proof.Machine
end

