-- ==== Sys2Proof/Machine/Contexts.lean ====
section
/-! DEFINITION. Context states, keys, the re-wrap sweep, the scrub and the measurement (10_contexts_security.md), and
their commands that do not come over the H-port. -/
namespace Sys2Proof.Machine

/-! ### Opening and closing (R335, R336) -/

/-- OPEN_KEYED's tag check: nonzero and no other context that is not FREE has it (Table 10-1). -/
def State.tagFree (s : State) (c : Fin 64) : Bool :=
  (s.ctx c).tag != 0 && (allFin 64).all (fun d => d == c || (s.ctx d).state == .free || (s.ctx d).tag != (s.ctx c).tag)

/-- Opens a FREE context and sends the open message to the tally (R335, R499). -/
def State.openCtx (s : State) (c : Fin 64) (keyed : Bool) : State :=
  let t := s.modCtx c (fun x => { x with state := .opened, keyed := keyed })
  { t with tallyWire := t.tallyWire ++ [.opened c (s.ctx c).tag] }

/-- CLOSE of an OPEN context: suspended steps complete ABORTED, a sweep ends, and with no step left the scrub starts
(R336, R361). -/
def State.closeCtx (s : State) (c : Fin 64) : State :=
  if (s.ctx c).state == .opened then
    let s1 := s.modCtx c (fun x => { x with state := .closing, sweeping := false })
    let s2 := s1.abortSteps 0x01 ((s1.stepsOf c).filter (fun x => x.phase == .suspended && x.resumedBy.isNone))
    s2.settle.settleClosing c
  else s

/-! ### Keys (R344, R346, R353, R354, R362) -/

/-- Staging registers are zero after every key command (R346). -/
def State.clearStage (s : State) : State := s.modHub (fun h => { h with keyStageLo := 0, keyStageHi := 0, loadNonce := 0 })

/-- The staged key: bytes 0 to 15 then 16 to 31. -/
def State.stagedKey (s : State) : BitVec 256 := BitVec.ofNat 256 (s.hub.keyStageLo.toNat + s.hub.keyStageHi.toNat * 2 ^ 128)

/-- The reads before a root node is initialised: its address, and the counters of its physical pages. -/
def State.initLooks (s : State) (m : Fin 12) (c : Fin 64) : List Look :=
  s.rootLooks c m ++ (match s.rootAddr c m with
    | none | some 0 => []
    | some a => (newNodePages [] m a 8192).map (s.counterLook m))

/-- A station goes on with the root node it has still to initialise for a context: its next read, or the writes; a root
address it cannot read leaves the node as it stands (R354). -/
def State.initRoot (s : State) (m : Fin 12) (c : Fin 64) : State :=
  if !(s.ctx c).initDue.contains m then s
  else match s.need (.own c) c (s.initLooks m c) with
    | some t => t
    | none =>
      let s1 := (s.forgetLooks (.own c) (s.initLooks m c)).modCtx c (fun x => { x with initDue := x.initDue.filter (· != m) })
      match s.rootAddr c m with
      | none | some 0 => s1
      | some a => (s1.initNode [] c m false a 8192).1

/-- The root nodes a station has still to initialise. -/
def State.initRoots (s : State) (m : Fin 12) : State := s.each (allFin 64) (fun t c => t.initRoot m c)

/-- LOAD_CONTEXT: the key is loaded, the atlas key derived and the root nodes initialised (Table 10-5, R353, R354). -/
def State.loadKey (s : State) (c : Fin 64) : State :=
  let k := s.stagedKey
  let s1 := s.modCtx c (fun x =>
    { x with cur := { state := .loaded, key := k, gen := 0 }
             atlasKey := some (BitVec.ofNat 256 (leNat (atlasKeyOf (keyBytes k)))) })
  let ms := (allFin 12).filter (fun m => s.stationUp m)
  (s1.modCtx c (fun x => { x with initDue := ms })).each ms (fun t m => t.initRoot m c)

/-- LOAD_WEIGHT: the slot takes the staged key and nonce and is LOADING (R362). -/
def State.loadWeightKey (s : State) (w : Fin 16) : State :=
  s.modHub (fun h => { h with weights := vmod h.weights w (fun x =>
    { x with state := .loading, key := s.stagedKey, nonce := s.hub.loadNonce, tilesLoaded := 0 }) })

/-- A load step: a C_DECOMPRESS with weight_key = 0 that names a LOADING slot bound to its context, into a dense or packed
G3 or G3S stream (R362, R364). -/
def State.isLoad (s : State) (x : Step) : Bool :=
  x.op == some .cDecompress && !x.head.weightKey
    && (match finOf 16 x.head.weightSlot with
      | some w => (s.hub.weights[w.1]).state == .loading && bitAt (s.hub.weights[w.1]).bindMask.toNat x.ctx.1
      | none => false)
    && (match fmtAt x.words 5 with
      | some f => f.base.ternary && f.layout != .variableL
      | none => false)

/-- Key class of the legend of a step's first source tile, once the block has read it (R364). -/
def State.sourceClass (s : State) (x : Step) : Option Nat :=
  match (x.chain .src).bind (fun k => k.tileAt 0) with
  | none => none
  | some t => match s.walk x.ctx (t / 16) with
    | .leaf l _ _ => match Layout.ofCode l.layout with
      | none => none
      | some lay =>
        let a := l.legendAddr + legendOffset lay l.tileMap (t % 16)
        let bs := match l.page, finOf 12 l.station with
          | some .near, _ => (s.readNear a 32).1
          | _, some m => (s.readStack m a 32).1
          | _, none => []
        if bs.all (· == 0) then none else some (Legend.ofBytes bs).asVersion4.keyClass
    | _ => none

/-- A load step for the rules on whole steps: its source tiles carry key_class 0b10, so far as a legend of them has been
read (R364, Table 10-5). -/
def State.isLoadStep (s : State) (x : Step) : Bool := s.isLoad x && (s.sourceClass x).getD 2 == 2

/-- An unfinished step that reads or loads under weight slot `w` (Tables 10-5, 10-6). -/
def State.usesWeight (s : State) (x : Step) (w : Nat) : Bool :=
  x.open && ((s.keyUse x == (true, w)) || (x.head.weightSlot == w && s.isLoadStep x))

/-- Zeroises a weight slot; its bindings stand (Table 10-5). -/
def State.zeroWeight (s : State) (w : Fin 16) : State :=
  s.modHub (fun h => { h with weights := vmod h.weights w (fun x =>
    { x with state := .empty, key := 0, nonce := 0, tilesLoaded := 0 }) })

/-- Aborts every keyed context (R344, R491). -/
def State.abortKeyed (s : State) (cause : Nat) : State :=
  s.each (allFin 64) (fun t c => if (t.ctx c).keyed then t.abortCtx c cause else t)

/-- Zeroises every context key, weight key and atlas key. -/
def State.zeroAllKeys (s : State) : State :=
  { s with ctxs := s.ctxs.map (fun x => x.zeroKeys)
           hub := { s.hub with weights := s.hub.weights.map (fun x =>
             { x with state := .empty, key := 0, nonce := 0, tilesLoaded := 0 }) } }

/-- The last-word zeroise (Table 14-7): keyed contexts aborted, every context, weight, atlas, scrub and staged key zero,
event 0x9019 with arg0 1. Scrub keys are the one-time keys and the scrub root key (DEDUCED, assumption 106). -/
def State.zeroiseEverything (s : State) : State :=
  let s1 := (s.abortKeyed 0x03).zeroAllKeys.clearStage
  let s2 := s1.modHub (fun h => { h with scrubRoot := 0 })
  let s3 : State := { s2 with ctxs := s2.ctxs.map (fun x => { x with scrub := x.scrub.map (fun k => { k with key := 0 }) }) }
  s3.raise 0x9019 none 0xC0 1 0

/-- H_LOCKED_FALL: every keyed context is aborted, then every context and weight key is zeroised and the atlas keys are
discarded, with event 0x9019 arg0 0 (R344). -/
def execHLockedFall (s : State) : Host.Outcome State Fault Refusal :=
  let s1 : State := { s with pins := { s.pins with hLocked := false } }
  .next (if s.live && s.pins.hLocked then ((s1.abortKeyed 0x01).zeroAllKeys).raise 0x9019 none 0xC0 0 0 else s1)

/-- H_LOCKED_RISE: the synchronised value is high again (R344). -/
def execHLockedRise (s : State) : Host.Outcome State Fault Refusal :=
  .next { s with pins := { s.pins with hLocked := true } }

/-! ### Re-wrap sweep (R359, R360) -/

/-- Whether a legend carries the draining generation under a context key. -/
def oldGen (x : Context) (raw : Legend) : Bool :=
  raw.asVersion4.keyClass == 1 && x.prev.state == .draining && raw.keyGen == x.prev.gen.toNat

/-- Legend addresses of a page. -/
def Leaf.legendAddrs (l : Leaf) (lay : Layout) : List Nat :=
  (legendTiles lay l.tileMap).map (fun t => l.legendAddr + legendOffset lay l.tileMap t)

/-- A page that the sweep rewrites: it holds a legend under the draining generation, on a stack that can be reached (R487).
Headers hold class and generation in clear (R350, R359). -/
def State.sweepWants (s : State) (c : Fin 64) (l : Leaf) : Bool :=
  match l.page, Layout.ofCode l.layout, finOf 12 l.station with
  | some .resident, some lay, some m => s.stationUp m && (l.legendAddrs lay).any (fun a => oldGen (s.ctx c) (Legend.ofBytes (s.readStack m a 32).1))
  | some .near, some lay, _ => (l.legendAddrs lay).any (fun a => oldGen (s.ctx c) (Legend.ofBytes (s.readNear a 32).1))
  | _, _, _ => false

/-- Tiles of a NEAR page whose legends the sweep rewrites. -/
def State.sweepOld (s : State) (c : Fin 64) (l : Leaf) (lay : Layout) : List Nat :=
  (legendTiles lay l.tileMap).filter (fun t =>
    oldGen (s.ctx c) (Legend.ofBytes (s.readNear (l.legendAddr + legendOffset lay l.tileMap t) 32).1))

/-- The reads of the sweep at a leaf: the legend block, and the whole page when it is rewritten (R359); of a NEAR page the
old CONTOUR tiles, which version 4 holds expanded (R67). -/
def State.sweepLooks (s : State) (c : Fin 64) (m : Fin 12) (l : Leaf) : List Look :=
  match l.page, Layout.ofCode l.layout, finOf 12 l.station with
  | some .resident, some lay, some k =>
    if !s.stationUp k then []
    else stackLook k .legend l.legendAddr (legendSpan lay l.tileMap) :: (if s.sweepWants c l then s.pageLooks c l else [])
  | some .near, some lay, _ =>
    nearLook m l.legendAddr (legendSpan lay l.tileMap) :: (s.sweepOld c l lay).filterMap (fun t =>
      let g := Legend.ofBytes (s.readNear (l.legendAddr + legendOffset lay l.tileMap t) 32).1
      let rg := tileRange lay l.tileMap (s.nearCeiling l lay) g t
      if oldContour g then some (nearLook m (l.stitchBase + rg.1) rg.2) else none)
  | _, _, _ => []

/-- The sweep cannot begin with a RESIDENT page yet: a session is open on its physical page or none is free (R357, R360),
writes of it are on their way, or a tile of it is being read (R69). -/
def State.sweepWaits (s : State) (c : Fin 64) (m : Fin 12) (p : Nat) (l : Leaf) : Bool :=
  (s.sessionOn m l.stitchBase).isSome || (s.station m).sessions.length ≥ 64 || s.pageHeld c p || s.pageBusy l

/-- Rewrites a RESIDENT page in a session of the sweep's own: the tiles with an old legend, and at its close the rest
(R356, R359). -/
def State.sweepResident (s : State) (c : Fin 64) (m : Fin 12) (lay : Layout) (l : Leaf) (p : PageAt) : State :=
  if l.demoted then s.rewrapDemoted c p
  else
    let old := (legendTiles lay l.tileMap).filter (fun t => oldGen (s.ctx c) (Legend.ofBytes (s.storedLegend m lay l.tileMap l.legendAddr t)))
    let opened := old.map (fun t => (t, s.openTile c p t))
    let ss := s.openSession m sweepSlot c l.stitchBase l.legendAddr l.layout l.tileMap p.ceiling
    let t1 := ss.1.each opened (fun t e => match e.2 with
      | some o => ((t.countRead c p o).storeTile c p e.1 o ss.2.version).markWritten m ss.2 e.1
      | none => t)
    t1.each ((t1.station m).sessions.filter (fun y => y.same ss.2)) (fun t y => t.closeSession m y)

/-- The sweep at tile `t` of a NEAR page: its legend takes the current generation, and version 4 with it (R67, R359). The near
store is written through station `m`'s own slice S(116 + m), since the sweep has no walker's slice (DESIGN CHOICE,
assumption 114). -/
def State.sweepNear (s : State) (c : Fin 64) (m : Fin 12) (l : Leaf) (lay : Layout) (t : Nat) : State :=
  let o := s.nearOpen l lay (s.nearCeiling l lay) none t
  let g := Legend.ofBytes o.clear
  let up := upgraded (s.ctx c).keyed g o.slot
  let s1 := if oldContour g then s.putNear m (l.stitchBase + (tileRange lay l.tileMap (s.nearCeiling l lay) g t).1) up.2 else s
  s1.putNear m (l.legendAddr + legendOffset lay l.tileMap t)
    { up.1 with keyGen := (s.ctx c).cur.gen.toNat, poisoned := up.1.poisoned || (oldContour g && !o.sound) }.toBytes

/-- The sweep at page `p`, whose home is station `m` and whose reads have been made (R359): a RESIDENT page is rewritten, a
NEAR page's legends take the current generation. None when the page has to wait. A page whose counter cannot be read stands
as it is. -/
def State.sweepLeaf (s : State) (c : Fin 64) (m : Fin 12) (p : Nat) (l : Leaf) : Option State :=
  let counted := fun (t : State) => t.modCtx c (fun k => { k with sweepPages := k.sweepPages + 1 })
  if !s.sweepWants c l then some s
  else match l.page, Layout.ofCode l.layout, finOf 12 l.station, s.pageAt c l with
    | some .resident, some lay, some k, some q =>
      if s.versionBad c k l.stitchBase then some s
      else if s.sweepWaits c k p l then none
      else some (counted (s.sweepResident c k lay l q))
    | some .near, some lay, _, _ =>
      some (counted (s.each (s.sweepOld c l lay) (fun t i => t.sweepNear c m l lay i)))
    | _, _, _, _ => some s

/-- The page whose leaf a station holds at index `q` (R293). -/
def pageOfLeaf (c : Fin 64) (m : Fin 12) (q : Nat) : Nat := 12 * q + (m.1 + 12 * 64 - c.1) % 12

/-- Moves the sweep of a station to leaf `q`. -/
def State.sweepTo (s : State) (c : Fin 64) (m : Fin 12) (q : Nat) : State :=
  s.modCtx c (fun x => { x with sweepAt := vmod x.sweepAt m (fun _ => q) })

/-- The sweep of a station at leaf `q`: its next read, or what it does there, and the leaf it goes on with; none when it
waits. Entries that are invalid, or fail their check, lead to no leaf (R359). -/
def State.sweepItem (s : State) (c : Fin 64) (m : Fin 12) (q : Nat) : State × Option Nat :=
  let looks := s.nodeLooks c m q (fun node => s.entryLooks c m (node + 32 * field q 0 12))
  match s.need (.own c) c looks with
  | some t => (t, none)
  | none => match s.leafNode c m q with
    | .miss 0 => (s, some ((q / 2 ^ 24 + 1) * 2 ^ 24))
    | .miss _ | .integrity _ => (s, some ((q / 4096 + 1) * 4096))
    | .stationDown => (s, none)
    | .leaf _ _ addr => match s.readEntry c m addr true with
      | .ok b =>
        let l := Leaf.ofBytes b
        let more := s.sweepLooks c m l
        match s.need (.own c) c more with
        | some t => (t, none)
        | none => match s.sweepLeaf c m (pageOfLeaf c m q) l with
          | some t => (t.forgetLooks (.own c) (looks ++ more), some (q + 1))
          | none => (s, none)
      | _ => (s, some (q + 1))

/-- Leaves of one station: 512 middle nodes of 4,096 leaf nodes of 4,096 leaves. -/
def sweepEnd : Nat := 2 ^ 33

/-- The sweep of one station goes on until it waits or has passed every leaf, in ascending q; `n` bounds its leaves. -/
def State.sweepRun (c : Fin 64) (m : Fin 12) : Nat → State → State
  | 0, s => s
  | n + 1, s =>
    let q := (s.ctx c).sweepAt[m.1]
    if q ≥ sweepEnd then s
    else match s.sweepItem c m q with
      | (t, some q2) => State.sweepRun c m n (t.sweepTo c m q2)
      | (t, none) => t

/-- The sweep of a context goes on at every station, in parallel (R359). -/
def State.sweepOn (s : State) (c : Fin 64) : State :=
  if !(s.ctx c).sweeping then s
  else s.asSweep (fun u => u.each ((allFin 12).filter (fun m => u.stationUp m)) (fun t m =>
    State.sweepRun c m (sweepEnd - (t.ctx c).sweepAt[m.1]) t))

/-- Every sweep goes on. -/
def State.sweepAll (s : State) : State := s.each (allFin 64) (fun t c => t.sweepOn c)

/-- Every working station has passed its leaves and refreshed what it rewrote. -/
def State.sweepOver (s : State) (c : Fin 64) : Bool :=
  (allFin 12).all (fun m => !s.stationUp m
    || ((s.ctx c).sweepAt[m.1] ≥ sweepEnd && !(s.station m).sessions.any (fun x => x.slot == sweepSlot && x.ctx == c)))

/-- SWEEP_DONE: when every station has finished the sweep, sweep_done is set and the retire epoch recorded (R360); until
then the stations go on with it. -/
def execSweepDone (c : Fin 64) (s : State) : Host.Outcome State Fault Refusal :=
  if s.live && (s.ctx c).sweeping then
    let s1 := s.sweepOn c
    if !s1.sweepOver c then .next s1
    else .next ((s1.modCtx c (fun x => { x with sweeping := false, sweepDone := true, prevRetire := s1.hub.readEpoch })).modHub
      (fun h => { h with readEpoch := h.readEpoch + 1 }))
  else .next s

/-- ROTATE: previous ← current DRAINING, current ← staged key of the next generation; the sweep starts (R359). -/
def State.rotateKey (s : State) (c : Fin 64) : State :=
  (s.modCtx c (fun x =>
    { x with prev := { x.cur with state := .draining }
             cur := { state := .loaded, key := s.stagedKey, gen := x.cur.gen + 1 }
             sweeping := true, sweepAt := Vector.replicate 12 0, sweepPages := 0, sweepDone := false })).sweepOn c

/-- PREV_SLOT_RELEASE: once no step of the context holds an epoch at or below the sweep's, the previous slot is
zeroised and EMPTY (R312, R360). -/
def execPrevSlotRelease (c : Fin 64) (s : State) : Host.Outcome State Fault Refusal :=
  let x := s.ctx c
  if s.live && x.sweepDone && x.prev.state == .draining && s.epochClear c x.prevRetire.toNat then
    .next (s.modCtx c (fun y => { y with prev := KeySlot.empty }))
  else .next s

/-! ### Scrub (R371 to R375) -/

/-- Whether extent-table bytes [16 i, 16 i + 16) have arrived: requested, and in no read still outstanding (R372). -/
def State.extentArrived (s : State) (c : Fin 64) (asked i : Nat) : Bool :=
  let a := (s.ctx c).scrubTable.toNat + 16 * i
  16 * (i + 1) ≤ asked && !s.hub.cOut.any (fun q => q.purpose == .scrubTable c && q.addr < a + 16 && a < q.addr + q.len)

/-- The extent of table entry `i`; none when R372 counts it as length 0. -/
def State.scrubExtent (s : State) (c : Fin 64) (asked i : Nat) : Option ScrubExtent :=
  let r := s.readNear ((s.ctx c).scrubTable.toNat + 16 * i) 16
  let st := wordField r.1 0 60 4
  let base := wordField r.1 0 0 38
  let len := wordField r.1 1 0 38
  let fits := match finOf 12 st with
    | some m => (s.station m).idValid && base + len ≤ 2 ^ ((s.station m).capacityLog2 + 30)
    | none => st == 15 && base + len ≤ 2 ^ 34
  if s.extentArrived c asked i && !r.2 && base % 2048 == 0 && len % 2048 == 0 && len != 0 && fits
  then some { station := finOf 12 st, base := base, len := len } else none

/-- Units of a list of extents. -/
def unitsOf (es : List ScrubExtent) : Nat := sumNat (es.map (fun e => e.len / 2048))

/-- The k-th unit of a list of extents, in table order and ascending address. -/
def unitAt : List ScrubExtent → Nat → Option Nat
  | [], _ => none
  | e :: es, k => if k < e.len / 2048 then some (e.base + 2048 * k) else unitAt es (k - e.len / 2048)

/-- Units working station number `i` of `m` takes: its memory units, then the near-store units k with k mod m = i (R373). -/
def stationUnits (es : List ScrubExtent) (st : Fin 12) (i m : Nat) : Nat × Nat :=
  let near := unitsOf (es.filter (fun e => e.station.isNone))
  (unitsOf (es.filter (fun e => e.station == some st)), (near + m - 1 - i) / m)

/-- Largest number of units a working station takes; with none working, the near-store units the hub writes (R373, R374). -/
def scrubU (es : List ScrubExtent) (working : List (Fin 12)) : Nat :=
  if working.isEmpty then unitsOf (es.filter (fun e => e.station.isNone))
  else ((List.range working.length).zip working).foldl (fun u p =>
    let n := stationUnits es p.2 p.1 working.length
    Nat.max u (n.1 + n.2)) 0

/-- Length of phase 1 (R371). -/
def scrubL1 (entries : Nat) : Nat := 8192 + 4 * ceilDiv entries 16

/-- SCRUB_PHASE_2: the table is taken as it has arrived, scrub_cycles is fixed, and extent units follow (R372 to R374). -/
def execScrubPhase2 (c : Fin 64) (s : State) : Host.Outcome State Fault Refusal :=
  match (s.ctx c).scrub with
  | none => .next s
  | some k =>
    if !s.live || k.phase2 then .next s
    else
      let n := (s.ctx c).scrubEntries.toNat
      let got := (List.range n).map (fun i => s.scrubExtent c k.asked i)
      let bad := (List.range n).filter (fun i => (got.getD i none).isNone)
      let es := got.filterMap id
      let working := (allFin 12).filter (fun m => s.stationUp m)
      let u := scrubU es working
      let s1 := s.each bad (fun t i => t.raise 0x9007 (some c) 0xC0 i 0)
      .next (s1.modCtx c (fun x =>
        { x with
          scrubCycles := BitVec.ofNat 64 (scrubL1 n + s.hub.dict.scrubInterval.toNat * u + 64)
          scrub := some { k with phase2 := true, extents := es, working := working, units := u } }))

/-- The near-store unit number station number `i` of `m` writes as its `j`-th near unit. -/
def nearUnitNo (i m j : Nat) : Nat := i + m * j

/-- Units written so far by a unit (12 stands for the hub). -/
def Scrub.written (k : Scrub) (u : Nat) : Nat := (assoc u k.taken).getD 0

/-- What unit number `n` of station `m` is: a memory address or a near-store address (R373, R488 for inherited units). -/
def Scrub.unitOf (k : Scrub) (m : Fin 12) (n : Nat) : Option (Bool × Nat) :=
  match k.working.findIdx? (· == m) with
  | none => none
  | some i =>
    let mine := stationUnits k.extents m i k.working.length
    let near := k.extents.filter (fun e => e.station.isNone)
    if n < mine.1 then (unitAt (k.extents.filter (fun e => e.station == some m)) n).map (fun a => (true, a))
    else if n < mine.1 + mine.2 then (unitAt near (nearUnitNo i k.working.length (n - mine.1))).map (fun a => (false, a))
    else
      let extra := k.inherited.filter (fun e => e.1 == m.1)
      (extra[n - mine.1 - mine.2]?).bind (fun e => (unitAt near e.2).map (fun a => (false, a)))

/-- SCRUB_UNIT: the unit's keystream is written at its place: on its own stack under the credit exception of R285, or
in the near store through the N-port of S(116 + s); with no working station the hub writes over its C-port, with 15 in the counter
block's station field (R373; DESIGN CHOICE, assumption 122). -/
def execScrubUnit (c : Fin 64) (u : UnitId) (s : State) : Host.Outcome State Fault Refusal :=
  match (s.ctx c).scrub with
  | none => .next s
  | some k =>
    if !s.live || !k.phase2 then .next s
    else
      let advance := fun (t : State) (no : Nat) =>
        t.modCtx c (fun x => { x with scrub := some { k with taken := (no, k.written no + 1) :: k.taken.filter (fun e => e.1 != no) } })
      let data := fun (st a : Nat) => scrubUnitBytes (keyBytes k.key) st (a / 16) k.serial.toNat
      match u with
      | .ms m =>
        if !s.stationUp m then .next s
        else match k.unitOf m (k.written m.1) with
          | none => .next s
          | some (true, a) =>
            match freeId 512 ((s.station m).window.map (·.id)) with
            | none => .next s
            | some id =>
              let q : MReq := { cls := .write, wr := true, ctx := c, kind := .stitch, first := a, granules := 32
                                ranges := [{ addr := a, len := 2048, data := data m.1 a, job := 0, off := 0, order := (s.station m).accepted, sweep := false }]
                                scrub := true, fill := none }
              let s1 := ((s.writeStack m a (data m.1 a)).modStation m (fun x =>
                { x with window := x.window ++ [{ id := id, req := q, got := 0, data := [], bad := [] }]
                         creditWrite := x.creditWrite - 2048 * 15360 })).mSent m q
              .next ((advance s1 m.1).tallyAdd (.ms m) c 2 2048)
          | some (false, a) =>
            match s.nearSliceOf m with
            | none => .next s
            | some n => .next ((advance (s.naccWrite (.ms m) n 16384 a (data m.1 a)) m.1).tallyAdd (.ms m) c 2 2048)
      | .hub =>
        if !k.working.isEmpty then .next s
        else match unitAt (k.extents.filter (fun e => e.station.isNone)) (k.written 12) with
          | none => .next s
          | some a => .next ((advance (s.cRequest true a 2048 (data 15 a) .other) 12).tallyAdd .hub c 2 2048)
      | _ => .next s

/-- Every unit of phase 2 has been written (a failed station's memory units go unwritten: R488). -/
def State.scrubDone (s : State) (k : Scrub) : Bool :=
  if k.working.isEmpty then k.written 12 ≥ unitsOf (k.extents.filter (fun e => e.station.isNone))
  else k.working.all (fun m => !s.stationUp m || (k.unitOf m (k.written m.1)).isNone)

/-- SCRUB_END: after phase 3 the one-time key is gone and the context is FREE (R337, R371). -/
def execScrubEnd (c : Fin 64) (s : State) : Host.Outcome State Fault Refusal :=
  match (s.ctx c).scrub with
  | none => .next s
  | some k =>
    if s.live && k.phase2 && s.scrubDone k then
      .next (s.modCtx c (fun x => { x with state := .free, keyed := false, scrub := none }))
    else .next s

/-! ### Measurement (R376 to R378) -/

/-- One measured object's entry: index, subindex, length and value (R376). -/
def measuredEntry (index sub len value : Nat) : Bytes := leBytes 2 index ++ leBytes 1 sub ++ leBytes 1 len ++ leBytes len value

/-- The measured objects of R377 with their values, in ascending order. -/
def measuredObjects (d : Dict) : Bytes :=
  measuredEntry 0x2000 0x10 2 d.stationEnable.toNat ++ measuredEntry 0x2000 0x11 2 d.linkEnable.toNat
  ++ measuredEntry 0x2000 0x12 1 (b2n d.remoteServe)
  ++ measuredEntry 0x4000 0x01 4 d.tensionSplit.toNat ++ measuredEntry 0x4000 0x02 4 d.quantumUs.toNat
  ++ measuredEntry 0x4000 0x03 4 d.switchIdleNs.toNat ++ measuredEntry 0x4000 0x10 4 d.cutThrough.toNat
  ++ measuredEntry 0x5000 0x03 2 d.escThreshold.toNat ++ measuredEntry 0x5000 0x04 2 d.escRateLimit.toNat
  ++ measuredEntry 0x5000 0x05 1 d.effortDefault.toNat ++ measuredEntry 0x5000 0x06 1 d.blockTiles.toNat
  ++ measuredEntry 0x5000 0x07 2 d.autoDensity.toNat
  ++ measuredEntry 0x6000 0x06 2 d.scrubInterval.toNat ++ measuredEntry 0x6000 0x07 8 d.counterSheet.toNat

/-- The bytes the measurement hashes (R376). -/
def measuredBytes (h : Hub) : Bytes :=
  let patch := h.patchActive.getD []
  leBytes 2 0x0301 ++ leBytes 2 3 ++ leBytes 4 0x03010002 ++ leBytes 4 patch.length ++ zeros 4 ++ patch
  ++ measuredObjects h.dict

/-- The block measures itself (R376, R378). -/
def State.measureNow (s : State) : State :=
  s.modHub (fun h => { h with measurement := sha384 (measuredBytes h), measureSeq := h.measureSeq + 1, stale := false })

end Sys2Proof.Machine
end

