-- ==== Sys2Proof/Machine/Atlas.lean ====
section
/-! DEFINITION. The atlas services: images, shares, frees, frogs, demotion, promotion, copy-on-write, and the chain of a
gather (R300 to R322, R326, R331 to R334, R513). -/
namespace Sys2Proof.Machine

/-! ### Steps that run over images, pages or entries (R513) -/

/-- What one image, page or entry gives. -/
inductive ItemRes where
  | done (s : State) (o : Opened)
  | stop (s : State) (status cause : Nat)
  | miss (s : State) (kind station level page : Nat)
  | wait (s : State)

/-- Enters a miss of a step; the lowest one stands (R316). -/
def Step.meet (x : Step) (m : Miss) : Step :=
  match x.miss with
  | some k => if m.tile < k.tile then { x with miss := some m } else x
  | none => { x with miss := some m }

/-- Runs `one` over the items of a step from its position on, in ascending order; `n` items are left of `total`. An item
that waits for a read is tried again when the read has come. -/
def State.runItems (slot total : Nat) (one : State → Opened → Nat → ItemRes) : Nat → State → State
  | 0, s => s.modStep slot (fun x => { x with toDo := 0 })
  | n + 1, s =>
    let i := total - (n + 1)
    match one s (((s.step? slot).map (·.opened)).getD []) i with
    | .done t o2 => State.runItems slot total one n (t.modStep slot (fun x => { x with pos := i + 1, tilesDone := i + 1, opened := o2 }))
    | .stop t st cause => (t.addCond slot st cause (some i)).modStep slot (fun x => { x with toDo := 0 })
    | .miss t k m l p => t.modStep slot (fun x => { x.meet { tile := i, kind := k, station := m, level := l, page := p } with toDo := 0 })
    | .wait t => t

/-- Runs a step's items from the position it has reached. -/
def State.runFrom (s : State) (x : Step) (total : Nat) (one : State → Opened → Nat → ItemRes) : State :=
  State.runItems x.slot total one (total - x.pos) s

/-- An item whose reads have all been made goes on; another makes the next one and waits (R299, R301, R511). -/
def State.gate (s : State) (x : Step) (ls : List Look) (go : ItemRes) : ItemRes :=
  match s.need (.step x.slot) x.ctx ls with
  | some t => .wait t
  | none => go

/-- A change of a page's leaf, once the writes accepted before it are made and everything it needs is read. -/
def State.change (s : State) (x : Step) (p : Nat) (ls : List Look) (go : ItemRes) : ItemRes :=
  if s.pageHeld x.ctx p then .wait s else s.gate x ls go

/-! ### The hub's reads over the C-port (R511) -/

/-- The 64 B granules of a range, as C-port reads: none crosses a 4,096 B boundary (R394). -/
def hubReads (a len : Nat) : List (Nat × Nat) :=
  (splitRange 4096 (len / 4096 + 3) (a / 64 * 64) 0 (roundUp (a + len) 64 - a / 64 * 64)).map (fun p => (p.1, p.2.2))

/-- A step has made a C-port read. -/
def Step.hasRead (x : Step) (r : Nat × Nat) : Bool := x.sees.any (fun e => e.1 == r.1 && e.2.1 == r.2)

/-- None when every read of a list has been made, else the state that makes the next one. -/
def State.hubNeed (s : State) (x : Step) (rs : List (Nat × Nat)) : Option State :=
  match rs.find? (fun r => !x.hasRead r) with
  | none => none
  | some r =>
    if x.asks.contains r then some s
    else some ((s.cRequest false r.1 r.2 [] (.hubLook x.slot r.1 r.2)).modStep x.slot (fun y => { y with asks := r :: y.asks }))

/-- Adds to a step's counts. -/
def State.addCounts (s : State) (slot a b r : Nat) : State :=
  s.modStep slot (fun x => { x with countA := x.countA + a, countB := x.countB + b, result := x.result + r })

/-- Page `first + i` of a step; page numbers are 36 bits, and a range that runs past the last page goes on at page 0
(DESIGN CHOICE, assumption 86). -/
def pageAtOffset (first i : Nat) : Nat := (first + i) % 2 ^ 36

/-- The walk of a page a step changes: its leaf, or why the step ends there. -/
def State.walkItem (s : State) (c : Fin 64) (p : Nat) (go : Leaf → Nat → Nat → ItemRes) (missing : Nat → ItemRes) : ItemRes :=
  match s.walk c p with
  | .leaf l node addr => go l node addr
  | .miss level => missing level
  | .integrity cause => .stop s 0x31 cause
  | .stationDown => .stop s 0x23 0x02

/-- A miss of kind NODE at a page (Table 09-9). -/
def State.nodeMiss (s : State) (c : Fin 64) (p level : Nat) : ItemRes := .miss s 1 (homeOf c p).1 level p

/-- Writes a leaf and drops the reference the old one held (R305), unless `keep`: the state, whether a last reference
was dropped, and whether the share table could be read. -/
def State.replaceLeaf (s : State) (o : Opened) (c : Fin 64) (p : Nat) (old new : Leaf) (node addr : Nat) (keep : Bool) :
    State × Opened × Bool × Bool :=
  let d := if keep then (s, false, true) else s.dropRef c (homeOf c p) old
  if !d.2.2 then (s, o, false, false)
  else
    let w := d.1.writeEntry o c (homeOf c p) true node 131072 addr new.toBytes
    (w.1, w.2, d.2.1, true)

/-! ### ATLAS_WRITE (R303, R354) -/

/-- The lowest page whose walk passes the entry an interior image names. -/
def imagePage (c : Fin 64) (station q : Nat) : Nat := 12 * q + (station + 12 * 64 - c.1) % 12

/-- Two leaves refer to the same station, stitch area and legend block. -/
def Leaf.sameFrame (a b : Leaf) : Bool :=
  a.state == b.state && (a.state == 1 || a.state == 2) && (a.state == 2 || a.station == b.station)
    && a.stitchBase == b.stitchBase && a.legendAddr == b.legendAddr

/-- The leaf that an image names, with every reserved field and every field that its state does not use at 0 (R12, R295,
Table 09-4). The words of a reserved state stand as given (DESIGN CHOICE, assumption 87). -/
def Leaf.ofImage (entry : Bytes) : Leaf :=
  let l := Leaf.ofBytes entry
  let map := if l.layout == Layout.packed.code then l.tileMap else 0
  match l.page with
  | some .absent => { l with tileMap := map, w1 := 0, legendBlock := 0 }
  | some .resident => { l with tileMap := map, w1 := place (field l.w1 60 4) 60 4 + field l.w1 0 32 }
  | some .near => { l with tileMap := map, w1 := field l.w1 0 28, legendBlock := l.legendBlock % 2 ^ 25 }
  | some .remote => { l with tileMap := map, legendBlock := 0 }
  | some .frogged => { l with tileMap := map, w1 := field l.w1 0 32, legendBlock := 0 }
  | none => l

/-- A leaf image (R303). -/
def State.leafImage (s : State) (o : Opened) (x : Step) (p : Nat) (entry : Bytes) : ItemRes :=
  let img := Leaf.ofImage entry
  s.change x p (s.leafLooks o x.ctx p (s.dropLooks x.ctx (homeOf x.ctx p))) (s.walkItem x.ctx p (fun old node addr =>
    let same := img.sameFrame old
    let new := if same then { img with shared := old.shared, shareIdx := old.shareIdx, demoted := old.demoted, demotedLen := old.demotedLen }
      else { img with shared := false, shareIdx := 0, demoted := false, demotedLen := 0 }
    let r := s.replaceLeaf o x.ctx p old new node addr same
    if !r.2.2.2 then .stop s 0x31 0x01 else .done (r.1.addCounts x.slot 1 0 0) r.2.1)
    (s.nodeMiss x.ctx p))

/-- The reads of an interior image: the path to the entry, the session of its node, and the counters of a node it makes
valid (R303, R348, R354). -/
def State.interiorLooks (s : State) (o : Opened) (c : Fin 64) (m : Fin 12) (middle : Bool) (q : Nat) (new : Option Nat) : List Look :=
  let here := fun (node nodeLen addr : Nat) => s.entryLooks c m addr ++ s.writeLooks o c m node nodeLen addr
    ++ (match new with
      | some n => if (s.ctx c).keyed then (newNodePages o m n (if middle then 131072 else 65536)).map (s.counterLook m) else []
      | none => [])
  s.rootLooks c m ++ (match s.rootAddr c m with
    | none | some 0 => []
    | some root =>
      let a := root + 16 * field q 24 9
      if !middle then here root 8192 a
      else s.entryLooks c m a ++ (match s.readEntry c m a false with
        | .ok b => match interiorNode b with
          | none => []
          | some mid => here mid 65536 (mid + 16 * field q 12 12)
        | _ => []))

/-- A root or middle image: the entry is written; an entry that becomes valid has its node initialised first in a keyed
context (R303, R354). -/
def State.interiorImage (s : State) (o : Opened) (x : Step) (m : Fin 12) (middle : Bool) (idx : Nat) (entry : Bytes) : ItemRes :=
  let c := x.ctx
  let body := leBytes 8 (place (wordField entry 0 63 1) 63 1 + place (wordField entry 0 0 38) 0 38)
  let write := fun (node nodeLen addr : Nat) =>
    let was := match s.readEntry c m addr false with | .ok b => interiorNode b | _ => none
    let size := if middle then 131072 else 65536
    let fresh := match interiorNode body with
      | some n => if (s.ctx c).keyed && was != some n then some n else none
      | none => none
    if (s.ctx c).keyed && (s.counter m (addr / 65536)).2
        || (match fresh with | some n => (newNodePages o m n size).any (fun pg => (s.counter m pg).2) | none => false) then
      ItemRes.stop s 0x31 0x02
    else
      let p := match fresh with | some n => s.initNode o c m middle n size | none => (s, o)
      let w := p.1.writeEntry p.2 c m false node nodeLen addr body
      .done (w.1.addCounts x.slot 1 0 0) w.2
  let q := if middle then idx % 2 ^ 21 * 4096 else idx % 512 * 2 ^ 24
  if !s.stationUp m then .stop s 0x23 0x02
  else s.gate x (s.interiorLooks o c m middle q (interiorNode body)) (
    match s.rootAddr c m with
    | none => .stop s 0x31 0x01
    | some 0 => .miss s 1 m.1 0 (imagePage c m.1 q)
    | some root =>
      if !middle then write root 8192 (root + 16 * (idx % 512))
      else match s.readEntry c m (root + 16 * field q 24 9) false with
        | .badCheck => .stop s 0x31 0x01
        | .badCounter => .stop s 0x31 0x02
        | .ok b => match interiorNode b with
          | none => .miss s 1 m.1 0 (imagePage c m.1 q)
          | some mid => write mid 65536 (mid + 16 * field q 12 12))

/-- One image of an ATLAS_WRITE; the hub reads it over the C-port (R303, R511). -/
def State.atlasImage (x0 : Step) (s : State) (o : Opened) (i : Nat) : ItemRes :=
  let x := (s.step? x0.slot).getD x0
  match s.hubNeed x (hubReads (wordField x.words 4 0 34 + 64 * i) 64) with
  | some t => .wait t
  | none =>
  let r := s.readNear (wordField x.words 4 0 34 + 64 * i) 64
  let level := wordField r.1 0 62 2
  let entry := cut r.1 8 32
  if r.2 || level == 3 then .stop s 0x30 0x01
  else if level == 2 then s.leafImage o x (wordField r.1 0 0 36) entry
  else match finOf 12 (wordField r.1 0 58 4) with
    | none => .stop s 0x30 0x01
    | some m => s.interiorImage o x m (level == 1) (wordField r.1 0 0 36) entry

/-! ### SHARE, FREE, FROG (R304 to R306) -/

/-- A step's leaf change is on its way to another station. -/
def State.leafSent (s : State) (slot : Nat) : Bool :=
  s.net.any (fun t => match t.body with | .atlas (.setLeaf _ _ _ k) => k == slot | _ => false)

/-- A leaf that came from another station is written at its home; the item is done, or the step ends or misses there (R304, R305,
Table 11-10). -/
def State.leafCame (s : State) (c : Fin 64) (p : Nat) (l : Leaf) (slot : Nat) : State :=
  let stop := fun (st cause : Nat) => (s.addCond slot st cause ((s.step? slot).map (·.pos))).modStep slot (fun x => { x with toDo := 0 })
  match s.walk c p with
  | .leaf old node addr =>
    let r := s.replaceLeaf (((s.step? slot).map (·.opened)).getD []) c p old l node addr false
    if !r.2.2.2 then stop 0x31 0x01
    else (r.1.addCounts slot 1 0 0).modStep slot (fun x => { x with pos := x.pos + 1, tilesDone := x.tilesDone + 1, opened := r.2.1 })
  | .miss level => s.modStep slot (fun x =>
      { x.meet { tile := x.pos, kind := 1, station := (homeOf c p).1, level := level, page := p } with toDo := 0 })
  | .integrity cause => stop 0x31 cause
  | .stationDown => stop 0x23 0x02

/-- One page of a SHARE; where the two pages have different homes, the source's sends the leaf to the destination's (ATLAS, Table
11-10; DESIGN CHOICE, assumption 55). -/
def State.sharePage (x : Step) (s : State) (o : Opened) (i : Nat) : ItemRes :=
  let c := x.ctx
  let src := pageAtOffset (wordField x.words 4 0 36) i
  let dst := pageAtOffset (wordField x.words 5 0 36) i
  let put := fun (t : State) (o1 : Opened) (l : Leaf) (opened : Nat) =>
    if homeOf c src != homeOf c dst then
      ItemRes.wait (((t.addCounts x.slot 0 opened 0).modStep x.slot (fun y => { y with opened := o1 })).post
        (.ms (homeOf c src)) (.ms (homeOf c dst)) (.atlas (.setLeaf c dst l x.slot)))
    else t.walkItem c dst (fun old node addr =>
      let r := t.replaceLeaf o1 c dst old l node addr false
      if !r.2.2.2 then ItemRes.stop s 0x31 0x01 else .done (r.1.addCounts x.slot 1 opened 0) r.2.1)
      (fun level => s.nodeMiss c dst level)
  let looks := s.leafLooks o c src (fun l => if l.state != 1 && l.state != 2 then [] else if l.shared then [s.shareLook c (homeOf c src) l.shareIdx]
    else s.freeShareLooks c (homeOf c src)) ++ s.leafLooks o c dst (s.dropLooks c (homeOf c dst))
  if s.pageHeld c src || s.leafSent x.slot then .wait s
  else s.change x dst looks (s.walkItem c src (fun l node addr =>
    s.walkItem c dst (fun _ _ _ =>
      match l.page with
      | none => .stop s 0x30 0x02
      | some .resident | some .near =>
        if l.shared then
          let n := s.shareCount c l.shareIdx
          if n.2 then .stop s 0x31 0x01
          else if n.1 ≥ 2 ^ 16 then .miss s 3 (homeOf c src).1 0 src
          else put (s.setShare c (homeOf c src) l.shareIdx (n.1 + 1)) o l 0
        else match s.freeShare c with
          | none => .miss s 3 (homeOf c src).1 0 src
          | some (_, false) => .stop s 0x31 0x01
          | some (idx, true) =>
            let l2 := { l with shared := true, shareIdx := idx }
            let w := (s.setShare c (homeOf c src) idx 2).writeEntry o c (homeOf c src) true node 131072 addr l2.toBytes
            put w.1 w.2 l2 1
      | some _ => put s o l 0)
      (s.nodeMiss c dst))
    (s.nodeMiss c src))

/-- One page of a FREE; a page with no leaf is passed over (R305). -/
def State.freePage (x : Step) (s : State) (o : Opened) (i : Nat) : ItemRes :=
  let p := pageAtOffset (wordField x.words 4 0 36) i
  s.change x p (s.leafLooks o x.ctx p (s.dropLooks x.ctx (homeOf x.ctx p))) (s.walkItem x.ctx p (fun old node addr =>
    let r := s.replaceLeaf o x.ctx p old Leaf.absent node addr false
    if !r.2.2.2 then .stop s 0x31 0x01 else .done (r.1.addCounts x.slot 1 (b2n r.2.2.1) 0) r.2.1)
    (fun _ => .done s o))

/-- The FROGGED leaf of a cookie. -/
def Leaf.frogged (cookie : Nat) : Leaf := { Leaf.absent with state := 4, w1 := cookie % 2 ^ 32 }

/-- One page of a FROG (R306). -/
def State.frogPage (x : Step) (s : State) (o : Opened) (i : Nat) : ItemRes :=
  let p := pageAtOffset (wordField x.words 4 0 36) i
  s.change x p (s.leafLooks o x.ctx p (s.dropLooks x.ctx (homeOf x.ctx p))) (s.walkItem x.ctx p (fun old node addr =>
    let r := s.replaceLeaf o x.ctx p old (Leaf.frogged (wordField x.words 6 0 32 + i)) node addr false
    if !r.2.2.2 then .stop s 0x31 0x01 else .done (r.1.addCounts x.slot 1 (b2n r.2.2.1) 0) r.2.1)
    (s.nodeMiss x.ctx p))

/-! ### Frames taken for a page (R307, R314) -/

/-- The reads of taking a frame: the pool, and in a keyed context the version of the frame's page (R307, R348). -/
def State.frameLooks (s : State) (c : Fin 64) (p span : Nat) : List Look :=
  s.poolLooks c (homeOf c p) span ++ (match s.allocate c (homeOf c p) span with
    | .ok f _ => s.versionLooks c f.station f.stitch
    | _ => [])

/-- Allocates a frame for page `p` from its home station's pool, or ends the step there. -/
def State.allocItem (s : State) (c : Fin 64) (p span : Nat) (go : Frame → State → ItemRes) : ItemRes :=
  match s.allocate c (homeOf c p) span with
  | .ok f t => if s.versionBad c f.station f.stitch then .stop s 0x31 0x02 else go f t
  | .poolEmpty => .miss s 2 (homeOf c p).1 0 p
  | .integrity => .stop s 0x31 0x01

/-- Some legend of the page names a weight key (R331). -/
def State.weightPage (s : State) (p : PageAt) : Bool :=
  (legendTiles p.lay p.tileMap).any (fun t => (s.rawLegend p t).asVersion4.keyClass == 2)

/-- A page keeps its legend block when its stitches move to frame `f`: the block is its own and on the frame's
station (R332). -/
def keepsLegends (l : Leaf) (f : Frame) : Bool := !l.shared && l.station == f.station.1

/-- The leaf of a page whose stitches now lie in frame `f`. -/
def Leaf.movedTo (l : Leaf) (f : Frame) (demotedLen : Nat) : Leaf :=
  { Leaf.residentAt l.layout f.station.1 f.stitch (if keepsLegends l f then l.legendAddr else f.legend) l.tileMap with
    demoted := demotedLen != 0, demotedLen := demotedLen }

/-- The areas that retire when a page's stitches have moved to frame `f` (R309): the old stitch area and, at once with it
(DESIGN CHOICE, assumption 113), the frame's unused legend block; or the whole old reference. -/
def State.retireMoved (s : State) (c : Fin 64) (home : Fin 12) (l : Leaf) (f : Frame) : State × Bool :=
  if keepsLegends l f then
    (s.retire c [.area l.station l.stitchBase ((s.ctx c).sourceOf l.station l.stitchBase),
      .legendBlock f.station.1 f.legend (b2n f.large)], true)
  else
    let d := s.dropRef c home l
    (d.1, d.2.2)

/-! ### DEMOTE and PROMOTE (R331 to R333) -/

/-- The reads of a demotion or a promotion of a page: the whole page, its share record, a frame (R331 to R333). -/
def State.moveLooks (s : State) (o : Opened) (c : Fin 64) (pg : Nat) : List Look :=
  s.leafLooks o c pg (fun l =>
    if l.page != some .resident then []
    else s.pageLooks c l ++ s.dropLooks c (homeOf c pg) l ++ (match s.pageAt c l with
      | some p => s.frameLooks c pg p.span
      | none => []))

/-- One page of a DEMOTE. A page held under a weight key stops it, whatever its layout (R331); a frame is taken for the
page's stitch span (R307, R332). -/
def State.demotePage (x : Step) (s : State) (o : Opened) (i : Nat) : ItemRes :=
  let c := x.ctx
  let pg := pageAtOffset (wordField x.words 4 0 36) i
  let skip := ItemRes.done (s.addCounts x.slot 0 0 1) o
  s.change x pg (s.moveLooks o c pg) (s.walkItem c pg (fun l node addr =>
    if l.page != some .resident then skip
    else match s.pageAt c l with
      | none => .stop s 0x30 0x02
      | some p =>
        if !s.stationUp p.m then .stop s 0x23 0x02
        else if s.weightPage p then .stop s 0x33 0
        else if l.demoted || p.lay == .variableL || p.span == 0 then skip
        else if s.pageBusy l then .wait s
        else if s.versionBad c p.m p.stitch then .stop s 0x31 0x02
        else
          let tiles := (s.openPage c p).map (fun e => (e.1, e.2.map (fun w => w.upgrade (s.ctx c).keyed)))
          let block := spanBlock (s.ctx c).keyed (s.spanBytes c p tiles)
          if tiles.any (fun e => e.2.isNone) then .stop s 0x30 0x02
          else if block.noGain then .done (s.addCounts x.slot 0 1 0) o
          else s.allocItem c pg p.span (fun f t =>
            let new := l.movedTo f block.storedLen
            let q : PageAt := { p with m := f.station, stitch := f.stitch, legend := new.legendAddr, demotedLen := block.storedLen }
            let v := t.newVersion c q.m q.stitch
            let t1 := (v.1.storeBlock c q.m q.stitch v.2 block.stored).storePage c p q v.2 tiles
            let w := t1.writeEntry o c (homeOf c pg) true node 131072 addr new.toBytes
            let r := w.1.retireMoved c (homeOf c pg) l f
            if !r.2 then .stop s 0x31 0x01 else .done (r.1.addCounts x.slot 1 0 0) w.2))
    (s.nodeMiss c pg))

/-- A demoted page's tiles and restored bytes `body` go into frame `f`, and its leaf points there; whether the old frame could be
given back (R333). -/
def State.restoreInto (t : State) (o : Opened) (c : Fin 64) (pg : Nat) (l : Leaf) (node addr : Nat) (p : PageAt)
    (tiles : List (Nat × Option OpenTile)) (body : Bytes) (f : Frame) : State × Opened × Bool :=
  let new := l.movedTo f 0
  let q : PageAt := { p with m := f.station, stitch := f.stitch, legend := new.legendAddr, demotedLen := 0 }
  let v := t.newVersion c q.m q.stitch
  let t1 := if (t.ctx c).keyed then v.1 else v.1.putStack q.m c .stitch q.stitch (body.take p.span)
  let w := (t1.storePage c p q v.2 tiles).writeEntry o c (homeOf c pg) true node 131072 addr new.toBytes
  let r := w.1.retireMoved c (homeOf c pg) l f
  (r.1, w.2, r.2)

/-- Restores a demoted page into a new frame (R333). -/
def State.promote (s : State) (o : Opened) (c : Fin 64) (pg : Nat) (l : Leaf) (node addr : Nat) : ItemRes :=
  match s.pageAt c l with
  | none => .stop s 0x30 0x02
  | some p =>
    if !s.stationUp p.m then .stop s 0x23 0x02
    else if s.weightPage p then .stop s 0x33 0
    else if s.pageBusy l then .wait s
    else if s.versionBad c p.m p.stitch then .stop s 0x31 0x02
    else
      let tiles := s.openPage c p
      if tiles.any (fun e => e.2.isNone) then .stop s 0x30 0x02
      else match demotedBytes p (s.ctx c).keyed p.span (s.demotedBlock c p).1 with
        | none => .stop s 0x30 0x03
        | some d => s.allocItem c pg p.span (fun f t =>
          let r := t.restoreInto o c pg l node addr p tiles d.1 f
          if !r.2.2 then .stop s 0x31 0x01 else .done r.1 r.2.1)

/-- One page of a PROMOTE; a page that is not demoted is passed over, but one held under a weight key stops it (R331). -/
def State.promotePage (x : Step) (s : State) (o : Opened) (i : Nat) : ItemRes :=
  let c := x.ctx
  let pg := pageAtOffset (wordField x.words 4 0 36) i
  s.change x pg (s.moveLooks o c pg) (s.walkItem c pg (fun l node addr =>
    if l.page != some .resident then .done s o
    else if (match s.pageAt c l with | some p => s.stationUp p.m && s.weightPage p | none => false) then .stop s 0x33 0
    else if !l.demoted then .done s o
    else match s.promote o c pg l node addr with
      | .done t o2 => .done (t.addCounts x.slot 1 0 0) o2
      | r => r)
    (s.nodeMiss c pg))

/-! ### Copy-on-write (R310) -/

/-- The reads of a copy-on-write or a promotion that a write asks for, by the page's home station (R310, R333). -/
def State.copyLooks (s : State) (o : Opened) (c : Fin 64) (pg : Nat) : List Look :=
  s.leafLooks o c pg (fun l => s.dropLooks c (homeOf c pg) l ++ (match l.page, Layout.ofCode l.layout with
    | some .near, some lay =>
      let span := stitchSpan lay l.tileMap (s.nearCeiling l lay)
      [nearLook (homeOf c pg) l.legendAddr (legendSpan lay l.tileMap), nearLook (homeOf c pg) l.stitchBase span] ++ s.frameLooks c pg span
    | some .resident, _ => s.pageLooks c l ++ (match s.pageAt c l with
      | some p => s.frameLooks c pg p.span
      | none => [])
    | _, _ => []))

/-- Copies a shared page of a writer into a new frame, repoints its leaf and drops its reference (R310). A NEAR page is
copied from the near store tile by tile, in a keyed context sealed under the frame's version; of a packed page only the
legends of its present tiles are read and written (R53). -/
def State.copyOnWrite (s : State) (o : Opened) (c : Fin 64) (pg : Nat) (l : Leaf) (node addr : Nat) : ItemRes :=
  let finish := fun (f : Frame) (t : State) =>
    let new := Leaf.residentAt l.layout f.station.1 f.stitch f.legend l.tileMap
    let w := t.writeEntry o c (homeOf c pg) true node 131072 addr new.toBytes
    let d := w.1.dropRef c (homeOf c pg) l
    if !d.2.2 then ItemRes.stop s 0x31 0x01 else .done d.1 w.2
  if l.page == some .near then
    match Layout.ofCode l.layout with
    | none => .stop s 0x30 0x02
    | some lay =>
      let ceiling := s.nearCeiling l lay
      let span := stitchSpan lay l.tileMap ceiling
      s.allocItem c pg span (fun f t =>
        let q : PageAt := { m := f.station, lay := lay, tileMap := l.tileMap, ceiling := ceiling, stitch := f.stitch, legend := f.legend, demotedLen := 0 }
        let v := t.newVersion c q.m q.stitch
        let x := t.ctx c
        let k : Option TileKey := if x.keyed then some { key := keyBytes x.cur.key, tag := x.tag.toNat, version := v.2 } else none
        finish f (v.1.each (legendTiles lay l.tileMap) (fun u i => u.storeTile c q i (t.nearOpen l lay ceiling k i) v.2)))
  else match s.pageAt c l with
    | none => .stop s 0x30 0x02
    | some p => if !s.stationUp p.m then .stop s 0x23 0x02
      else if s.versionBad c p.m p.stitch then .stop s 0x31 0x02
      else s.allocItem c pg p.span (fun f t =>
        finish f (t.copyPage c p { p with m := f.station, stitch := f.stitch, legend := f.legend }))

/-- A frame for a write to an ABSENT or FROGGED page (R314): the legend block filled, the leaf RESIDENT there. The
version under which a keyed page's legends are sealed is the one the writing step's session takes. A load, which has no
session (R364), fills it with legends of its weight slot under the load nonce (DEDUCED, assumption 115). -/
def State.placePage (s : State) (o : Opened) (c : Fin 64) (pg slot : Nat) (load : Option (Fin 16))
    (layout tileMap ceiling node addr : Nat) : ItemRes :=
  match Layout.ofCode layout with
  | none => .stop s 0x30 0x02
  | some lay =>
    let tm := if lay == .packed then tileMap else 0
    s.allocItem c pg (stitchSpan lay tm ceiling) (fun f t =>
      let new := Leaf.residentAt layout f.station.1 f.stitch f.legend tm
      match load with
      | some w =>
        let k : TileKey := { key := keyBytes (t.hub.weights[w.1]).key, tag := 0, version := (t.hub.weights[w.1]).nonce.toNat }
        let l := { absentLegend 0 2 0 (if lay == .variableL then 0 else ceiling) with weightSlot := w.1 }
        let t1 := t.fillLegends c f.station lay f.legend l (some k)
        let r := t1.writeEntry o c (homeOf c pg) true node 131072 addr new.toBytes
        .done r.1 r.2
      | none =>
      if (t.ctx c).keyed then
        let p := t.openSession f.station slot c f.stitch f.legend layout tm ceiling
        let w := (p.1.fillAbsent c f.station lay f.legend ceiling p.2.version).writeEntry o c (homeOf c pg) true node 131072 addr new.toBytes
        let marked := w.1.each (if lay == .packed then [] else List.range 16) (fun u i => u.markWritten f.station p.2 i)
        .done marked w.2
      else
        let w := (t.fillAbsent c f.station lay f.legend ceiling 0).writeEntry o c (homeOf c pg) true node 131072 addr new.toBytes
        .done w.1 w.2)

/-! ### GATHER (R319 to R322) -/

/-- What the length table gives of one sequence: the page list's address and the length; none when unreadable. -/
def State.sequence (s : State) (x : Step) (i : Nat) : Option (Nat × Nat) :=
  let r := s.readNear (wordField x.words 7 0 34 + 16 * i) 16
  if r.2 then none else some (wordField r.1 0 0 34, wordField r.1 1 0 32)

/-- Extents of one sequence's pages: `n` tokens left, page-list entry `k` next. The second answer is false when an entry
could not be read. -/
def State.listExtents (s : State) (list : Nat) : Nat → Nat → Nat → List Extent × Bool
  | 0, _, _ => ([], true)
  | fuel + 1, k, n =>
    if n == 0 then ([], true)
    else
      let r := s.readNear (list + 8 * k) 8
      if r.2 then ([], false)
      else
        let m := Nat.min n 16
        let rest := s.listExtents list fuel (k + 1) (n - m)
        ({ addr := 0, baseTile := 16 * wordField r.1 0 0 36, dims := [(m, 1)], tiles := m, bindOff := false } :: rest.1, rest.2)

/-- The next C-port read of a gather's tables: the length table in order, and behind it the page lists (R319 to R321);
`lists` says which of the two is looked at, `n` sequences are left. -/
def State.gatherRead (s : State) (x : Step) (lists : Bool) : Nat → Nat → Option (Nat × Nat)
  | 0, _ => none
  | n + 1, i =>
    let rs := if lists then (match s.sequence x i with
        | some (list, len) => if len == 0 then [] else hubReads list (8 * ceilDiv len 16)
        | none => [])
      else hubReads (wordField x.words 7 0 34 + 16 * i) 16
    match rs.find? (fun r => !x.hasRead r) with
    | some r => some r
    | none => s.gatherRead x lists n (i + 1)

/-- None when a gather's tables have been read, else the state that makes the next read. -/
def State.gatherNeed (s : State) (x : Step) : Option State :=
  let n := wordField x.words 8 0 32
  match s.gatherRead x false n 0 with
  | some r => s.hubNeed x [r]
  | none => match s.gatherRead x true n 0 with
    | some r => s.hubNeed x [r]
    | none => none

/-- A gather's extents and lengths, sequence by sequence; the last answer is false when a word could not be read or the
chain passes 2^32 tiles (R224, R511). -/
def State.gatherFrom (s : State) (x : Step) : Nat → Nat → Nat → List Extent × List Nat × Bool
  | 0, _, _ => ([], [], true)
  | n + 1, i, before =>
    match s.sequence x i with
    | none => ([], [], false)
    | some (list, len) =>
      if before + len > 2 ^ 32 then ([], [], false)
      else
        let e := s.listExtents list (ceilDiv len 16) 0 len
        if !e.2 then (e.1, [len], false)
        else
          let rest := s.gatherFrom x n (i + 1) (before + len)
          (e.1 ++ rest.1, len :: rest.2.1, rest.2.2)

/-- The chain and lengths of a gather. -/
def State.gatherChain (s : State) (x : Step) : Chain × List Nat :=
  let g := s.gatherFrom x (wordField x.words 8 0 32) 0 0
  ({ Chain.start 0 0 with extents := g.1, ended := g.2.2, failed := !g.2.2 }, g.2.1)

/-! ### DELIVER_ROWS (R327) -/

/-- Bits of each bitmap the step uses, and the extent's dimensions. -/
def rowShape (c : Chain) (rowDim : Nat) : Nat × List (Nat × Int) :=
  match c.extents.head? with
  | some e => (((e.dims[rowDim]?).map (·.1)).getD 1, e.dims)
  | none => (0, [])

/-- A bitmap's bit from the granules a step read. -/
def Step.mapBit (x : Step) (base i : Nat) : Bool :=
  let a := base + i / 8
  match x.granule (a / 64 * 64) with
  | some (bs, _) => bitAt (byteAt bs (a % 64)) (i % 8)
  | none => false

/-- Row blocks a DELIVER_ROWS step delivers: the row mask, and in a make-up pass the skip record too. -/
def Step.rowOn (x : Step) (i : Nat) : Bool :=
  x.mapBit (wordField x.words 8 0 34) i && (!wordBit x.words 8 39 || x.mapBit (wordField x.words 9 0 34) i)

/-- The row block of chain index `n`. -/
def Step.rowBlock (x : Step) (n : Nat) : Nat :=
  match x.chain .src with
  | some c => extentIndex (rowShape c (wordField x.words 8 36 3)).2 (wordField x.words 8 36 3) n
  | none => 0

/-- A row-mask pass or make-up pass skips this tile. -/
def Step.rowSkips (x : Step) (n : Nat) : Bool := x.op == some .deliverRows && !x.rowOn (x.rowBlock n)

/-- Granule addresses of the first `bits` bits of a bitmap. -/
def bitmapGranules (base bits : Nat) : List Nat := (List.range (ceilDiv (ceilDiv bits 8) 64)).map (fun k => base + 64 * k)

/-- The granules a DELIVER_ROWS step reads: the row mask; for a make-up pass the skip record too, and otherwise its last
granule when bits beyond the count stand in it. -/
def Step.rowGranules (x : Step) (n : Nat) : List Nat :=
  let skip := bitmapGranules (wordField x.words 9 0 34) n
  bitmapGranules (wordField x.words 8 0 34) n
    ++ (if wordBit x.words 8 39 then skip else if n % 8 != 0 then skip.getLast?.toList else [])

/-- The bytes of a DELIVER_ROWS step's skip record when it ends, by granule: a row-mask pass sets bit i exactly for each
skipped row block; a make-up pass clears the bits of the rows it delivered. Bits beyond the count keep their value. -/
def State.skipRecord (s : State) (x : Step) : List (Nat × Bytes) :=
  match x.op == some .deliverRows, x.chain .src with
  | true, some c =>
    let n := (rowShape c (wordField x.words 8 36 3)).1
    let base := wordField x.words 9 0 34
    let makeup := wordBit x.words 8 39
    if makeup && bestStatus x.conds ≥ 0x10 && bestStatus x.conds != 0x24 then []
    else
      let byte := fun (k : Nat) =>
        let old := match x.granule ((base + k) / 64 * 64) with
          | some g => byteAt g.1 ((base + k) % 64)
          | none => byteAt (s.readNear (base + k) 1).1 0
        let bit := fun (b : Nat) =>
          if 8 * k + b ≥ n then bitAt old b
          else if makeup then bitAt old b && !x.rowOn (8 * k + b) else !x.rowOn (8 * k + b)
        byteOf (natOfBits ((List.range 8).map bit))
      (pieces 64 (List.range (ceilDiv n 8))).map (fun ks => (base + ks.headD 0, ks.map byte))
  | _, _ => []

end Sys2Proof.Machine
end

