-- ==== Sys2Proof/Machine/Rings.lean ====
section
/-! DEFINITION. Rings, doorbells, the reading of submission entries, the completion of steps and the writing of
completion records (R262 to R268, R272, R282, R288, R291, R509). -/
namespace Sys2Proof.Machine

/-! ### Enabling and disabling (R509) -/

/-- The completion ring is in use (R509): from the enabling until the submission ring is disabled and no step read from
it is left to complete, nor any of its records to be written. -/
def State.cqInUse (s : State) (c : Fin 64) (r : Fin 4) : Bool :=
  let k := s.ring c r
  k.inUse && (k.enabled || !k.waiting.isEmpty || (s.stepsOf c).any (fun x => x.ring == r && x.open))

/-- The enabling of a submission ring: registers are taken as they stand and every count is 0. Steps of an earlier
enabling keep their pattern_seq and are told apart from the new patterns. -/
def State.enableRing (s : State) (c : Fin 64) (r : Fin 4) (log2 : BitVec 8) : State :=
  let s1 := s.modRing c r (fun k =>
    { k with
      sqLog2 := log2, liveSqBase := k.sqBase, liveSqLog2 := log2, liveCqBase := k.cqBase, liveCqLog2 := k.cqLog2
      sqHead := 0, cqTail := 0, tail := 0, consumed := 0, patterns := 0, enabled := true, inUse := true
      expect := { left := 0, index := 0, seqNo := 0, serial := false } })
  let s2 := s1.modCtx c (fun x => { x with ended := x.ended.filter (fun e => e.ring != r) })
  s2.modHub (fun h => { h with steps := h.steps.map (fun x =>
    if x.ctx == c && x.ring == r then { x with pattern := x.pattern + 2 ^ 32 } else x) })

/-- Drops the burst a ring is reading: what still comes of it is not copied. -/
def State.dropBurst (s : State) (c : Fin 64) (r : Fin 4) : State :=
  (s.modRing c r (fun k => { k with burst := none })).modHub (fun h =>
    { h with cOut := h.cOut.map (fun q => if q.purpose == .entries c r then { q with purpose := .other } else q) })

/-- The disabling of a submission ring: no further entry is read. -/
def State.disableRing (s : State) (c : Fin 64) (r : Fin 4) : State :=
  (s.dropBurst c r).modRing c r (fun k => { k with sqLog2 := 0, enabled := false })

/-! ### Doorbells (R263) -/

/-- Ignores a doorbell and raises the doorbell-refused event. -/
def State.refuseDoorbell (s : State) (c : Fin 64) (r : Fin 4) (cq : Bool) (count : BitVec 32) : State :=
  s.raise 0x9003 (some c) 0xC0 count.toNat (r.1 + 4 * b2n cq)

/-- SUBMISSION_DOORBELL: sets the ring's tail, or is ignored with event 0x9003 (R263, R336); so is one to a ring of a FREE
context (DESIGN CHOICE, assumption 93). -/
def execSubmissionDoorbell (c : Fin 64) (ring : Fin 4) (count : BitVec 32) (s : State) : Host.Outcome State Fault Refusal :=
  if !s.cOpen then .next s
  else
    let k := s.ring c ring
    if k.enabled && (s.ctx c).state == .opened && (count - k.tail).toNat < 2 ^ 31
        && (count - k.sqHead).toNat ≤ 2 ^ k.liveSqLog2.toNat then
      .next (s.modRing c ring (fun q => { q with tail := count }))
    else .next (s.refuseDoorbell c ring false count)

/-- COMPLETION_DOORBELL: sets the count of consumed completion entries, or is ignored with event 0x9003 (R263, R336). -/
def execCompletionDoorbell (c : Fin 64) (ring : Fin 4) (count : BitVec 32) (s : State) : Host.Outcome State Fault Refusal :=
  if !s.cOpen then .next s
  else
    let k := s.ring c ring
    if s.cqInUse c ring && ((s.ctx c).state == .opened || (s.ctx c).state == .closing) && (count - k.consumed).toNat < 2 ^ 31
        && (k.cqTail - count).toNat ≤ k.cqEntries then
      .next (s.modRing c ring (fun q => { q with consumed := count }))
    else .next (s.refuseDoorbell c ring true count)

/-! ### Submission entries (R264, R266 to R268) -/

/-- A step as the hub copies it into its table. -/
def newStep (slot order : Nat) (c : Fin 64) (ring : Fin 4) (pattern index : Nat) (serial : Bool) (bs : Bytes) : Step :=
  { slot := slot, ctx := c, ring := ring, order := order, pattern := pattern, index := index, serial := serial, words := bs
    phase := .held, readyAt := none, epoch := none, slices := [], chains := [], granules := [], asked := [], batches := [], masks := []
    conds := [], miss := none, serialNo := 0, flags := {}, countA := 0, countB := 0, result := 0, tilesDone := 0, last := [], rowMark := [], recvFrom := []
    doneShares := [], toDo := 0, escalated := 0, pos := 0, target := none, resumedBy := none, page := none, pushed := [], frogList := []
    perSeq := [], seqLens := [], placed := [], parent := none, opened := [], asks := [], sees := [], resultsOut := false }

/-- Slots of steps that something under way still names. -/
def State.slotsUnderWay (s : State) : List Nat :=
  s.net.filterMap (·.body.slot?)
    ++ (s.slices.toList.flatMap (·.nOut) ++ s.hub.cOut).filterMap (fun q => q.purpose.slot?)
    ++ s.stations.toList.flatMap (fun m => m.jobs.filterMap (fun j => match j.kind with | .writeTile w => some w.slot | _ => none))

/-- The slot for a new step: one that nothing under way names, while there is one (DESIGN CHOICE, assumption 111). -/
def State.freeSlot (s : State) : Option Nat :=
  match freeId 16384 (s.hub.steps.map (·.slot) ++ s.slotsUnderWay) with
  | some k => some k
  | none => freeId 16384 (s.hub.steps.map (·.slot))

/-- Enters a step in the table; one that is malformed completes at once, METADATA_VIOLATION, cause DESCRIPTOR (R267,
R272, R395). -/
def State.enterStep (s : State) (c : Fin 64) (ring : Fin 4) (pattern index : Nat) (serial ok : Bool) (bs : Bytes) : State :=
  match s.freeSlot with
  | none => s
  | some slot =>
    let x := newStep slot s.hub.nextOrder c ring pattern index serial bs
    let s1 := (s.modHub (fun h => { h with steps := h.steps ++ [x], nextOrder := h.nextOrder + 1, opIdle := false })).settleOpReq
    if ok then s1 else s1.complete slot 0x30 0x01 none

/-- One entry of a ring (R266, R267); `bad` is an uncorrectable near-store error on it. -/
def State.readEntryAt (s : State) (c : Fin 64) (ring : Fin 4) (bs : Bytes) (bad : Bool) : State :=
  let k := s.ring c ring
  let e := k.expect
  let isHeader := !bad && wordField bs 0 56 8 == 0
  let s1 := s.modRing c ring (fun q => { q with sqHead := q.sqHead + 1 })
  if e.left == 0 then
    let s2 := s1.modRing c ring (fun q => { q with patterns := q.patterns + 1 })
    if isHeader then
      s2.modRing c ring (fun q =>
        { q with expect := { left := wordField bs 0 40 8 + 1, index := 0, seqNo := k.patterns, serial := wordBit bs 0 39 } })
    else s2.enterStep c ring k.patterns 0 false false bs
  else
    let ok := !bad && !isHeader && entryOk (s.ctx c) s.ident.engineId.toNat s.ident.links.toNat e.index bs
    let s2 := s1.modRing c ring (fun q =>
      { q with expect := { e with left := if isHeader then 0 else e.left - 1, index := e.index + 1 } })
    s2.enterStep c ring e.seqNo e.index e.serial ok bs

/-- The ring of a context whose entries the hub reads next: the rings that have some take turns (R264). -/
def State.ringInTurn (s : State) (c : Fin 64) : Option (Fin 4) :=
  ([0, 1, 2, 3].map ((s.ctx c).turn + ·)).find? (fun r =>
    (s.ring c r).enabled && (s.ring c r).burst.isNone && (s.ring c r).tail != (s.ring c r).sqHead)

/-- Entries of a context that are being read. -/
def Context.reading (x : Context) : Nat := sumNat (x.rings.toList.map (fun k => (k.burst.map (·.count)).getD 0))

/-- The step tables have room for `n` entries, besides those being read (R264). -/
def State.tableRoom (s : State) (c : Fin 64) (n : Nat) : Bool :=
  (s.stepsOf c).length + (s.ctx c).reading + n ≤ 1024
    && s.hub.steps.length + sumNat (s.ctxs.toList.map (·.reading)) + n ≤ 16384

/-- A burst of `n` entries the hub may read now (R264): the ring's turn has come, they are covered by the tail, at most 32,
within one 4 KiB block, without wrap, and with room in the step tables. A context that is not OPEN is read no entry of, a
FREE one with an enabled ring among them (DESIGN CHOICE, assumption 93). -/
def State.mayRead (s : State) (c : Fin 64) (ring : Fin 4) (n : Nat) : Bool :=
  let k := s.ring c ring
  let i := k.sqHead.toNat % 2 ^ k.liveSqLog2.toNat
  let a := k.liveSqBase.toNat + 128 * i
  s.cOpen && k.enabled && (s.ctx c).state == .opened && s.ringInTurn c == some ring && 1 ≤ n && n ≤ 32 && n ≤ (k.tail - k.sqHead).toNat
    && i + n ≤ 2 ^ k.liveSqLog2.toNat && a / 4096 == (a + 128 * n - 1) / 4096
    && s.tableRoom c n

/-- Near-store address of the next entry of a ring. -/
def RingPair.headAddr (k : RingPair) : Nat := k.liveSqBase.toNat + 128 * (k.sqHead.toNat % 2 ^ k.liveSqLog2.toNat)

/-- The hub begins the C-port read of a burst; the ring has had its turn (R264). -/
def State.beginBurst (s : State) (c : Fin 64) (ring : Fin 4) (n : Nat) : State :=
  (((s.modRing c ring (fun k => { k with burst := some { count := n, data := none } })).modCtx c (fun x =>
    { x with turn := ring + 1 })).cRequest false (s.ring c ring).headAddr (128 * n) [] (.entries c ring))

/-- The last data of a burst have come (R264, R395). -/
def State.burstCame (s : State) (c : Fin 64) (ring : Fin 4) : State :=
  let k := s.ring c ring
  s.modRing c ring (fun q => { q with burst := q.burst.map (fun b =>
    { b with data := some ((s.readNear k.headAddr (128 * b.count)).1,
                           (List.range b.count).filter (fun i => (s.readNear (k.headAddr + 128 * i) 128).2)) }) })

/-- The hub copies a burst that has come: each entry is checked and entered (R264 to R272). -/
def State.takeBurst (s : State) (c : Fin 64) (ring : Fin 4) (n : Nat) (d : Bytes × List Nat) : State :=
  ((s.modRing c ring (fun k => { k with burst := none })).each (List.range n) (fun t i =>
    t.readEntryAt c ring (cut d.1 (128 * i) 128) (d.2.contains i))).settle

/-- ENTRY_READ: a burst of submission entries: its C-port read begins, and once its data have come (C_READ_BEAT) each entry is
copied, checked and entered (R264 to R272, R394). The row's `data` and `errs` repeat what those beats brought; the hub copies the
bytes of the beats (assumption 94). -/
def execEntryRead (c : Fin 64) (ring : Fin 4) (n : Nat) (_data : Bytes) (_errs : List Nat) (s : State) : Host.Outcome State Fault Refusal :=
  match (s.ring c ring).burst with
  | none => if s.mayRead c ring n then .next (s.beginBurst c ring n) else .next s
  | some b => match b.data with
    | none => .next s
    | some d =>
      if s.cOpen && (s.ctx c).state == .opened && b.count == n then .next (s.takeBurst c ring n d)
      else .next s

/-! ### Completion (R282, R288, R134) -/

/-- The conditions a step's flags stand for when no tile was named for them (R123, R204, R248, R313). -/
def Flags.conds (f : Flags) : List Cond :=
  (if f.clipped then [{ status := 0x02, cause := 0, tile := none }] else [])
    ++ (if f.poisoned then [{ status := 0x03, cause := 0, tile := none }] else [])
    ++ (if f.frogged then [{ status := 0x04, cause := 0, tile := none }] else [])
    ++ (if f.markLost then [{ status := 0x24, cause := 0, tile := none }] else [])

/-- Every condition of a step. -/
def Step.allConds (x : Step) : List Cond := x.flags.conds.foldl (fun l c => if l.any (fun d => d.status == c.status) then l else l ++ [c]) x.conds

/-- A finished step suspends when it met a miss that no condition outranks (R288, R316). -/
def Step.suspends (x : Step) : Bool := x.miss.isSome && !outranks (bestStatus x.allConds) 0x32

/-- A step whose every share has ended and whose every change is visible (R282, R302). -/
def Step.finished (x : Step) : Bool :=
  x.running && x.doneShares.length == x.slices.length && (x.toDo == 0 || x.suspends) && x.asked.isEmpty && x.batches.all (·.2.isSome)

/-- What a GATHER writes at completion (R322): its result table and frog list, as C-port writes; a gather whose lengths sum
to 0 writes none (R321). -/
def Step.gatherResults (x : Step) : List (Nat × Bytes) :=
  if x.op == some .gather && !x.seqLens.isEmpty then
    let table := wordField x.words 9 0 34
    let cap := wordField x.words 10 48 16
    let list := wordField x.words 10 0 34
    ((List.range x.perSeq.length).zip (x.perSeq.zip x.seqLens)).map (fun q =>
      let l := q.2.2
      let pages := ceilDiv l 16
      let lastValid := if l == 0 then 0 else l - 16 * (pages - 1)
      (table + 8 * q.1, leBytes 8 (place pages 37 27 + place lastValid 32 5 + place q.2.1 0 32)))
    ++ ((List.range cap).zip x.frogList).map (fun p =>
      (list + 16 * p.1, leBytes 8 (place p.2.1 0 36) ++ leBytes 8 (place p.2.2.1 32 32 + place p.2.2.2 0 32)))
  else []

/-- The slice whose N-port serves the hub's near-store accesses of a dispatched step (R182, R511). -/
def State.hubSlice (s : State) (x : Step) : Option (Fin 132) :=
  match x.slices.foldl (fun acc l => minOpt acc (some l)) none with
  | some l => s.physOf l
  | none => s.usable.head?.bind (fun l => s.physOf l.1)

/-- Hands out what a step writes at its end: result tables over the C-port, a skip record over NACC; the step completes
once they are acknowledged (R282, R322, R327, R511). -/
def State.putResults (s : State) (x : Step) : State :=
  let gs := x.gatherResults
  let rs := match s.hubSlice x with | some n => (s.skipRecord x).map (fun r => (n, r)) | none => []
  let s1 := s.each gs (fun t r => t.cRequest true r.1 r.2.length r.2 (.hubWrite x.slot))
  let s2 := s1.each rs (fun t r => t.naccWrite .hub r.1 x.slot r.2.1 r.2.2)
  s2.modStep x.slot (fun y =>
    { y with resultsOut := true, toDo := y.toDo + (s1.hub.cOut.length - s.hub.cOut.length) + rs.length })

/-- A SCATTER or MERGE_OUT that has lost a slice of its accumulation set to a fence (R484). -/
def Step.setLost (x : Step) : Bool :=
  (x.op == some .scatter || x.op == some .mergeOut) && x.conds.any (fun c => c.status == 0x23 && c.cause == 1)

/-- The accumulation set of a step that lost a slice of it closes with the step: its banks are emptied on every slice
(Table 14-5). -/
def State.closeLost (s : State) (x : Step) : State :=
  if !x.setLost then s
  else
    let b := bankOf x.words
    let set? := (x.slices.filterMap s.physOf).findSome? (fun n => ((s.slice n).banks[b.1]).owner.filter (fun o => o.ctx == x.ctx))
    match set? with
    | none => s
    | some o => s.each (o.slices.filterMap s.physOf) (fun t n => t.modSlice n (fun y =>
        { y with banks := vmod y.banks b (fun k => match k.owner with
          | some p => if p.same o then Bank.empty else k
          | none => k) }))

/-- STEP_COMPLETION: a step whose last tile is delivered or visible completes with one ranked status; strict successors
of a failure are cancelled (R274, R282, R288, R134, R322). Result tables and a skip record are written first. A step
that a RESUME continues completes through that RESUME (R276). -/
def execStepCompletion (slot : Nat) (s : State) : Host.Outcome State Fault Refusal :=
  match s.step? slot with
  | none => .next s
  | some x =>
    if s.live && x.finished && !x.suspends && x.target.isNone then
      if !x.resultsOut && !(x.gatherResults.isEmpty && (s.skipRecord x).isEmpty) then .next (s.putResults x)
      else
        let c := bestCond x.allConds
        .next ((s.closeLost x).complete (x.resumedBy.getD slot) c.status c.cause c.tile)
    else .next s

/-- COMPLETION_RECORD_WRITE: the oldest waiting record of a ring is written when the ring has room for all of its
entries (R265, R287); a CLOSING context whose last record is written enters SCRUBBING (Table 10-2). -/
def execCompletionRecordWrite (c : Fin 64) (ring : Fin 4) (s : State) : Host.Outcome State Fault Refusal :=
  if !s.cOpen then .next s
  else match (s.ring c ring).writable with
    | none => .next s
    | some (w, ws) => .next ((s.putRecord c ring w ws).settleClosing c)

end Sys2Proof.Machine
end

