-- ==== Sys2Proof/Machine/Shares.lean ====
section
/-! DEFINITION. Shares of a step on its slices: how they are made, which tile comes next, where they end and what they
report to the hub (R230, R241, R243, R278, R316, R318, R398, R484). -/
namespace Sys2Proof.Machine

/-- What a step's shares do. -/
def Opcode.shareKind : Opcode → Option ShareKind
  | .deliver | .deliverRows | .gather => some .deliver
  | .gatherMerge => some .gatherMerge
  | .compress => some .compress
  | .cCompress => some .contour
  | .cDecompress => some .decompress
  | .move => some .move
  | .send => some .sendOut
  | .mcast => some .multicast
  | .recv => some .recv
  | .scatter => some .scatter
  | .mergeOut => some .mergeOut
  | _ => none

/-- A kind that takes A-port input. -/
def Share.takesInput (h : Share) : Bool := (h.kind == .compress || h.kind == .scatter || h.kind == .contour) && h.rounds.all (fun r => r.role == .ref)

/-- Roles that fill rounds on a slice: the sources and the contour reference (R241). -/
def isSource : Role → Bool
  | .src | .act | .ref => true
  | _ => false

/-- A round before its first grant; after a resume point its walk starts behind it (R230, R318, R484). -/
def newRound (x : Step) (j depth : Nat) (resumeFrom : Option Nat) (r : Role) : Round :=
  let start := match resumeFrom with
    | none => 0
    | some n => if r == .ref then 0 else shareTiles x.head.interleave x.slices.length j (n + 1)
  { role := r, depth := depth, walk := start, granted := 0, h := 0, done := 0, slots := [] }

/-- A share of step `x` as its j-th slice takes it (R278), started after chain index `resumeFrom` when given. -/
def newShare (s : State) (x : Step) (j : Nat) (resumeFrom : Option Nat) : Option Share :=
  match x.op with
  | none => none
  | some op => op.shareKind.map (fun kind =>
    let uses := usesOf (s.ctx x.ctx) op x.words
    let depth := if isPass x.words then (s.ctx x.ctx).streams[(streamNoOf op x.words).1].depth else roundDepth op x.words
    let df := deliverFields op x.words
    { slot := x.slot, ctx := x.ctx, tag := x.head.tag, j := j, kind := kind
      rounds := if kind == .mergeOut then [.table, .spillA, .spillB].map (newRound x j 1 none)
        else (uses.filter (fun u => isSource u.role)).map (fun u => newRound x j depth resumeFrom u.role)
      marks := []
      inPos := match resumeFrom with
        | some n => shareTiles x.head.interleave x.slices.length j (n + 1)
        | none => 0
      inDone := kind == .scatter && recordsOf x.words == 0, resumeFrom := resumeFrom, queue := [], block := none, inBlock := false, moveBlock := none, recvHeld := [], out := [], coded := [], stop := none
      last := resumeFrom, frogPages := [], link := [], linkPopped := [], linkDepth := if df.linkEn then df.linkDepth else 0
      linkOut := [], spillHeld := [], merge := none, ended := false, reported := false, paused := false })

/-- Where the walker of a round stands: at a chain index, at the share's end, or before a descriptor not yet read. -/
inductive WalkAt where
  | tile (n : Nat)
  | ended
  | wait
deriving DecidableEq, Repr

/-- Chain index of place `i` of a role in a share. -/
def placeIndex (x : Step) (h : Share) (r : Role) (i : Nat) : Nat :=
  if r == .ref then i else shareIndex x.head.interleave x.slices.length h.j i

/-- The next tile of a round (R226, R228, R278). -/
def walkAt (x : Step) (h : Share) (r : Round) : WalkAt :=
  match x.chain r.role with
  | none => .ended
  | some c =>
    let n := placeIndex x h r.role r.walk
    let stopped := r.role != .ref && (match h.stop with | some k => k ≤ n | none => false)
    if stopped then .ended
    else if n < c.tiles then .tile n
    else if c.known then .ended
    else .wait

/-- The retain index u of a round: tiles fully delivered, held back by the oldest live mark (R243). -/
def retain (h : Share) (r : Round) : Nat := h.marks.foldl (fun u m => Nat.min u m.pos) r.done

/-- The slot at a position. -/
def Round.at? (r : Round) (pos : Nat) : Option RoundSlot := r.slots.find? (fun q => q.pos == pos)

/-- A round of a role. -/
def Share.round (h : Share) (r : Role) : Option Round := h.rounds.find? (fun x => x.role == r)

/-- Changes the round of a role. -/
def Share.modRound (h : Share) (r : Role) (f : Round → Round) : Share :=
  { h with rounds := h.rounds.map (fun x => if x.role == r then f x else x) }

/-- Changes the slot at a position. -/
def Round.modSlot (r : Round) (pos : Nat) (f : RoundSlot → RoundSlot) : Round :=
  { r with slots := r.slots.map (fun q => if q.pos == pos then f q else q) }

/-- The slot of position `p` is gone and the positions behind it close up: its tile took no position (R243). -/
def Round.closeUp (r : Round) (p : Nat) : Round :=
  { r with granted := r.granted - 1
           slots := (r.slots.filter (fun q => q.pos != p)).map (fun q => if q.pos > p then { q with pos := q.pos - 1 } else q) }

/-- A fetch for a position behind the one that closed up. -/
def FetchRec.closeUp (f : FetchRec) (n : Fin 132) (slot : Nat) (r : Role) (p : Nat) : FetchRec :=
  if f.slice == n && f.slot == slot && f.role == r && f.remoteFor.isNone && f.pos > p then { f with pos := f.pos - 1 } else f

/-- The header with another argument. -/
def Txn.withArg (t : Txn) (a : Nat) : BitVec 128 := BitVec.ofNat 128 (t.hdr.toNat % 2 ^ 96 + place a 96 32)

/-- Grants and tiles under way for positions behind the one that closed up. -/
def Txn.closeUp (t : Txn) (n : Fin 132) (slot : Nat) (r : Role) (p : Nat) : Txn :=
  let down := fun (sl : Nat) (q : Role) (k : Nat) => if sl == slot && q == r && k > p then k - 1 else k
  match t.body with
  | .fetch f => { t with body := .fetch (f.closeUp n slot r p) }
  | .xlate f l => { t with body := .xlate (f.closeUp n slot r p) l, hdr := t.withArg (f.closeUp n slot r p).pos }
  | .grant sl q k => if t.src == .slice n then { t with body := .grant sl q (down sl q k), hdr := t.withArg (down sl q k) } else t
  | .stitch sl q k u => if t.dst == .slice n then { t with body := .stitch sl q (down sl q k) u, hdr := t.withArg (down sl q k) } else t
  | _ => t

/-- Takes position `p` of a round back wherever it is known: a skipped or frogged tile takes none, and its slot goes to the
next one (R243, R313). -/
def State.closeUp (s : State) (n : Fin 132) (slot : Nat) (r : Role) (p : Nat) : State :=
  let fetch := fun (f : FetchRec) => f.closeUp n slot r p
  let s1 := s.modShare n slot (fun h => h.modRound r (fun q => q.closeUp p))
  let s2 := s1.modSlice n (fun y => { y with nOut := y.nOut.map (fun q => match q.purpose with
    | .tileRead f l a => { q with purpose := .tileRead (fetch f) l a }
    | _ => q) })
  { s2 with
    net := s2.net.map (fun t => t.closeUp n slot r p)
    links := s2.links.map (fun x => { x with requests := x.requests.map (fun q => { q with fetch := fetch q.fetch }) })
    stations := s2.stations.map (fun x =>
      { x with grants := x.grants.map (fun g => if g.1 == n && g.2.1 == slot && g.2.2.1 == r && g.2.2.2 > p then (n, slot, r, g.2.2.2 - 1) else g)
               jobs := x.jobs.map (fun j => match j.kind with
                 | .readTile f l v => { j with kind := .readTile (fetch f) l v }
                 | _ => j) }) }

/-- A tile the step does not deliver takes no position: its source rounds close up, and the marks behind it move with the
positions they stand at (R243). -/
def State.dropHeads (s : State) (n : Fin 132) (h : Share) : State :=
  let p := ((h.round .src).map (·.h)).getD 0
  let s1 := s.each (h.rounds.filter (fun r => r.role != .ref)) (fun t r => t.closeUp n h.slot r.role r.h)
  s1.modShare n h.slot (fun g => { g with marks := g.marks.map (fun m => if m.pos > p then { m with pos := m.pos - 1 } else m) })

/-- Every granted tile of a round has been used and none is left to grant. -/
def roundOver (x : Step) (h : Share) (r : Round) : Bool :=
  r.role == .ref || (walkAt x h r == .ended && r.h == r.granted && r.done == r.granted)

/-- The first tile of a round that is not yet used lies at or beyond the stop, so nothing more of it will be used. -/
def roundStopped (h : Share) (r : Round) : Bool :=
  match h.stop with
  | none => false
  | some n => match r.at? r.h with
    | some q => n ≤ q.chainIdx && r.done == r.h
    | none => false

/-- The A-port side of a share is over: no more input is wanted. -/
def inputOver (x : Step) (h : Share) : Bool :=
  match h.kind with
  | .scatter => h.inDone
  | _ => if !h.takesInput then true
    else match x.chain .dst with
      | none => h.inDone
      | some c => h.inDone || (c.known && h.queue.isEmpty && shareTiles x.head.interleave x.slices.length h.j c.tiles ≤ h.inPos)

/-- Every tile a share has coded is visible, and its step-link entries have been taken (R69, R254). -/
def outputOver (h : Share) : Bool := h.queue.isEmpty && h.recvHeld.isEmpty && h.block.isNone && h.out.isEmpty && h.coded.isEmpty && h.linkOut.isEmpty && h.spillHeld.isEmpty

/-- The output round of a share has no free slot, or a step-link entry waits for a credit: its compressor stalls, and the
A-port behind it (R244, R254). -/
def Share.stalled (h : Share) : Bool := h.out.length ≥ 3 || !h.coded.isEmpty || !h.linkOut.isEmpty

/-- Nothing of the share's tiles is in the slice's datapaths (D-port, contour expander, marker queue). -/
def Slice.idleFor (sl : Slice) (slot : Nat) : Bool :=
  !(match sl.sending with | some d => d.slot == slot | none => false)
    && !(match sl.decoding with | some d => d.slot == slot | none => false)
    && !sl.frogQ.any (fun f => f.slot == slot)

/-- All of a share's tiles are delivered or written (R282); marks apart. -/
def shareOver (x : Step) (sl : Slice) (h : Share) : Bool :=
  (h.kind != .mergeOut || h.inDone) && (h.kind != .recv || h.inDone || (match x.chain .dst with
      | some c => c.known && (shareTiles x.head.interleave x.slices.length h.j c.tiles ≤ h.inPos)
      | none => true) || h.stop.isSome)
    && (h.kind == .mergeOut || h.rounds.all (fun r => roundOver x h r || roundStopped h r))
    && (inputOver x h || (h.stop.isSome && !h.takesInput)) && outputOver h && sl.idleFor h.slot

/-- Place of the next A-port input tile in chain order. -/
def nextInput (x : Step) (h : Share) : Nat := shareIndex x.head.interleave x.slices.length h.j h.inPos

/-- Every tile of the share below the miss `n` is done; what was coded at or above it is held (R316). -/
def shareHeld (x : Step) (sl : Slice) (h : Share) (n : Nat) : Bool :=
  h.rounds.all (fun r => roundOver x h r || roundStopped h r || r.slots.all (fun q => q.pos < r.h || n ≤ q.chainIdx))
    && (h.out ++ h.coded).all (fun o => n ≤ o.chainIdx) && h.queue.all (fun t => n ≤ t.chainIdx) && h.recvHeld.all (fun t => n ≤ t.1)
    && (match h.block with | some b => n ≤ b.firstIdx | none => true)
    && (h.kind == .scatter || inputOver x h || n ≤ nextInput x h) && sl.idleFor h.slot

/-- The contour reference window is free again when its step's share ends (R148). -/
def Slice.freeWindow (y : Slice) (slot : Nat) : Slice :=
  { y with window := match y.window with | some w => if w.2.1 == slot then none else some w | none => none }

/-- Ends a share when all its tiles are done: d_end is pulsed with the step's tag (R398), soft marks go, and once the
last hard mark is released the end is reported to the hub (R249, R282). A share that only a miss holds back reports
without d_end and keeps its marks (R316). On a slice that its context has left a share does not end (R340). -/
def State.settleShare (s : State) (n : Fin 132) (slot : Nat) : State :=
  match s.step? slot, (s.slice n).share slot with
  | some x, some h =>
    let held := match x.miss with | some m => shareHeld x (s.slice n) h m.tile | none => false
    if h.reported || h.paused || !s.atWork n h.ctx then s
    else if held then
      (s.modShare n slot (fun y => { y with reported := true })).report (.slice n)
        { Report.of slot h.j with last := h.last, shareDone := true }
    else if !shareOver x (s.slice n) h then s
    else
      let s1 := if h.kind.toDPort && !h.ended then s.modSlice n (fun y => { y with dEnd := some (BitVec.ofNat 16 h.tag) }) else s
      let hard := h.marks.filter (fun m => m.hard)
      let failed := h.delivers && (match h.stop with
        | some k => x.ownerOf k == h.j && x.conds.any (fun c => c.tile == some k && 0x10 ≤ c.status)
        | none => false)
      let s1 := if failed then s1.stopOthers slot h.j else s1
      if hard.isEmpty then
        ((s1.modSlice n (fun y => y.freeWindow slot)).modShare n slot (fun y =>
          { y with ended := true, marks := [], reported := true })).report (.slice n)
          { Report.of slot h.j with last := h.last, shareDone := true }
      else s1.modShare n slot (fun y => { y with ended := true, marks := hard })
  | _, _ => s

/-- A slice reports progress on a tile: the last tile, the counts and the conditions (R484). -/
def State.progress (s : State) (n : Fin 132) (slot : Nat) (f : Report → Report) : State :=
  match (s.slice n).share slot with
  | none => s
  | some h => s.report (.slice n) (f { Report.of slot h.j with last := h.last })

/-- A condition a slice meets at a tile that stops the step there, and a delivering step's other slices at their next tile
boundary (R202, R203, R228). -/
def State.stopHere (s : State) (n : Fin 132) (slot status cause tile : Nat) : State :=
  let s1 := (s.progress n slot (fun r => { r with conds := [{ status := status, cause := cause, tile := some tile }] })).stopStep slot tile
  match (s.slice n).share slot with
  | some h => s1.stopOthers slot h.j
  | none => s1

/-- The share of a slice that is bound, awake and not paused (R340, R466). -/
def State.liveShare (s : State) (n : Fin 132) (slot : Nat) : Option (Step × Share) :=
  let sl := s.slice n
  if !s.live || !sl.awake then none
  else match s.step? slot, sl.share slot with
    | some x, some h => if h.paused || h.reported || !s.atWork n h.ctx then none else some (x, h)
    | _, _ => none

end Sys2Proof.Machine
end

