-- ==== Sys2Proof/Machine/Ready.lean ====
section
/-! DEFINITION. Readiness and dispatch: edges, fences, the checks of Table 08-6 in their order, the choice of slices, and
what the dispatch of a step with shares does (R148, R181, R209, R211, R217, R221, R242, R273 to R281, R309). -/
namespace Sys2Proof.Machine

/-! ### Order of steps (R273 to R276) -/

/-- Every predecessor of the step has completed (R274). -/
def State.edgesDone (s : State) (x : Step) : Bool :=
  x.head.edges.all (fun e => !(s.stepsOf x.ctx).any (fun y =>
    y.ring == x.ring && y.pattern == x.pattern && y.index == e.1 && y.open))

/-- The fences of R275: the step's own, and those submitted before it. A RESUME is never held by one (R276). Across the
rings of a context, 'submitted before' is the order in which the hub read the entries (DESIGN CHOICE: assumption 96). -/
def State.fencesClear (s : State) (x : Step) : Bool :=
  let before := (s.stepsOf x.ctx).filter (fun y => y.order < x.order && y.open)
  x.op == some .resume ||
    ((!x.head.fence || !before.any (fun y => x.head.fenceScope || y.ring == x.ring))
      && !before.any (fun y => y.head.fence && (y.head.fenceScope || y.ring == x.ring)))

/-- A serial pattern waits for the previous pattern of its ring (Table 08-2, R273). -/
def State.serialClear (s : State) (x : Step) : Bool :=
  !x.serial || !(s.stepsOf x.ctx).any (fun y => y.ring == x.ring && y.pattern + 1 == x.pattern && y.open)

/-- No record of the ring waits for room (R265). -/
def State.ringClear (s : State) (x : Step) : Bool :=
  let r := s.ring x.ctx x.ring
  r.waiting.isEmpty || r.writable.isSome

/-- The step is held, and the first three conditions of R273 hold; the hub takes steps (R384). -/
def State.eligible (s : State) (x : Step) : Bool :=
  s.cOpen && x.phase == .held
    && ((s.ctx x.ctx).state == .opened || (s.ctx x.ctx).state == .closing)
    && s.edgesDone x && s.fencesClear x && s.serialClear x

/-- The hub dispatches a ready step: it is not draining, and no record of the step's ring waits (R265, Table 12-9). -/
def State.dispatches (s : State) (x : Step) : Bool := s.hub.quiesce == .running && s.ringClear x

/-! ### Chains and masks of a step -/

/-- The persistent stream of a pass, CAST_ON, RECAST or TEARDOWN. -/
def State.stream (s : State) (x : Step) : PStream :=
  (s.ctx x.ctx).streams[(streamNoOf (x.op.getD .nop) x.words).1]

/-- Changes the persistent stream of a step. -/
def State.modStream (s : State) (x : Step) (f : PStream → PStream) : State :=
  s.modCtx x.ctx (fun c => { c with streams := vmod c.streams (streamNoOf (x.op.getD .nop) x.words) f })

/-- The chain a pass walks: the held copy when it lies in two batches, else the chain read again (R232). -/
def PStream.passChain (p : PStream) : Chain :=
  if p.chain.heldWhole then p.chain
  else Chain.start p.chain.head p.chain.offset

/-- A RECAST's form: RECHAIN (Table 08-5). -/
def isRechain (x : Step) : Bool := x.op == some .recast && wordBit x.words 4 4

/-- A RECAST's offset in tiles (R237). -/
def recastOffset (x : Step) : Int := signed (wordField x.words 5 0 40) 40

/-- The mask word of a RECAST that replaces the stream's mask: none when the mask stays (Table 08-5). -/
def recastMask (x : Step) : Option (Option Nat) :=
  if wordBit x.words 7 62 then some (maskWord x.words 7) else none

/-- Roles whose chains a step walks. -/
def State.roles (s : State) (x : Step) : List Role :=
  if isRechain x then [.src] else (usesOf (s.ctx x.ctx) (x.op.getD .nop) x.words).map (·.role)

/-- The role whose chain a pass takes from its persistent stream (R270). -/
def passRole (x : Step) (r : Role) : Bool := isPass x.words && r != .ref

/-- The chain a pass takes, before its dispatch: what it has read of the stream's chain as it stands, from its start once
a re-cast has changed it; none while the stream is not cast on (R232, R239). -/
def State.passTakes (s : State) (x : Step) (r : Role) : Option Chain :=
  let p := s.stream x
  if p.state == .free then none
  else match x.chain r with
    | some c => some (if c.head == p.chain.head && c.offset == p.chain.offset then c else p.passChain)
    | none => some p.passChain

/-- A chain of a step as far as it has been read. -/
def State.chainOf (s : State) (x : Step) (r : Role) : Option Chain :=
  if passRole x r && x.phase == .held then s.passTakes x r
  else match x.chain r with
  | some c => some c
  | none =>
    if x.op == some .gather then none
    else if isRechain x then (if r == .src then some (Chain.start (wordField x.words 6 0 34) (recastOffset x)) else none)
    else (s.use x r).map (fun u => Chain.start u.word.chain 0)

/-- The whole chain must be known before readiness can be judged: counts of tiles enter a check, or the chain's shape is
fixed at once (R162, R217, R221, R231, R237, R271). -/
def needsWholeChain (x : Step) (r : Role) : Bool :=
  match x.op with
  | some .castOn | some .recast | some .move | some .scatter | some .mergeOut | some .cDecompress | some .gatherMerge
  | some .deliverRows => r != .ref
  | some .deliver => r == .src && outLimit x.words != 0
  | some .cCompress => r != .ref && !wordBit x.words 6 12
  | _ => false

/-- Some descriptor the step's check or first tile needs has not been read. -/
def State.chainsWait (s : State) (x : Step) : Bool :=
  (s.roles x).any (fun r => match s.chainOf x r with
    | none => false
    | some c => !(c.known || (!needsWholeChain x r && !c.extents.isEmpty)))

/-- An error in the chain's first descriptor (R228, R272). -/
def State.chainsBad (s : State) (x : Step) : Bool :=
  (s.roles x).any (fun r => match s.chainOf x r with
    | none => false
    | some c => c.failed && c.extents.isEmpty)

/-- A chain of a step has an error behind its first extent: how many tiles it has is not known, and the step stops at the
faulty extent's first tile instead of failing a check of its tile count (R228). -/
def State.chainFailed (s : State) (x : Step) (r : Role) : Bool := (s.chainOf x r).any (·.failed)

/-- Mask descriptor addresses of a step (R181). -/
def State.maskAddrs (s : State) (x : Step) : List Nat :=
  (usesOf (s.ctx x.ctx) (x.op.getD .nop) x.words).filterMap (·.mask) ++ ((if x.op == some .recast then recastMask x else none).getD none).toList

/-- The mask of a role, once its descriptor has been read and is good. -/
def State.maskOf (s : State) (x : Step) (r : Role) : Option Mask :=
  match (s.use x r).bind (·.mask) with
  | none => none
  | some a => match x.granule a with
    | some (bs, false) => parseMask bs
    | _ => none

/-- A mask descriptor is bad (R181, R393). -/
def State.masksBad (s : State) (x : Step) : Bool :=
  (s.maskAddrs x).any (fun a => match x.granule a with
    | some (bs, bad) => bad || (parseMask bs).isNone
    | none => false)

/-! ### Masks (R179, R180, R182) -/

/-- What the granules a step has read say of a tile: the first granule still to be read, an uncorrectable one, or the
tile's page word. -/
inductive MaskView where
  | ask (addr : Nat)
  | bad
  | word (w : Nat)
deriving DecidableEq, Repr

/-- The map of a mask from the granules read so far: lower maps are read only under a set bit (R179). -/
def Step.maskView (x : Step) (m : Mask) (t : Nat) : MaskView :=
  let n := t - 16 * m.origin
  let rd := fun (a : Nat) => match x.granule (a / 64 * 64) with | some g => byteAt g.1 (a % 64) | none => 0
  let bit := fun (base i : Nat) => bitAt (rd (base + i / 8)) (i % 8)
  let look := fun (a : Nat) (k : MaskView) => match x.granule a with
    | none => MaskView.ask a
    | some (_, true) => .bad
    | some (_, false) => k
  let gs := m.granules t
  look (gs.getD 0 0) (if !bit m.sheet (n / 4096) then .word 0
    else look (gs.getD 1 0) (if !bit m.quad (n / 64) then .word 0
      else look (gs.getD 2 0) (.word (m.pageWord rd t))))

/-- What a step knows of a tile under the mask of one of its roles: no mask, a granule still to be read, an uncorrectable
one, or the tile's bit with its page's word. -/
inductive MaskBit where
  | free
  | ask (addr : Nat)
  | bad
  | bit (b : Bool) (word : Nat)
deriving DecidableEq, Repr

/-- The bit of tile `t` under the mask of role `r`, from the granules the step has read, each once (R179, R182). -/
def Step.maskBit (x : Step) (r : Role) (t : Nat) : MaskBit :=
  match (x.masks.find? (fun p => p.1 == r)).map (·.2) with
  | none => .free
  | some m => match x.maskView m t with
    | .ask a => .ask a
    | .bad => .bad
    | .word w => .bit (bitAt w (t % 16)) w

/-- The mask marks the tile absent. -/
def MaskBit.absent (b : MaskBit) : Bool := match b with | .bit b _ => !b | _ => false

/-- The granule that has to be read before the bit is known. -/
def MaskBit.asks (b : MaskBit) : Option Nat := match b with | .ask a => some a | _ => none

/-- The page's word, where there is a mask. -/
def MaskBit.word? (b : MaskBit) : Option Nat := match b with | .bit _ w => some w | _ => none

/-- Every tile of an extent lies inside the mask (R181). -/
def Mask.coversExtent (m : Mask) (offset : Int) (e : Extent) : Bool :=
  let c := corners e.dims
  let b := Int.ofNat e.baseTile + offset
  Int.ofNat (16 * m.origin) ≤ b + c.1 && b + c.2 < Int.ofNat (16 * (m.origin + m.pages))

/-- A chain cut at its first extent that leaves the mask, a descriptor error there (R181, R228). -/
def Chain.within (c : Chain) (m : Mask) : Chain :=
  let good := c.extents.takeWhile (m.coversExtent c.offset)
  if good.length == c.extents.length then c else { c with extents := good, failed := true }

/-- The chain of a role under its mask. -/
def State.maskedChain (s : State) (x : Step) (r : Role) : Option Chain :=
  (s.chainOf x r).map (fun c => match s.maskOf x r with | some m => c.within m | none => c)

/-! ### Slices (R242, R278, R279, R340) -/

/-- The output round of a compress step (R244): 3 slots of its destination. -/
def outRoundBytes (f : StreamFmt) : Nat := 3 * f.slotBytes

/-- Bytes of rounds that a step allocates on each of its slices: source rounds and a compress step's output round (R241,
R244). A pass takes the rounds of its stream. -/
def State.roundBytes (s : State) (x : Step) : Nat :=
  match x.op with
  | none => 0
  | some op =>
    if isPass x.words then 0
    else sumNat ((usesOf (s.ctx x.ctx) op x.words).map (fun u =>
      if op == .castOn && wordBit x.words 6 0 || (op == .compress || op == .cCompress) && u.role == .dst then outRoundBytes u.fmt
      else if isSource u.role then roundDepth op x.words * u.fmt.slotBytes
      else 0))

/-- Bytes of the rounds an armed stream holds (Table 07-2). -/
def PStream.roundBytes (p : PStream) : Nat :=
  if p.state == .free then 0
  else ((p.word.fmt).map (fun f => if p.compress then outRoundBytes f else p.depth * f.slotBytes)).getD 0

/-- Round bytes in use on logical slice `l` (R242). -/
def State.roundsOn (s : State) (l : Nat) : Nat :=
  sumNat ((s.hub.steps.filter (fun y => (y.running || y.phase == .suspended) && y.op != some .castOn && y.slices.contains l)).map s.roundBytes)
    + sumNat (s.ctxs.toList.flatMap (fun c => (c.streams.toList.filter (fun p => p.slices.contains l)).map PStream.roundBytes))

/-- Step entries in use on a slice (R279). -/
def State.entriesOn (s : State) (n : Fin 132) : Nat :=
  (s.slice n).shares.length
    + (s.net.filter (fun t => t.dst == .slice n && (match t.body with | .ctl (.dispatch _) => true | _ => false))).length

/-- The shared region holds nothing of another context with another partition (R340). -/
def State.regionOk (s : State) (n : Fin 132) (c : Fin 64) : Bool :=
  let other := fun (d : Fin 64) => d != c && (s.ctx d).partition != (s.ctx c).partition
  (match (s.slice n).window with | some w => !other w.1 | none => true)
    && (s.slice n).banks.toList.all (fun b => match b.owner with | some o => !other o.ctx | none => true)

/-- Banks the context's partition provides (R209). -/
def Context.banks (x : Context) : Nat := x.partition.toNat

/-- A step of an accumulation set. -/
def Step.accumulates (x : Step) : Bool := x.op == some .scatter || x.op == some .mergeOut

/-- The bank a step names on a slice. -/
def State.bank (s : State) (n : Fin 132) (x : Step) : Bank := (s.slice n).banks[(bankOf x.words).1]

/-- Row 14: the bank holds an open set of another context. -/
def State.bankForeign (s : State) (n : Fin 132) (x : Step) : Bool :=
  x.accumulates && (match (s.bank n x).owner with | some o => o.ctx != x.ctx | none => false)

/-- Logical slice `l` has a free step entry, round space and, for the step, its shared region (row 19, R340). -/
def State.hasRoom (s : State) (x : Step) (l : Nat) : Bool :=
  match s.physOf l with
  | none => false
  | some n => s.entriesOn n < 32 && s.roundsOn l + s.roundBytes x ≤ 3 * 2 ^ 20 && s.regionOk n x.ctx && !s.bankForeign n x

/-- The slice is bound to the step's context, or to none with no tile of another still leaving it (R280). -/
def State.mayBind (s : State) (x : Step) (l : Nat) : Bool :=
  match s.physOf l with
  | none => false
  | some n => (s.slice n).bound == some x.ctx || ((s.slice n).bound.isNone && (s.slice n).sending.isNone)

/-- Slices a FIXED step or a pass names (R278, Table 07-2). -/
def State.namedSlices (s : State) (x : Step) : Option (List Nat) :=
  if isPass x.words && (x.op == some .deliver || x.op == some .compress) then some (s.stream x).slices
  else if x.head.policy == 0 then some ((List.range x.head.sliceCount).map (fun i => x.head.sliceBase + i))
  else none

/-- Usable slices an ANY step may take: GATHER_MERGE only the privileged S000 to S007 (R197). -/
def State.anyUsable (s : State) (x : Step) : List Nat :=
  (s.usable.map (·.1)).filter (fun l => x.op != some .gatherMerge || l < 8)

/-- Slices of a step as it could be dispatched now: named, or preferred by binding, lowest first (R278, R280). The order j of
an ANY step's slices is the order in which they are taken (DESIGN CHOICE, assumption 91). -/
def State.pickSlices (s : State) (x : Step) : Option (List Nat) :=
  match s.namedSlices x with
  | some ls => if ls.all (fun l => s.hasRoom x l && s.mayBind x l) then some ls else none
  | none =>
    let pool := (s.anyUsable x).filter (fun l => s.hasRoom x l && s.mayBind x l)
    let bound := fun (l : Nat) => match s.physOf l with | some n => (s.slice n).bound == some x.ctx | none => false
    let ls := (pool.filter bound ++ pool.filter (fun l => !bound l)).take x.head.sliceCount
    if ls.length == x.head.sliceCount then some ls else none

/-- Slices the checks look at: the named ones, else those an ANY step would take. -/
def State.checkSlices (s : State) (x : Step) : List Nat := ((s.namedSlices x).or (s.pickSlices x)).getD []

/-- Physical slices of a list of logical ones. -/
def State.phys (s : State) (ls : List Nat) : List (Fin 132) := ls.filterMap s.physOf

/-! ### Table 08-6 -/

/-- What the checks decide. -/
inductive Verdict86 where
  | hold
  | refuse (status cause : Nat)
  | go
deriving DecidableEq, Repr

/-- First decision of a list of rows; a row that does not fail answers none. -/
def firstRow : List (Option Verdict86) → Verdict86
  | [] => .go
  | some v :: _ => v
  | none :: rs => firstRow rs

/-- A row of the table: the outcome when its condition holds. -/
def row (c : Bool) (v : Verdict86) : Option Verdict86 := if c then some v else none

/-- The suspended step a RESUME's token names (R276, Table 09-10). -/
def State.tokenStep (s : State) (x : Step) : Option Step :=
  let w := wordField x.words 4 0 64
  (s.stepsOf x.ctx).find? (fun y => y.phase == .suspended && y.resumedBy.isNone && field w 58 6 == x.ctx.1
    && field w 44 14 == y.slot && field w 0 32 == y.serialNo)

/-- The open set that a step finds on its slices (R211). -/
def State.openSet (s : State) (x : Step) : Option AccSet := ((s.phys (s.checkSlices x)).filterMap (fun n => (s.bank n x).owner)).head?

/-- Fill count of a spill stream of the set a step belongs to, 0 before it opens (R216). -/
def State.fillOf (s : State) (x : Step) (b : Bool) : Nat := ((s.openSet x).map (fun o => if b then o.fillB else o.fillA)).getD 0

/-- The role whose stream is now spill_a, or spill_b (R216). -/
def AccSet.spillRole (o : AccSet) (second : Bool) : Role := if o.swapped != second then .spillB else .spillA

/-- The stream that is spill_a, or spill_b, for a step now. -/
def State.spillOf (s : State) (x : Step) (b : Bool) : Role :=
  match s.openSet x with
  | some o => o.spillRole b
  | none => if b then .spillB else .spillA

/-- Tiles of a chain of a step. -/
def State.chainTiles (s : State) (x : Step) (r : Role) : Nat := ((s.chainOf x r).map (·.tiles)).getD 0

/-- Row 13: an open set of this context with other fields (R211). -/
def State.bankDiffers (s : State) (x : Step) : Bool :=
  match accFields x.ctx (usesOf (s.ctx x.ctx) (x.op.getD .nop) x.words) x.words with
  | none => false
  | some f => (s.phys (s.checkSlices x)).any (fun n => match (s.bank n x).owner with
    | some o => o.ctx == x.ctx && !o.same f
    | none => false)

/-- Row 17: bank and spill stream are empty (R219); not judged while an ANY step finds no slices to take. -/
def State.nothingHeld (s : State) (x : Step) : Bool :=
  !(s.checkSlices x).isEmpty && (s.phys (s.checkSlices x)).all (fun n => (s.bank n x).sets.all (fun e => e.2.isEmpty)) && s.fillOf x false == 0

/-- Two chains certainly differ in their tile counts (R228, R271). -/
def State.tilesDiffer (s : State) (x : Step) (a b : Role) : Bool :=
  match s.chainFailed x a, s.chainFailed x b with
  | true, true => false
  | true, false => s.chainTiles x b < s.chainTiles x a
  | false, true => s.chainTiles x a < s.chainTiles x b
  | false, false => s.chainTiles x a != s.chainTiles x b

/-- Row 18: 4,096 B times the source tiles exceeds L: the declared limit, and of a C_DECOMPRESS the destination chain
(R161, R162). -/
def State.limitExceeded (s : State) (x : Step) : Bool :=
  let n := s.chainTiles x .src
  let contour := match s.use x .src with | some u => u.fmt.base == .contour | none => false
  let declared := outLimit x.words != 0 && n > outLimit x.words
  match x.op with
  | some .deliver | some .deliverRows => contour && declared
  | some .cDecompress => declared || (n > s.chainTiles x .dst && !s.chainFailed x .dst)
  | _ => false

/-- The C-port reads of a step's operand tables before its checks: an MCAST's receiver table (Table 11-15; the path is a
DESIGN CHOICE, assumption 92). -/
def Step.tables (x : Step) : List (Nat × Nat) :=
  if x.op == some .mcast then hubReads (wordField x.words 6 0 34) (8 * wordField x.words 7 0 7) else []

/-- A link station the step names runs its L-port at version 2 (R385, R418). -/
def State.linkOld (s : State) (x : Step) : Bool :=
  let old := fun (l : Nat) => match finOf 16 l with | some i => (s.link i).lVer == .agreed 2 | none => false
  match x.op with
  | some .send => old (wordField x.words 6 0 4)
  | some .mcast => (List.range (wordField x.words 7 0 7)).any (fun i =>
      old (wordField (s.near.read (wordField x.words 6 0 34 + 8 * i) 8) 0 36 4))
  | _ => false

/-- Slices on which the partition gives contour no space (row 11, R148). -/
def State.noContour (s : State) (x : Step) : Bool := (s.use x .ref).isSome && (s.ctx x.ctx).partition == 2

/-- A contour compress step's destination chain does not start at tile 0 of a page (R139), or a REFUSE step is more than
one block: its tiles are not one run of a page, lie on two slices, or a bind-off of its source falls before the last (R159). -/
def State.contourChainBad (s : State) (x : Step) : Bool :=
  match s.chainOf x .dst with
  | none => false
  | some k =>
    let first := (k.tileAt 0).getD 0
    let refuse := !wordBit x.words 6 12
    first % 16 != 0
      || (refuse && (k.tiles > s.hub.dict.blockTiles.toNat
          || !(List.range k.tiles).all (fun i => (k.tileAt i).getD 0 == first + i && i < 16)
          || (x.head.sliceCount > 1 && 2 ^ x.head.interleave < k.tiles)
          || (match s.chainOf x .src with
              | some c => (List.range (k.tiles - 1)).any (fun i => c.bindOffAt i)
              | none => false)))

/-- A chain reaches a tile outside a mask whose descriptor a step has read (R181). -/
def Step.leavesMask (x : Step) (a : Nat) (c : Chain) : Bool :=
  match (x.granule a).bind (fun g => parseMask g.1) with
  | some m => (c.within m).failed
  | none => false

/-- A re-cast that moves an extent out of range, or whose new chain has another shape, or whose stream's tiles a mask it
brings does not cover (R181, R227, R237). -/
def State.recastBad (s : State) (x : Step) : Bool :=
  let p := s.stream x
  match s.chainOf x .src, p.chain.rebased (recastOffset x) with
  | some k, _ => k.failed || !k.sameShape p.chain || (s.maskAddrs x).any (fun a => x.leavesMask a k)
  | none, some k => (s.maskAddrs x).any (fun a => x.leavesMask a k)
  | none, none => true

/-- The rows of Table 08-6 before row 19, with the hold of R366 on a LOADING weight slot and the descriptor errors found
at readiness, in order. -/
def State.rows (s : State) (x : Step) : List (Option Verdict86) :=
  let c := s.ctx x.ctx
  let op := x.op.getD .nop
  let p := s.stream x
  let pass := isPass x.words && (op == .deliver || op == .compress)
  let fenced := match s.namedSlices x with | some ls => ls.any (fun l => (s.physOf l).isNone) | none => false
  [ row (c.keyed && (c.cur.state != .loaded || !s.pins.hLocked)) .hold,
    row (!op.noSlice && fenced) (.refuse 0x23 0x01),
    row (!op.noSlice && (s.namedSlices x).isNone && (s.anyUsable x).length < x.head.sliceCount) (.refuse 0x23 0x01),
    row (x.head.weightKey && op.writesOut) (.refuse 0x33 0),
    row (x.head.weightKey && (match finOf 16 x.head.weightSlot with
      | some w => (s.hub.weights[w.1]).state == .loading
      | none => false)) .hold,
    row (pass && (p.state == .free || p.compress != (op == .compress))) (.refuse 0x20 0),
    row (pass && p.state == .pass && !p.passSlots.contains x.slot) .hold,
    row (op == .castOn && p.state != .free) (.refuse 0x20 0),
    row (op == .recast && (p.state == .free || p.state == .pass)) (.refuse 0x20 0),
    row (op == .teardown && p.state != .armed) (.refuse 0x20 0),
    row (op == .resume && (s.tokenStep x).isNone) (.refuse 0x20 0),
    row (s.noContour x) (.refuse 0x21 0),
    row (x.accumulates && c.banks ≤ (bankOf x.words).1) (.refuse 0x21 0),
    row (s.bankDiffers x) (.refuse 0x20 0),
    row ((s.phys (s.checkSlices x)).any (fun n => s.bankForeign n x)) .hold,
    row (pass && !formatsOk op x.words (fun r => (useOf c op x.words r).map (·.fmt))) (.refuse 0x30 0x01),
    row (x.tables.any (fun r => !x.hasRead r)) .hold,
    row (s.linkOld x) (.refuse 0x20 0),
    row (s.chainsBad x || s.masksBad x) (.refuse 0x30 0x01),
    row (s.chainsWait x || (s.maskAddrs x).any (fun a => (x.granule a).isNone)) .hold,
    row ((usesOf c op x.words).any (fun u => match s.maskedChain x u.role with
      | some k => k.failed && k.extents.isEmpty | none => false)) (.refuse 0x30 0x01),
    row (op == .move && s.tilesDiffer x .src .dst) (.refuse 0x30 0x01),
    row (op == .cCompress && s.contourChainBad x) (.refuse 0x30 0x01),
    row (op == .recast && s.recastBad x) (.refuse 0x30 0x01),
    row (op == .castOn && (match s.maskedChain x .src with | some k => k.failed | none => false)) (.refuse 0x30 0x01),
    row (op == .gatherMerge && s.tilesDiffer x .src .act) (.refuse 0x30 0x01),
    row (op == .deliverRows && (match s.chainOf x .src with | some k => k.extents.length != 1 | none => false)) (.refuse 0x30 0x01),
    row (op == .scatter && !s.chainFailed x (s.spillOf x false) && (s.chainTiles x (s.spillOf x false) - s.fillOf x false) * 30 < recordsOf x.words) (.refuse 0x11 0),
    row (op == .mergeOut && !s.chainFailed x (s.spillOf x true) && s.chainTiles x (s.spillOf x true) - s.fillOf x true < s.fillOf x false) (.refuse 0x11 0),
    row (op == .mergeOut && s.nothingHeld x) (.refuse 0x01 0),
    row (s.limitExceeded x) (.refuse 0x11 0) ]

/-- Row 19: enough slices have a free step entry and round space, whatever context they are bound to. -/
def State.roomFor (s : State) (x : Step) : Bool :=
  (x.op.getD .nop).noSlice || (match s.namedSlices x with
    | some ls => ls.all (s.hasRoom x)
    | none => x.head.sliceCount ≤ ((s.anyUsable x).filter (s.hasRoom x)).length)

/-- The checks of Table 08-6 (R273). -/
def State.verdict (s : State) (x : Step) : Verdict86 :=
  firstRow (s.rows x ++ [row (!s.roomFor x) .hold])

/-- What two steps of a context can name in common: a persistent stream, an accumulator bank, gazetteer entries, a key slot
(R277). -/
inductive Named where
  | stream (n : Fin 16)
  | bank (b : Fin 2)
  | gazetteer
  | weightSlot (n : Nat)
deriving DecidableEq, Repr

/-- What a step names (R277). -/
def Step.named (x : Step) : List Named :=
  let op := x.op.getD .nop
  (if isPass x.words || op == .castOn || op == .recast || op == .teardown then [.stream (streamNoOf op x.words)] else [])
    ++ (if x.accumulates then [.bank (bankOf x.words)] else [])
    ++ (if op == .gazClear || (summaryFields op x.words).isSome then [.gazetteer] else [])
    ++ (if x.head.weightKey then [.weightSlot x.head.weightSlot] else [])

/-- What a step's dispatch leaves of what it names decides another's check: the state of a persistent stream, or an accumulation
set that it opens (R277). -/
def State.decides (s : State) (y : Step) : Bool :=
  match y.op with
  | some .castOn | some .recast | some .teardown => true
  | some .scatter => (s.openSet y).isNone
  | _ => false

/-- A step submitted earlier that names the same thing is to be checked first, and the later one sees the state it leaves: it is
no longer held either, and the hub has not yet found it ready, or it has still to take effect (R277). -/
def State.behind (s : State) (x : Step) : Bool :=
  (s.stepsOf x.ctx).any (fun y => y.order < x.order
    && ((x.readyAt.isNone && (y.readyAt.isNone || (y.op.getD .nop).noSlice)) || s.decides y)
    && y.named.any (fun k => x.named.contains k) && s.eligible y && s.verdict y != .hold)

/-- A ready step: the conditions of R273. -/
def State.isReady (s : State) (x : Step) : Bool := s.eligible x && s.verdict x == .go

/-- A step becomes ready: its cycle is kept, and a pass takes its stream into PASS (R238, R280, Table 07-3). -/
def State.makeReady (s : State) (x : Step) : State :=
  let s1 := s.modStep x.slot (fun y => { y with readyAt := some (y.readyAt.getD s.now) })
  if isPass x.words && (x.op == some .deliver || x.op == some .compress) && !(s.stream x).passSlots.contains x.slot then
    s1.modStream x (fun p => { p with state := .pass, passSlots := p.passSlots ++ [x.slot] })
  else s1

/-- The steps that have become ready in this cycle, in submission order (R273, R277, R280). -/
def State.findReady (s : State) : State :=
  s.each (s.hub.steps.filter (fun x => x.phase == .held && x.readyAt.isNone)) (fun t x => match t.step? x.slot with
    | some y => if t.isReady y && !t.behind y then t.makeReady y else t
    | none => t)

/-- Order of ready steps of a context (R280): priority, readiness, ring, submission. -/
def comesFirst (now : Nat) (y x : Step) : Bool :=
  let ky := (3 - y.head.priority, y.readyAt.getD now, y.ring.1, y.order)
  let kx := (3 - x.head.priority, x.readyAt.getD now, x.ring.1, x.order)
  ky.1 < kx.1 || (ky.1 == kx.1 && (ky.2.1 < kx.2.1 || (ky.2.1 == kx.2.1 && (ky.2.2.1 < kx.2.2.1
    || (ky.2.2.1 == kx.2.2.1 && ky.2.2.2 < kx.2.2.2)))))

/-- Another ready step of the context that could be dispatched now to one of these slices comes first (R280). -/
def State.outranked (s : State) (x : Step) (ls : List Nat) : Bool :=
  (s.stepsOf x.ctx).any (fun y => y.slot != x.slot && comesFirst s.now y x && s.isReady y && s.dispatches y
    && (match s.pickSlices y with | some ks => !(y.op.getD .nop).noSlice && ks.any (fun l => ls.contains l) | none => false))

/-! ### The hub's reads (R181, R182, R511) -/

/-- The slice whose N-port serves the hub's mask reads of a step: its lowest-numbered destination slice; for a step that
binds none, the stream's lowest for RECAST, else the lowest usable logical slice (R182, R511). -/
def State.readSlice (s : State) (x : Step) : Option (Fin 132) :=
  let ls := if !x.slices.isEmpty then x.slices else if x.op == some .recast then (s.stream x).slices else s.checkSlices x
  match ls.foldl (fun acc l => minOpt acc (some l)) none with
  | some l => s.physOf l
  | none => s.usable.head?.bind (fun l => s.physOf l.1)

/-- Asks for a 64-byte granule over NACC, once per step (R182, R392). -/
def State.ask (s : State) (slot a : Nat) : State :=
  match s.step? slot with
  | none => s
  | some x =>
    if x.asked.contains a || (x.granule a).isSome then s
    else match s.readSlice x with
      | none => s
      | some n => (s.post .hub (.slice n) (.nacc slot false a 64 [])).modStep slot (fun y => { y with asked := a :: y.asked })

/-- Asks for a granule, unless it is under way. -/
def State.askNew (s : State) (x : Step) (a : Nat) : Option State := if x.asked.contains a then none else some (s.ask x.slot a)

/-- Asks for the mask descriptors a step waits for. -/
def State.askMasks (s : State) (x : Step) : State :=
  s.each ((s.maskAddrs x).filter (fun a => (x.granule a).isNone)) (fun t a => t.ask x.slot a)

/-! ### Dispatch -/

/-- The step's chains as it takes them. -/
def State.takeChains (s : State) (x : Step) : List (Role × Chain) :=
  (usesOf (s.ctx x.ctx) (x.op.getD .nop) x.words).filterMap (fun u => (s.maskedChain x u.role).map (fun c => (u.role, c)))
    ++ x.chains.filter (fun p => x.op == some .gather && p.1 == .src)

/-- Masks of a step with their roles (R181). -/
def State.takeMasks (s : State) (x : Step) : List (Role × Mask) :=
  (usesOf (s.ctx x.ctx) (x.op.getD .nop) x.words).filterMap (fun u => (s.maskOf x u.role).map (fun m => (u.role, m)))

/-- Marks a step dispatched with its slices, chains, masks and read epoch (R278, R309). -/
def State.markDispatched (s : State) (x : Step) (ls : List Nat) : State :=
  s.modStep x.slot (fun y =>
    { y with phase := .dispatched, readyAt := some (y.readyAt.getD s.now), epoch := some s.hub.readEpoch.toNat, slices := ls
             chains := s.takeChains x, masks := s.takeMasks x })

/-- Binds slices to a context (R280); a slice that comes back to a context reads its state from the hub (R338). -/
def State.bindSlices (s : State) (c : Fin 64) (ls : List Nat) : State :=
  s.each (s.phys ls) (fun t n =>
    let back : Bool := t.left n c && (t.slice n).bound != some c
    let u := if back then t.post .hub (.slice n) (.ctl (.contextState c)) else t
    u.modSlice n (fun y => { y with bound := some c, moveDue := none }))

/-- Opens the accumulation set of a SCATTER in the banks of its slices that hold none; they join a set that is open on others of
them, with its fill counts (R211, R216). A MERGE_OUT opens no set: those of its slices that hold no bank of an open one join it
for its rounds (DEDUCED, assumption 67). -/
def State.openSets (s : State) (x : Step) (ls : List Nat) : State :=
  if !x.accumulates then s
  else match accFields x.ctx (usesOf (s.ctx x.ctx) (x.op.getD .nop) x.words) x.words with
    | none => s
    | some f =>
      let old := s.openSet x
      let full : AccSet :=
        { f with tableChain := (x.chain .table).getD f.tableChain, spillA := (x.chain .spillA).getD f.spillA
                 spillB := (x.chain .spillB).getD f.spillB
                 fillA := s.fillOf x false, fillB := s.fillOf x true, swapped := (old.map (·.swapped)).getD false
                 slices := (((old.map (·.slices)).getD []) ++ ls).eraseDups }
      let bank := fun (t : State) (n : Fin 132) (g : Bank → Bank) => t.modSlice n (fun y => { y with banks := vmod y.banks (bankOf x.words) g })
      let s1 := s.each (s.phys full.slices) (fun t n => bank t n (fun b => match b.owner with
        | some o => if o.same full then { b with owner := some { o with slices := full.slices } } else b
        | none => b))
      if x.op == some .mergeOut && old.isNone then s
      else s1.each (s.phys ls) (fun t n => bank t n (fun b => if b.owner.isNone then { b with owner := some full } else b))

/-- Gives each slice of a step its share over CTL (R338, Table 11-10). -/
def State.sendShares (s : State) (x : Step) (ls : List Nat) : State :=
  s.each ((List.range ls.length).zip ls) (fun t p => match newShare t x p.1 none, t.physOf p.2 with
    | some h, some n => t.post .hub (.slice n) (.ctl (.dispatch h))
    | _, _ => t)

/-- Dispatches a step to slices: binding, shares, pass state, accumulation set; a descriptor error already known behind
the chain's first extents stops it there, a scatter or merge-out only when it comes to the tile (R228, R238, R278 to R280). -/
def State.dispatch (s : State) (x : Step) (ls : List Nat) : State :=
  let s1 := (s.markDispatched x ls).bindSlices x.ctx ls
  match s1.step? x.slot with
  | none => s
  | some y =>
    let s2 := s1.openSets y ls
    let s4 := s2.sendShares y ls
    if y.accumulates then s4
    else s4.each (y.chains.filter (fun p => p.2.failed && p.1 != .ref)) (fun t p => t.failTile x.slot 0x30 0x01 p.2.tiles)

/-- A row of the opcode table's step events: refused steps complete under R14, a held step asks for what its checks still
need, and a ready step that no other comes before is dispatched by `go` when the hub dispatches. -/
def State.tryStep (s : State) (slot : Nat) (mine : Step → Bool) (go : State → Step → List Nat → State) : State :=
  match s.step? slot with
  | none => s
  | some x =>
    if !mine x || !s.eligible x || s.behind x then s
    else match s.verdict x with
      | .refuse st cause => s.complete slot st cause none
      | .hold => ((s.hubNeed x x.tables).getD s).askMasks x
      | .go =>
        let ready := s.makeReady x
        if !s.dispatches x then ready
        else if (x.op.getD .nop).noSlice then go ready x []
        else match s.pickSlices x with
          | none => ready
          | some ls => if s.outranked x ls then ready else go ready x ls

/-- The step's opcode. -/
def isOp (op : Opcode) (x : Step) : Bool := x.op == some op

end Sys2Proof.Machine
end

