-- ==== Sys2Proof/Machine/OutRound.lean ====
section
/-! DEFINITION. The output round of a share: coded tiles on their way to memory, the near store or a link station, and
the step links they feed (R69, R244, R253, R254, R316, R364, R413, R421). -/
namespace Sys2Proof.Machine

/-! ### Step links (R253, R254) -/

/-- The consuming step of a step link: a delivering step of the same context with the tag, its link enabled. -/
def State.consumer (s : State) (c : Fin 64) (tag : Nat) : Option Step :=
  (s.stepsOf c).find? (fun y => y.head.tag == tag && y.open && y.phase != .held
    && (match y.op with | some op => (deliverFields op y.words).linkEn && op.delivers | none => false))

/-- The slice of a step that handles chain index `n` (R278). -/
def State.handlerOf (s : State) (x : Step) (n : Nat) : Option (Fin 132) :=
  (x.slices[n / 2 ^ x.head.interleave % x.slices.length]?).bind s.physOf

/-- Entries of a link that take its depth: queued, on their way there, or as credits on their way back (R254). -/
def State.linkUsed (s : State) (m : Fin 132) (slot : Nat) : Nat :=
  (((s.slice m).share slot).map (·.link.length)).getD 0
    + (s.net.filter (fun t => t.dst == .slice m && (match t.body with | .qpush k _ => k == slot | _ => false))).length
    + sumNat (s.net.map (fun t => if t.src == .slice m then (match t.body with | .credit k _ n => if k == slot then n else 0 | _ => 0) else 0))

/-- A producer pushes one entry to the consuming step with a tag: into the queue of the slice that handles the tile, or
to that slice over the F-port; none while the producer has no credit (R253, R254). -/
def State.pushEntry (s : State) (src : UnitId) (c : Fin 64) (tag : Nat) (e : QEntry) : Option State :=
  (s.consumer c tag).bind (fun y => (s.handlerOf y e.handle).bind (fun m => ((s.slice m).share y.slot).bind (fun g =>
    if s.linkUsed m y.slot ≥ g.linkDepth then none
    else if src == .slice m then some (s.modShare m y.slot (fun z => { z with link := z.link ++ [(src, e)] }))
    else some (s.post src (.slice m) (.qpush y.slot e)))))

/-- A step pushes an entry for chain index `k`: every tile of its destination but one that a packed page's mask leaves out
(R206, R253). -/
def State.pushesFor (s : State) (x : Step) (k : Nat) : Bool :=
  match s.use x .dst, (x.chain .dst).bind (fun c => c.tileAt k) with
  | some u, some t => u.fmt.layout != .packed || !(x.maskBit .dst t).absent
  | _, _ => true

/-- The entry of chain index `i` is the last that its step will push: no other tile below where the step stops has one to come
(Table 07-4). The hub's count of what has been pushed is the model's own field (DEDUCED, assumption 121). -/
def State.lastPush (s : State) (x : Step) (i : Nat) : Bool :=
  match x.chain .dst with
  | none => false
  | some c =>
    let stop := (s.slices.toList.flatMap (·.shares)).foldl (fun a h => if h.slot == x.slot then minOpt a h.stop else a) none
    c.known && (List.range (match stop with | some k => Nat.min k c.tiles | none => c.tiles)).all (fun k =>
      k == i || x.pushed.contains k || !s.pushesFor x k)

/-- A step's entry as it is pushed, and the state that notes it. -/
def State.pushFor (s : State) (src : UnitId) (x : Step) (tag : Nat) (e : QEntry) : Option State :=
  (s.pushEntry src x.ctx tag { e with last := s.lastPush x e.handle }).map (fun t =>
    t.modStep x.slot (fun y => { y with pushed := e.handle :: y.pushed }))

/-- Pushes a share's waiting link entries, oldest first, while the consumer's queue has room for them; `k` are left. -/
def State.pushLinks (s : State) (n : Fin 132) (slot : Nat) : Nat → State
  | 0 => s
  | k + 1 =>
    match s.step? slot, ((s.slice n).share slot).map (·.linkOut) with
    | some x, some (e :: es) =>
      match (x.op.bind (fun op => linkOut op x.words)).bind (fun tag => s.pushFor (.slice n) x tag e) with
      | some s1 => (s1.modShare n slot (fun z => { z with linkOut := es })).pushLinks n slot k
      | none => s
    | _, _ => s

/-- A link station pushes the entries of its RECV steps' visible tiles, oldest first, as far as credit allows (R253). -/
def State.pushStation (s : State) (l : Fin 16) : State :=
  s.each ((s.link l).linkOut.filter (·.visible)) (fun t p => match (match t.step? p.slot with
      | some x => t.pushFor (.ls l) x p.tag p.entry
      | none => t.pushEntry (.ls l) p.ctx p.tag p.entry) with
    | some u => u.modLink l (fun x => { x with linkOut := x.linkOut.erase p })
    | none => t)

/-- Pushes what a share's link entries allow, and settles its end. -/
def State.flushLink (s : State) (n : Fin 132) (slot : Nat) : State :=
  (s.pushLinks n slot ((((s.slice n).share slot).map (fun h => h.linkOut.length)).getD 0)).settleShare n slot

/-! ### Writes -/

/-- The stream word a role of a step writes under. -/
def State.outUse (s : State) (x : Step) (r : Role) : Option Use := s.use x r

/-- The write of a coded tile to its page (Table 11-10 WRITE); in a keyed context the whole slot goes (R129, R133). -/
def State.writeRec (s : State) (n : Fin 132) (x : Step) (o : OutTile) : WriteRec :=
  let u := s.outUse x o.role
  let whole := (s.ctx x.ctx).keyed && o.legend.fmt != Fmt.absent.code && (match u with | some v => v.fmt.layout != .variableL | none => false)
  { slot := x.slot, role := o.role, ctx := x.ctx, chainIdx := o.chainIdx, tileNo := o.tileNo, slice := n
    legend := o.legend, stitch := if whole then fitTo ((u.map (fun v => slotSize v.fmt.ceiling)).getD 0) o.stitch else o.stitch
    layout := (u.map (·.fmt.layout.code)).getD 0, ceiling := (u.map (·.fmt.ceiling.code)).getD 0
    tileMap := (x.maskBit o.role o.tileNo).word?.getD 0xFFFF
    masked := (x.maskBit o.role o.tileNo).word?.isSome
    pageLast := o.pageLast
    load := if o.load then finOf 16 x.head.weightSlot else none
    remoteCls := x.op == some .recv, leaf := none }

/-- Receivers of a SEND or MCAST step: number, link station, engine, context, tag (Table 11-15). -/
def State.receiversOf (s : State) (x : Step) : List (Nat × Fin 16 × Nat × Nat × Nat) :=
  let entry := fun (i w ls eng ctx tag : Nat) => (finOf 16 (field w ls 4)).map (fun l => (i, l, field w eng 18, field w ctx 6, field w tag 16))
  match x.op with
  | some .send => (entry 0 (wordField x.words 6 0 64) 0 46 40 24).toList
  | some .mcast => (List.range (wordField x.words 7 0 7)).filterMap (fun i =>
      entry i (leNat (s.near.read (wordField x.words 6 0 34 + 8 * i) 8)) 36 12 30 48)
  | _ => []

/-- The link station that takes a step's records: the lead (R421). -/
def State.leadOf (s : State) (x : Step) : Option (Fin 16) :=
  (s.receiversOf x).foldl (fun acc r => match acc with
    | some l => if r.2.1.1 < l.1 then some r.2.1 else some l
    | none => some r.2.1) none

/-- Sends one coded tile: a record to the lead link station, or a write to the page's home station. -/
def State.sendTile (s : State) (n : Fin 132) (x : Step) (h : Share) (o : OutTile) : State :=
  match h.kind with
  | .sendOut | .multicast =>
    match s.leadOf x with
    | none => s
    | some l =>
      let r : TxRecord := { chainIdx := o.chainIdx, record := { tile := 0, legend := o.legend.forLink.toBytes, stitch := o.stitch } }
      if s.linkUp l then s.post (.slice n) (.ls l) (.lsend x.slot 0 r false) else s.lose (.slice n) x.slot 0x23 0x03 o.chainIdx
  | _ =>
    let m := homeOf x.ctx (o.tileNo / 16)
    if s.stationUp m then s.post (.slice n) (.ms m) (.write (s.writeRec n x o)) else s.lose (.slice n) x.slot 0x23 0x02 o.chainIdx

/-- Sends the tiles of a share's output round that may go, while its context is at work on the slice: not sent, and below
the step's miss (R316, R340). -/
def State.flushOut (s : State) (n : Fin 132) (slot : Nat) : State :=
  match s.step? slot, (s.slice n).share slot with
  | some x, some h =>
    let mayGo := fun (o : OutTile) => !o.sent && s.atWork n x.ctx && (match x.miss with | some m => o.chainIdx < m.tile | none => true)
    let s1 := s.modShare n slot (fun g => { g with out := g.out.map (fun o => if mayGo o then { o with sent := true } else o) })
    s1.each (h.out.filter mayGo) (fun t o => t.sendTile n x h o)
  | _, _ => s

/-- Coded tiles take the free slots of the output round, in order (R244). -/
def Share.fillOut (h : Share) : Share :=
  { h with out := h.out ++ h.coded.take (3 - h.out.length), coded := h.coded.drop (3 - h.out.length) }

/-- Puts coded tiles before the output round, which takes what it has slots for, and sends what may go. -/
def State.emit (s : State) (n : Fin 132) (slot : Nat) (os : List OutTile) : State :=
  (s.modShare n slot (fun h => { h with coded := h.coded ++ os }.fillOut)).flushOut n slot

/-- Shares of a step on its slices. -/
def State.sharesOf (s : State) (slot : Nat) : List Share :=
  (s.slices.toList.flatMap (·.shares)).filter (fun h => h.slot == slot)

/-- Every slice of a step has its share, or has ended it, and all of them satisfy `p`. -/
def State.allShares (s : State) (x : Step) (p : Slice → Share → Bool) : Bool :=
  ((s.sharesOf x.slot).filter (fun h => !x.doneShares.contains h.j)).length + x.doneShares.length == x.slices.length
    && s.slices.toList.all (fun y => y.shares.all (fun h => h.slot != x.slot || p y h))

/-- Where a pass leaves its stream (Table 07-3): in TAIL once its last tile has been dispatched on every slice, the reference's
walk apart, and ARMED once the last tile of every pass is delivered or written, whatever marks still hold (R238). -/
def State.settlePass (s : State) (slot : Nat) : State :=
  match s.step? slot with
  | none => s
  | some x =>
    if !isPass x.words then s
    else
      let ends := fun (h : Share) => h.reported || (h.rounds.all (fun r => r.role == .ref || walkAt x h r == .ended) && inputOver x h)
      let ended := fun (k : Nat) => match s.step? k with
        | some z => s.allShares z (fun y h => h.reported || h.ended || shareOver z y h)
        | none => true
      let p := s.stream x
      let tail := p.state == .tail || (p.state == .pass && p.passSlots.getLast? == some slot && s.allShares x (fun _ h => ends h))
      if !tail || !p.passSlots.contains slot then s
      else s.modStream x (fun q => { q with state := if p.passSlots.all ended then .armed else .tail })

/-! ### Visibility (R69, R253) -/

/-- Conditions and flags a written tile's legend stands for (R58, R123, R204). -/
def writtenConds (l : Legend) (n : Nat) : List Cond :=
  (if l.clipped then [{ status := 0x02, cause := 0, tile := some n }] else [])
    ++ (if l.poisoned then [{ status := 0x03, cause := 0, tile := some n }] else [])

/-- The lifetime counts of a written tile: escalations by format and clipped tiles (Table 12-11). -/
def State.countCoded (s : State) (o : OutTile) : State :=
  if o.tally == 0 then s
  else s.count (fun c =>
    { c with escG6 := c.escG6 + b2n (o.legend.escalated && o.legend.fmt == Fmt.g6.code)
             escG8 := c.escG8 + b2n (o.legend.escalated && o.legend.fmt == Fmt.g8.code)
             escPass := c.escPass + b2n (o.legend.escalated && o.legend.fmt == Fmt.pass.code)
             clippedTiles := c.clippedTiles + b2n o.legend.clipped })

/-- A coded tile has become visible: it leaves the output round, is counted, feeds a step link and frees link credit. -/
def State.outVisible (s : State) (n : Fin 132) (x : Step) (o : OutTile) : State :=
  let slot := x.slot
  let pad := match x.chain o.role with | some c => c.known && c.tiles ≤ o.chainIdx | none => false
  let isTile := (o.role == .dst || o.role == .table) && !pad && !o.passed
  let entry : QEntry :=
    { poisoned := o.legend.poisoned, tag := x.head.tag, handle := o.chainIdx
      last := false }
  let links := o.role == .dst && x.op != some .recv && (x.op.bind (fun op => linkOut op x.words)).isSome
  let s1 := s.modShare n slot (fun h =>
    { h with
      out := h.out.filter (fun p => !(p.role == o.role && p.chainIdx == o.chainIdx))
      last := if isTile then some (Nat.max (h.last.getD 0) o.chainIdx) else h.last
      linkOut := if links then h.linkOut ++ [entry] else h.linkOut })
  let s2 := s1.progress n slot (fun r =>
    { r with
      tiles := b2n (isTile && x.op != some .send), countA := o.countA, countB := o.countB
      escalated := if x.op == some .compress then o.countB else 0
      result := if (o.role == .spillA || o.role == .spillB) && x.op == some .scatter then 1 else 0
      conds := writtenConds o.legend o.chainIdx
      flags := { clipped := o.legend.clipped, poisoned := o.legend.poisoned } })
  let s3 := match o.link with
    | some l => s2.post (.slice n) (.ls l) (.ack slot .dst o.chainIdx)
    | none => s2
  ((((s3.modShare n slot Share.fillOut).flushOut n slot).tallyAdd (.slice n) x.ctx 1 o.tally).countCoded o).flushLink n slot

/-- Sends a written tile's page summary to the entry's owner (R325). -/
def State.sendSummary (s : State) (n : Fin 132) (x : Step) (o : OutTile) : State :=
  match o.summary with
  | none => s
  | some q => match s.gazOwner q.entry with
    | none => s
    | some w => s.post (.slice n) (.slice w) (.summary x.ctx q.entry q.page q.tile q.y q.n q.bounds x.slot o.chainIdx)

/-- One acknowledgement of a coded tile: its last one makes it visible; the write's own, when a page summary is still to
be merged, sends it. -/
def State.ackOut (s : State) (n : Fin 132) (slot : Nat) (r : Role) (i : Nat) : State :=
  match s.step? slot, ((s.slice n).share slot).bind (fun h => h.out.find? (fun o => o.role == r && o.chainIdx == i)) with
  | some x, some o =>
    if o.wantAcks ≤ 1 then (s.outVisible n x o).settlePass slot
    else (s.modShare n slot (fun h => { h with out := h.out.map (fun p =>
      if p.role == r && p.chainIdx == i then { p with wantAcks := p.wantAcks - 1 } else p) })).sendSummary n x o
  | _, _ => s

/-! ### Misses and passes -/

/-- A miss of a step at a tile (R315, R316): the lowest stands, no share goes on at or above it, and a coded tile of
that index is held in its output round. -/
def State.missTile (s : State) (slot : Nat) (m : Miss) : State :=
  let s1 := s.modStep slot (fun x => x.meet m)
  (s1.stopStep slot m.tile).modShares slot (fun h =>
    { h with out := h.out.map (fun o => if o.chainIdx == m.tile then { o with sent := false } else o) })

/-- Settles every share of a step. -/
def State.settleShares (s : State) (slot : Nat) : State :=
  match s.step? slot with
  | none => s
  | some x => s.each (s.phys x.slices) (fun t n => t.settleShare n slot)

end Sys2Proof.Machine
end

