-- ==== Sys2Proof/Machine/Steps.lean ====
section
/-! DEFINITION. The step rows: what the dispatch of each opcode does (Tables 08-5, 09-6, 11-15), and
the release of retired items (R226 to R232, R236 to R240, R273 to R280, R302 to R309, R318 to R322, R326, R327). -/
namespace Sys2Proof.Machine

/-! ### Steps whose slices get shares -/

/-- DELIVER: each slice gets its share (R185, R278). -/
def execDeliver (slot : Nat) (s : State) : Host.Outcome State Fault Refusal :=
  .next (s.tryStep slot (isOp .deliver) State.dispatch)

/-- COMPRESS: each slice gets its share (R206, R278). -/
def execCompress (slot : Nat) (s : State) : Host.Outcome State Fault Refusal :=
  .next (s.tryStep slot (isOp .compress) State.dispatch)

/-- C_COMPRESS: each slice gets its share (R139). -/
def execCCompress (slot : Nat) (s : State) : Host.Outcome State Fault Refusal :=
  .next (s.tryStep slot (isOp .cCompress) State.dispatch)

/-- C_DECOMPRESS: each slice gets its share (R161). -/
def execCDecompress (slot : Nat) (s : State) : Host.Outcome State Fault Refusal :=
  .next (s.tryStep slot (isOp .cDecompress) State.dispatch)

/-- GATHER_MERGE: each slice gets its share (R197). -/
def execGatherMerge (slot : Nat) (s : State) : Host.Outcome State Fault Refusal :=
  .next (s.tryStep slot (isOp .gatherMerge) State.dispatch)

/-- SCATTER: each slice gets its share and its bank's set is open (R211, R212, R217). -/
def execScatter (slot : Nat) (s : State) : Host.Outcome State Fault Refusal :=
  .next (s.tryStep slot (isOp .scatter) State.dispatch)

/-- MERGE_OUT: each slice gets its share (R219). -/
def execMergeOut (slot : Nat) (s : State) : Host.Outcome State Fault Refusal :=
  .next (s.tryStep slot (isOp .mergeOut) State.dispatch)

/-- MOVE: each slice gets its share (R68, R271). -/
def execMove (slot : Nat) (s : State) : Host.Outcome State Fault Refusal :=
  .next (s.tryStep slot (isOp .move) State.dispatch)

/-- RECV: each slice gets its share (R415). -/
def execRecv (slot : Nat) (s : State) : Host.Outcome State Fault Refusal :=
  .next (s.tryStep slot (isOp .recv) State.dispatch)

/-! ### DELIVER_ROWS and GATHER -/

/-- The bitmaps of a DELIVER_ROWS step are read over NACC, then its slices get their shares; an uncorrectable granule is
a descriptor error (R327, R511). -/
def State.goRows (s : State) (x : Step) (ls : List Nat) : State :=
  match s.chainOf x .src with
  | none => s
  | some c =>
    let gs := x.rowGranules (rowShape c (wordField x.words 8 36 3)).1
    let left := gs.filter (fun a => (x.granule a).isNone)
    if !left.isEmpty then s.each left (fun t a => t.ask x.slot a)
    else if gs.any (fun a => match x.granule a with | some g => g.2 | none => false) then s.complete x.slot 0x30 0x01 none
    else s.dispatch x ls

/-- DELIVER_ROWS (R327). -/
def execDeliverRows (slot : Nat) (s : State) : Host.Outcome State Fault Refusal :=
  .next (s.tryStep slot (isOp .deliverRows) State.goRows)

/-- The length table and page lists of a GATHER are read over the C-port; lengths that sum to 0 complete it DONE_EMPTY
(R319 to R321, R511). -/
def State.goGather (s : State) (x : Step) (ls : List Nat) : State :=
  match s.gatherNeed x with
  | some t => t
  | none =>
  let g := s.gatherChain x
  if g.1.failed && g.1.extents.isEmpty then s.complete x.slot 0x30 0x01 none
  else if sumNat g.2 == 0 then s.complete x.slot 0x01 0 none
  else
    let f := fun (y : Step) =>
      { y with chains := [(.src, g.1)], seqLens := g.2, perSeq := List.replicate g.2.length 0
               result := (g.2.filter (· != 0)).length }
    (s.modStep x.slot f).dispatch (f x) ls

/-- GATHER (R319 to R322). -/
def execGather (slot : Nat) (s : State) : Host.Outcome State Fault Refusal :=
  .next (s.tryStep slot (isOp .gather) State.goGather)

/-! ### SEND and MCAST -/

/-- The receivers of a link step take their places on the link stations (R417, R421). -/
def State.openReceivers (s : State) (x : Step) (seq : Nat → Nat) : State :=
  (s.receiversOf x).foldl (fun t r => t.modLink r.2.1 (fun l =>
    { l with receivers := l.receivers ++ [{ slot := x.slot, number := r.1, engine := r.2.2.1, context := r.2.2.2.1, tag := r.2.2.2.2
                                            pending := [], seq := seq r.1, sentTiles := 0, frames := 0, sentBytes := 0
                                            outBytes := 0, first := 0, lastSent := false, done := false }] })) s

/-- The link stations of a step that cannot serve (R489). -/
def State.linksDown (s : State) (x : Step) : Bool := (s.receiversOf x).any (fun r => !s.linkUp r.2.1)

/-- A receiver table the hub cannot use: an uncorrectable granule, or an entry that names this engine or a station that
is not present (R511, Table 11-15). -/
def State.receiversBad (s : State) (x : Step) : Bool :=
  x.op == some .mcast && ((s.readNear (wordField x.words 6 0 34) (8 * wordField x.words 7 0 7)).2
    || (s.receiversOf x).any (fun r => r.2.2.1 == s.ident.engineId.toNat || !(s.link r.2.1).present))

/-- A SEND or MCAST is dispatched: its receivers are set up and its slices get their shares (R415, R421). -/
def State.goSend (s : State) (x : Step) (ls : List Nat) : State :=
  if s.receiversBad x then s.complete x.slot 0x30 0x01 none
  else if s.linksDown x then s.complete x.slot 0x23 0x03 none
  else
    let s1 := (s.openReceivers x (fun _ => 0)).modStep x.slot (fun y => { y with toDo := (s.receiversOf x).length })
    s1.dispatch x ls

/-- SEND (R415). -/
def execSend (slot : Nat) (s : State) : Host.Outcome State Fault Refusal := .next (s.tryStep slot (isOp .send) State.goSend)

/-- MCAST (R421). -/
def execMcast (slot : Nat) (s : State) : Host.Outcome State Fault Refusal := .next (s.tryStep slot (isOp .mcast) State.goSend)

/-! ### Persistent streams (R236 to R240) -/

/-- CAST_ON arms the stream with the attributes of Table 07-2 on the slices it binds. -/
def State.goCastOn (s : State) (x : Step) (ls : List Nat) : State :=
  match s.maskedChain x .src, x.op with
  | some c, some op =>
    let compress := wordBit x.words 6 0
    (((s.markDispatched x ls).bindSlices x.ctx ls).modStream x (fun _ =>
      { state := .armed, compress := compress, word := streamWord x.words 4, chain := c, mask := maskWord x.words 5
        depth := roundDepth op x.words, slices := ls, weightKey := x.head.weightKey, weightSlot := x.head.weightSlot
        passSlots := [] })).modStep x.slot (fun y => { y with doneShares := List.range ls.length })
  | _, _ => s

/-- CAST_ON (R236, R238). -/
def execCastOn (slot : Nat) (s : State) : Host.Outcome State Fault Refusal :=
  .next (s.tryStep slot (isOp .castOn) State.goCastOn)

/-- What both forms of RECAST change of the mask (Table 07-2). -/
def PStream.remask (p : PStream) (x : Step) : PStream :=
  match recastMask x with
  | some m => { p with mask := m }
  | none => p

/-- REBASE: the offset is replaced, with no descriptor read (R237). -/
def State.goRebase (s : State) (x : Step) (_ : List Nat) : State :=
  (s.markDispatched x []).modStream x (fun p => { p with chain := (p.chain.rebased (recastOffset x)).getD p.chain }.remask x)

/-- REBASE form of RECAST (R237). -/
def execRebase (slot : Nat) (s : State) : Host.Outcome State Fault Refusal :=
  .next (s.tryStep slot (fun x => isOp .recast x && !isRechain x) State.goRebase)

/-- RECHAIN: a chain of the same shape at a new address, with an offset (R237). -/
def State.goRechain (s : State) (x : Step) (_ : List Nat) : State :=
  (s.markDispatched x []).modStream x (fun p => { p with chain := (s.chainOf x .src).getD p.chain }.remask x)

/-- RECHAIN form of RECAST (R237). -/
def execRechain (slot : Nat) (s : State) : Host.Outcome State Fault Refusal :=
  .next (s.tryStep slot (fun x => isOp .recast x && isRechain x) State.goRechain)

/-- TEARDOWN: the stream is FREE and its rounds are freed (R238). -/
def State.goTeardown (s : State) (x : Step) (_ : List Nat) : State := (s.markDispatched x []).modStream x (fun _ => PStream.free)

/-- TEARDOWN (R238). -/
def execTeardown (slot : Nat) (s : State) : Host.Outcome State Fault Refusal :=
  .next (s.tryStep slot (isOp .teardown) State.goTeardown)

/-! ### NOP and the atlas steps -/

/-- A step with nothing to do but to complete. -/
def State.goNop (s : State) (x : Step) (_ : List Nat) : State := s.markDispatched x []

/-- NOP: it orders steps by its edges and fence, and completes (R275). -/
def execNop (slot : Nat) (s : State) : Host.Outcome State Fault Refusal := .next (s.tryStep slot (isOp .nop) State.goNop)

/-- Runs the items of an atlas or page-range step from its position (R302, R513). -/
def State.runAtlas (s : State) (x : Step) : State :=
  let total := wordField x.words 5 0 32
  match x.op with
  | some .atlasWrite => s.runFrom x total (State.atlasImage x)
  | some .share => s.runFrom x (wordField x.words 6 0 32) (State.sharePage x)
  | some .free => s.runFrom x total (State.freePage x)
  | some .frog => s.runFrom x total (State.frogPage x)
  | some .demote => s.runFrom x total (State.demotePage x)
  | some .promote => s.runFrom x total (State.promotePage x)
  | _ => s

/-- A step over images or pages is at work from now on until its last item is done (R302, R513). -/
def State.startItems (s : State) (slot : Nat) : State :=
  let s1 := s.modStep slot (fun y => { y with toDo := 1 })
  match s1.step? slot with
  | some y => s1.runAtlas y
  | none => s1

/-- An opcode whose items the hub runs one by one. -/
def Step.runsItems (x : Step) : Bool :=
  match x.op with
  | some .atlasWrite | some .share | some .free | some .frog | some .demote | some .promote => true
  | _ => false

/-- Goes on with the steps over images or pages that wait for a read or for writes held before them. -/
def State.wakeItems (s : State) : State :=
  s.each (s.hub.steps.filter (fun x => x.running && x.runsItems && x.toDo != 0)) (fun t x => match t.step? x.slot with
    | some y => t.runAtlas y
    | none => t)

/-- What a read that has come to a station, or a station or slice that is gone, lets go on: steps over images or pages,
closed sessions, the nodes of a new context key, the re-wrap sweeps. -/
def State.wake (s : State) (ms : List (Fin 12)) : State :=
  (s.wakeItems.each ms (fun t m => (t.refreshClosed m).initRoots m)).sweepAll

/-- What every station goes on with. -/
def State.wakeAll (s : State) : State := s.wake (allFin 12)

/-- An atlas step is dispatched and runs. -/
def State.goAtlas (s : State) (x : Step) (_ : List Nat) : State := (s.markDispatched x []).startItems x.slot

/-- ATLAS_WRITE (R303). -/
def execAtlasWrite (slot : Nat) (s : State) : Host.Outcome State Fault Refusal :=
  .next (s.tryStep slot (isOp .atlasWrite) State.goAtlas)

/-- SHARE (R304). -/
def execShare (slot : Nat) (s : State) : Host.Outcome State Fault Refusal := .next (s.tryStep slot (isOp .share) State.goAtlas)

/-- FREE (R305). -/
def execFree (slot : Nat) (s : State) : Host.Outcome State Fault Refusal := .next (s.tryStep slot (isOp .free) State.goAtlas)

/-- FROG (R306). -/
def execFrog (slot : Nat) (s : State) : Host.Outcome State Fault Refusal := .next (s.tryStep slot (isOp .frog) State.goAtlas)

/-- DEMOTE and PROMOTE bind slices for their contour work and run over their pages (R331 to R333). -/
def State.goPages (s : State) (x : Step) (ls : List Nat) : State :=
  (((s.markDispatched x ls).bindSlices x.ctx ls).modStep x.slot (fun y => { y with doneShares := List.range ls.length })).startItems x.slot

/-- DEMOTE (R332). -/
def execDemote (slot : Nat) (s : State) : Host.Outcome State Fault Refusal := .next (s.tryStep slot (isOp .demote) State.goPages)

/-- PROMOTE (R333). -/
def execPromote (slot : Nat) (s : State) : Host.Outcome State Fault Refusal := .next (s.tryStep slot (isOp .promote) State.goPages)

/-- Posts the clearing writes of GAZ_CLEAR's entries from its position on, each on its owner slice (R326); an entry beyond
the gazetteer is a descriptor error there. -/
def State.clearEntries (s : State) (x : Step) : State :=
  let c := s.ctx x.ctx
  let first := wordField x.words 4 0 32
  let n := wordField x.words 5 0 32
  let room := Nat.min n (c.atlas.gazEntries.toNat - first)
  let s1 := s.each ((List.range (room - x.pos)).map (fun i => first + x.pos + i)) (fun t e => match t.gazOwner e with
    | none => t
    | some o => (t.naccWrite .hub o x.slot (c.gazAddr e) (zeros c.gazStride)).modStep x.slot (fun y => { y with toDo := y.toDo + 1 }))
  if room < n then s1.addCond x.slot 0x30 0x01 (some room) else s1

/-- GAZ_CLEAR is dispatched. -/
def State.goGazClear (s : State) (x : Step) (_ : List Nat) : State := (s.markDispatched x []).clearEntries x

/-- GAZ_CLEAR (R326). -/
def execGazClear (slot : Nat) (s : State) : Host.Outcome State Fault Refusal :=
  .next (s.tryStep slot (isOp .gazClear) State.goGazClear)

/-! ### RESUME (R276, R318) -/

/-- The shares of a suspended step go on: each from behind its last tile, its walk afresh; what its output round held is
sent. A share lost with its slice has ended. -/
def State.resumeShares (s : State) (slot : Nat) : State :=
  match s.step? slot with
  | none => s
  | some y =>
    let js := (s.sharesOf slot).map (·.j)
      ++ s.net.filterMap (fun t => match t.body with | .ctl (.dispatch h) => if h.slot == slot then some h.j else none | _ => none)
    let lost := (List.range y.slices.length).filter (fun j => !js.contains j)
    let noShares := y.op.bind (·.shareKind) == none
    let s1 := s.modStep slot (fun z => { z with doneShares := if noShares then List.range z.slices.length else lost })
    let s2 := s1.modShares slot (fun h => { h with paused := false })
    s2.each (s2.phys y.slices) (fun t n => (t.flushOut n slot).settleShare n slot)

/-- A catch-up that meets a miss is tried again from there under a new read epoch: it has no record to suspend with. -/
def State.retryCatchup (s : State) (x : Step) : State :=
  let s1 := s.modStep x.slot (fun y => { y with miss := none, epoch := some s.hub.readEpoch.toNat, doneShares := [] })
  (s1.parkShares x).resumeShares x.slot

/-- STEP_SUSPEND: every tile below the miss is done; the step suspends with a resume token (R316 to R318). -/
def execStepSuspend (slot : Nat) (s : State) : Host.Outcome State Fault Refusal :=
  match s.step? slot with
  | none => .next s
  | some x =>
    match x.miss with
    | none => .next s
    | some m =>
      if !s.live || !x.finished || !x.suspends then .next s
      else if x.parent.isSome then .next (s.retryCatchup x)
      else .next (s.suspendStep x m)

/-- RESUME continues the suspended step its token names, under a new read epoch. -/
def State.goResume (s : State) (x : Step) (_ : List Nat) : State :=
  match s.tokenStep x with
  | none => s
  | some y =>
    let s1 := (s.markDispatched x []).modStep x.slot (fun z => { z with target := some y.slot })
    let s2 := s1.modStep y.slot (fun z =>
      { z with phase := .dispatched, resumedBy := some x.slot, miss := none, epoch := some s.hub.readEpoch.toNat })
    let s3 := s2.resumeShares y.slot
    if y.op == some .gazClear then s3.clearEntries y
    else if y.runsItems then s3.startItems y.slot else s3

/-- RESUME (R276, R318). -/
def execResume (slot : Nat) (s : State) : Host.Outcome State Fault Refusal :=
  .next (s.tryStep slot (isOp .resume) State.goResume)

/-! ### Releases (R308, R309) -/

/-- The first retired item of a list that may be released at `ok`, with the rest. -/
def takeRetired (ok : Nat → Bool) : List (Nat × Retired) → Option (Retired × List (Nat × Retired))
  | [] => none
  | e :: es => if ok e.1 then some (e.2, es) else (takeRetired ok es).map (fun p => (p.1, e :: p.2))

/-- ITEM_RELEASE: an item whose retire epoch every step of the context has passed is released; a frame or block waits
for its release record, a share record is free again (R309). -/
def execItemRelease (c : Fin 64) (s : State) : Host.Outcome State Fault Refusal :=
  if !s.live then .next s
  else match takeRetired (s.epochClear c) (s.ctx c).retired with
    | none => .next s
    | some (item, rest) =>
      let s1 := s.modCtx c (fun x => { x with retired := rest })
      match item with
      | .shareRecord _ => .next s1
      | .area m st _ | .frame m st _ _ => .next (s1.modCtx c (fun x =>
          { x with releases := x.releases ++ [item], frames := x.frames.filter (fun f => !(f.1 == m && f.2.1 == st)) }))
      | .legendBlock .. => .next (s1.modCtx c (fun x => { x with releases := x.releases ++ [item] }))

/-- The 16 bytes of a release record (R308). -/
def Retired.bytes : Retired → Bytes
  | .area m st src => leBytes 8 (place m 60 4 + place (st / 64) 0 32) ++ leBytes 8 (place src 62 2)
  | .legendBlock m b src => leBytes 8 (place m 60 4) ++ leBytes 8 (place src 62 2 + place (b / 512) 0 29)
  | .frame m st b src => leBytes 8 (place m 60 4 + place (st / 64) 0 32) ++ leBytes 8 (place src 62 2 + place (b / 512) 0 29)
  | .shareRecord _ => zeros 16

/-- The release ring as the near store shows it (descriptor 24 of Table 09-8), when it can be used: base, log2, produced,
consumed. -/
def State.releaseRing (s : State) (c : Fin 64) : Option (Nat × Nat × Nat × Nat) :=
  if (s.ctx c).atlas.pool == 0 then none
  else (s.poolDescriptor c 24).bind (fun d => if poolUsable d then some d else none)

/-- Free entries of the release ring. -/
def State.releaseRoom (s : State) (c : Fin 64) : Nat :=
  match s.releaseRing c with
  | none => 0
  | some d => 2 ^ d.2.1 - (d.2.2.1 + 2 ^ 32 - d.2.2.2) % 2 ^ 32

/-- Writes the oldest held releases of a context while the ring has room; `n` bounds their number (R308). -/
def State.writeReleases (c : Fin 64) : Nat → State → State
  | 0, s => s
  | n + 1, s =>
    match (s.ctx c).releases, s.releaseRing c with
    | r :: rs, some d =>
      if s.releaseRoom c == 0 then s
      else
        let ring := (s.ctx c).atlas.pool.toNat + 32 * 24
        let a := d.1 + 16 * (d.2.2.1 % 2 ^ d.2.1)
        let cnt := leBytes 8 ((d.2.2.1 + 1) % 2 ^ 32)
        let s1 := (s.writeNear a r.bytes).writeNear (ring + 16) cnt
        let s2 := (s1.cRequest true a 16 r.bytes .other).cRequest true (ring + 16) 8 cnt .other
        State.writeReleases c n (s2.modCtx c (fun x => { x with releases := rs, ringFull := false }))
    | _, _ => s

/-- Reads the consumer count of the release ring again, unless a read of it is under way. -/
def State.pollRing (s : State) (c : Fin 64) : State :=
  if (s.ctx c).atlas.pool == 0 || s.hub.cOut.any (fun q => q.purpose == .ringPoll c) then s
  else s.cRequest false ((s.ctx c).atlas.pool.toNat + 32 * 24) 32 [] (.ringPoll c)

/-- RELEASE_RECORD: the oldest release of a context is written to the release ring, once the hub has read descriptor 24;
while the ring is full it is held, with event 0x9004 once, and the consumer count is read again (R308). -/
def execReleaseRecord (c : Fin 64) (s : State) : Host.Outcome State Fault Refusal :=
  if !s.cOpen || (s.ctx c).releases.isEmpty then .next s
  else if !(s.ctx c).ringSeen then .next (s.pollRing c)
  else if s.releaseRoom c != 0 then .next (State.writeReleases c 1 s)
  else
    let produced := match s.releaseRing c with | some d => d.2.2.1 | none => 0
    let s1 := if (s.ctx c).ringFull then s else (s.raise 0x9004 (some c) 0xC0 produced 0).modCtx c (fun x => { x with ringFull := true })
    .next (s1.pollRing c)

/-- RELEASE_RING_POLL: with releases held, the consumer count is read again, and held records are written when the ring
shows room (R308). -/
def execReleaseRingPoll (c : Fin 64) (s : State) : Host.Outcome State Fault Refusal :=
  if !s.cOpen || (s.ctx c).releases.isEmpty then .next s
  else if !(s.ctx c).ringSeen then .next (s.pollRing c)
  else .next ((State.writeReleases c (s.ctx c).releases.length s).pollRing c)

end Sys2Proof.Machine
end

