-- ==== Sys2Proof/Machine/Dict.lean ====
section
/-! DEFINITION. The Holtia object dictionary, reading side: the objects of Table 12-6 with their types and access
classes, and what a read of each returns (12_holtia_dictionary.md and the object tables it names). -/
namespace Sys2Proof.Machine

/-- Object types (Table 12-1). -/
inductive Ty where
  | u8 | u16 | u32 | u64 | bool | bits16 | bits32 | enum8 | str (len : Nat) | blob (len : Nat)
deriving DecidableEq, Repr

/-- Width of a scalar type in bytes; length of a segmented one. -/
def Ty.width : Ty → Nat
  | .u8 | .bool | .enum8 => 1
  | .u16 | .bits16 => 2
  | .u32 | .bits32 => 4
  | .u64 => 8
  | .str n | .blob n => n

/-- STR and BLOB objects, read and written by segments (R436). -/
def Ty.segmented : Ty → Bool
  | .str _ | .blob _ => true
  | _ => false

/-- Access classes (R432). -/
inductive Access where
  | ro | rw | rwb | wo | rws
deriving DecidableEq, Repr

/-- An assigned object. -/
structure Obj where
  ty : Ty
  acc : Access
deriving DecidableEq, Repr

/-- An index of the form base + n with n below `count`. -/
def within (base count idx : Nat) : Option (Fin count) := if base ≤ idx then finOf count (idx - base) else none

/-- The event codes of Table 12-14. -/
def eventCodes : List Nat :=
  [0x9001, 0x9002, 0x9003, 0x9004, 0x9005, 0x9006, 0x9007, 0x9008, 0x9009, 0x900A, 0x900B, 0x900C, 0x900D, 0x9010, 0x9011,
   0x9012, 0x9013, 0x9014, 0x9015, 0x9016, 0x9017, 0x9018, 0x9019, 0x901A]

/-- Objects of 0x1000 (Table 12-7). -/
def identityObj : Nat → Option Obj
  | 0x01 | 0x0D => some ⟨.u16, .ro⟩
  | 0x02 | 0x08 | 0x09 | 0x0A | 0x0B | 0x0C => some ⟨.u8, .ro⟩
  | 0x03 | 0x0F | 0x10 => some ⟨.bits16, .ro⟩
  | 0x04 => some ⟨.bits32, .ro⟩
  | 0x05 | 0x0E => some ⟨.u32, .ro⟩
  | 0x06 | 0x07 => some ⟨.str 16, .ro⟩
  | 0x11 => some ⟨.blob 17, .ro⟩
  | 0x12 => some ⟨.u64, .ro⟩
  | _ => none

/-- Objects of 0x2000 (Table 12-9). -/
def configObj : Nat → Option Obj
  | 0x01 | 0x22 => some ⟨.u8, .wo⟩
  | 0x02 | 0x23 => some ⟨.enum8, .ro⟩
  | 0x10 | 0x11 => some ⟨.bits16, .rwb⟩
  | 0x12 => some ⟨.bool, .rwb⟩
  | 0x20 => some ⟨.blob 65536, .rws⟩
  | 0x21 => some ⟨.u32, .rws⟩
  | _ => none

/-- Objects of 0x3100 + c (Table 08-1). -/
def ringObj (sub : Nat) : Option Obj :=
  if sub == 0 || sub > 0x18 then none
  else if sub ≤ 4 then some ⟨.u64, .rwb⟩
  else if sub ≤ 8 then some ⟨.u8, .rwb⟩
  else if sub ≤ 0xC then some ⟨.u64, .rwb⟩
  else if sub ≤ 0x10 then some ⟨.u8, .rwb⟩
  else some ⟨.u32, .ro⟩

/-- Objects of 0x3200 + c (Table 09-1). -/
def atlasObj : Nat → Option Obj
  | 0x01 | 0x02 | 0x03 | 0x05 => some ⟨.u64, .rwb⟩
  | 0x04 | 0x06 | 0x08 | 0x09 | 0x0A | 0x0B => some ⟨.u32, .rwb⟩
  | 0x07 => some ⟨.u8, .rwb⟩
  | 0x0C => some ⟨.u64, .ro⟩
  | _ => none

/-- Objects of 0x3300 + c (Table 10-1). -/
def contextObj : Nat → Option Obj
  | 0x01 => some ⟨.enum8, .ro⟩
  | 0x02 => some ⟨.u8, .wo⟩
  | 0x03 => some ⟨.u16, .rwb⟩
  | 0x04 => some ⟨.enum8, .rwb⟩
  | 0x05 => some ⟨.bool, .ro⟩
  | 0x06 => some ⟨.u64, .rwb⟩
  | 0x07 => some ⟨.u32, .rwb⟩
  | 0x08 => some ⟨.u64, .ro⟩
  | _ => none

/-- Objects of 0x4000 (Table 12-10). -/
def streamObj : Nat → Option Obj
  | 0x01 | 0x02 | 0x03 | 0x10 => some ⟨.u32, .rwb⟩
  | 0x20 => some ⟨.u64, .ro⟩
  | _ => none

/-- Objects of 0x5000 (Table 12-10). -/
def codecObj : Nat → Option Obj
  | 0x01 => some ⟨.bits32, .ro⟩
  | 0x02 => some ⟨.bits16, .ro⟩
  | 0x03 | 0x04 | 0x07 => some ⟨.u16, .rwb⟩
  | 0x05 | 0x06 => some ⟨.u8, .rwb⟩
  | _ => none

/-- Objects of 0x6000 (Table 10-4). -/
def securityObj : Nat → Option Obj
  | 0x01 => some ⟨.blob 48, .ro⟩
  | 0x02 => some ⟨.u32, .ro⟩
  | 0x03 | 0x04 => some ⟨.bool, .ro⟩
  | 0x05 => some ⟨.u8, .wo⟩
  | 0x06 => some ⟨.u16, .rwb⟩
  | 0x07 => some ⟨.u64, .rwb⟩
  | 0x08 | 0x09 | 0x0C | 0x0D => some ⟨.blob 16, .rws⟩
  | 0x0A => some ⟨.u64, .rws⟩
  | 0x0B => some ⟨.u32, .rws⟩
  | 0x0E => some ⟨.u64, .ro⟩
  | _ => none

/-- Objects of 0x6100 + c (Table 10-6). -/
def keyObj : Nat → Option Obj
  | 0x01 => some ⟨.u8, .ro⟩
  | 0x02 | 0x04 => some ⟨.u64, .ro⟩
  | 0x03 => some ⟨.bool, .ro⟩
  | _ => none

/-- Objects of 0x6200 + w (Table 10-6). -/
def weightObj : Nat → Option Obj
  | 0x01 => some ⟨.enum8, .ro⟩
  | 0x02 => some ⟨.u64, .rws⟩
  | 0x03 => some ⟨.u32, .ro⟩
  | _ => none

/-- Objects of 0x7000 (Table 12-11). -/
def healthObj : Nat → Option Obj
  | 0x01 | 0x03 | 0x10 | 0x11 | 0x12 | 0x13 => some ⟨.u64, .ro⟩
  | 0x02 | 0x04 | 0x05 => some ⟨.u32, .ro⟩
  | 0x06 => some ⟨.blob 65536, .ro⟩
  | 0x07 => some ⟨.u8, .wo⟩
  | 0x08 => some ⟨.blob 65536, .rws⟩
  | 0x20 => some ⟨.blob 16, .wo⟩
  | 0x21 => some ⟨.blob 256, .ro⟩
  | _ => none

/-- Objects of 0x8000 (Table 12-12); tally_record is as long as the mirrored record. -/
def tallyObj (recordLen : Nat) : Nat → Option Obj
  | 0x01 => some ⟨.u8, .ro⟩
  | 0x02 => some ⟨.u64, .ro⟩
  | 0x03 => some ⟨.u16, .ro⟩
  | 0x04 => some ⟨.blob recordLen, .ro⟩
  | 0x05 => some ⟨.blob 97, .ro⟩
  | _ => none

/-- Objects of 0x9000 (Table 12-13). -/
def logObj : Nat → Option Obj
  | 0x01 => some ⟨.bool, .ro⟩
  | 0x02 => some ⟨.blob 16, .ro⟩
  | 0x03 => some ⟨.u32, .ro⟩
  | 0x04 => some ⟨.bool, .rw⟩
  | _ => none

/-- Objects of 0xA000 (Table 12-15). -/
def governorObj : Nat → Option Obj
  | 0x01 | 0x02 => some ⟨.enum8, .rwb⟩
  | 0x03 => some ⟨.enum8, .ro⟩
  | 0x04 | 0x08 | 0x09 => some ⟨.u8, .ro⟩
  | 0x05 => some ⟨.u8, .rwb⟩
  | 0x06 | 0x07 => some ⟨.u32, .rwb⟩
  | 0x10 => some ⟨.u8, .wo⟩
  | _ => none

/-- The object at an index and subindex; none for an unassigned pair (R430, R441, R447). -/
def objOf (recordLen idx sub : Nat) : Option Obj :=
  if idx == 0x1000 then identityObj sub
  else if 0x1100 ≤ idx && idx ≤ 0x11FF then (if sub == 1 && (unitOf (idx - 0x1100)).isSome then some ⟨.u8, .ro⟩ else none)
  else if (within 0x1200 12 idx).isSome then
    (match sub with
      | 1 => some ⟨.u16, .ro⟩ | 2 => some ⟨.u32, .ro⟩ | 3 => some ⟨.bool, .ro⟩ | 4 => some ⟨.blob 128, .ro⟩ | _ => none)
  else if idx == 0x2000 then configObj sub
  else if (within 0x3100 64 idx).isSome then ringObj sub
  else if (within 0x3200 64 idx).isSome then atlasObj sub
  else if (within 0x3300 64 idx).isSome then contextObj sub
  else if idx == 0x4000 then streamObj sub
  else if idx == 0x5000 then codecObj sub
  else if idx == 0x6000 then securityObj sub
  else if (within 0x6100 64 idx).isSome then keyObj sub
  else if (within 0x6200 16 idx).isSome then weightObj sub
  else if idx == 0x7000 then healthObj sub
  else if (within 0x7100 132 idx).isSome || (within 0x7200 13 idx).isSome then
    (if sub == 1 || sub == 2 then some ⟨.u32, .ro⟩ else none)
  else if idx == 0x7300 then (if 1 ≤ sub && sub ≤ 0x20 then some ⟨.u64, .ro⟩ else none)
  else if idx == 0x8000 then tallyObj recordLen sub
  else if idx == 0x9000 then logObj sub
  else if eventCodes.contains idx then (if sub == 1 then some ⟨.u64, .ro⟩ else none)
  else if idx == 0xA000 then governorObj sub
  else if (within 0xA100 132 idx).isSome then
    (match sub with | 1 => some ⟨.enum8, .ro⟩ | 2 => some ⟨.u8, .ro⟩ | 3 => some ⟨.u64, .ro⟩ | _ => none)
  else none

/-! ### Counters (R368, R494) -/

/-- What a counter of `bytes` bytes reads as: the exact value saturated at its type, rounded down to 2^16 (R368, R494). -/
def counterRead (bytes n : Nat) : Nat := Nat.min n (2 ^ (8 * bytes) - 1) / 65536 * 65536

/-- The exact counters as a tick takes them (R368): the units' error counts and ACTIVE times among them. -/
def State.exactCounters (s : State) : Counters :=
  { s.hub.counters with
    sliceErrors := s.slices.toList.map (fun x => (x.corrected, x.uncorrected))
    stationErrors := s.stations.toList.map (fun x => (x.corrected, x.uncorrected))
    activeMs := s.slices.toList.map (·.activeMs) }

/-- Latches every counter's reading. -/
def State.latch (s : State) : State := s.modHub (fun h => { h with latched := s.exactCounters })

/-- Corrected and uncorrected errors of slice `n` (or station `m`, or 12 for the hub) as latched. -/
def errorPair (l : List (Nat × Nat)) (i : Nat) : Nat × Nat := l.getD i (0, 0)

/-- A counter of 0x7000 to 0x7300, 0x9000.03, 0x9001 to 0x90FF or (0xA100 + n).03 as latched; none for other objects. -/
def Counters.at? (k : Counters) (idx sub : Nat) : Option Nat :=
  if idx == 0x7000 then
    (match sub with
      | 0x01 => some (counterRead 8 k.powerOnS) | 0x02 => some (counterRead 4 k.fences)
      | 0x03 => some (counterRead 8 k.integrity) | 0x04 => some (counterRead 4 k.thermalTrips)
      | 0x10 => some (counterRead 8 k.escG6) | 0x11 => some (counterRead 8 k.escG8)
      | 0x12 => some (counterRead 8 k.escPass) | 0x13 => some (counterRead 8 k.clippedTiles)
      | _ => none)
  else match within 0x7100 132 idx, within 0x7200 13 idx, within 0xA100 132 idx with
    | some n, _, _ =>
      let e := errorPair k.sliceErrors n.1
      some (counterRead 4 (if sub == 1 then e.1 else e.2))
    | _, some m, _ =>
      let e := if m.1 == 12 then (k.hubCorrected, k.hubUncorrected) else errorPair k.stationErrors m.1
      some (counterRead 4 (if sub == 1 then e.1 else e.2))
    | _, _, some n => if sub == 3 then some (counterRead 8 (k.activeMs.getD n.1 0)) else none
    | _, _, _ =>
      if idx == 0x7300 then some (counterRead 8 (k.latency.toList.getD (sub - 1) 0))
      else if idx == 0x9000 && sub == 3 then some (counterRead 4 k.eventsLost)
      else if eventCodes.contains idx then some (counterRead 8 ((assoc idx k.events).getD 0))
      else none

/-! ### Port versions (R383, Tables 12-7 and 12-8) -/

/-- The version a port shows: 0 when it is disabled, absent or not yet agreed. -/
def PortVer.shown : PortVer → Nat
  | .agreed v => v
  | _ => 0

/-- The lowest agreed version of a list of ports; 0 if none is open. -/
def lowestVersion (vs : List PortVer) : Nat :=
  (vs.filterMap (fun v => match v with | .agreed n => some n | _ => none)).foldl (fun acc n =>
    if acc == 0 || n < acc then n else acc) 0

/-- 0x1000.04 (Table 12-7); the N-, D- and A-ports run at version 3 from sb_ready (R384). -/
def State.portVersions (s : State) : Nat :=
  let f := [s.hub.fVer] ++ (s.slices.toList.filter Slice.alive).map (·.fVer) ++ s.stations.toList.map (·.fVer) ++ s.links.toList.map (·.fVer)
  place (lowestVersion f) 0 4 + place (lowestVersion (s.stations.toList.map (·.mVer))) 4 4
    + place (lowestVersion (s.links.toList.map (·.lVer))) 8 4 + place s.hub.cVer.shown 12 4
    + place 3 16 4 + place 3 20 4 + place 3 24 4

/-- (0x1100 + u).01 (Table 12-8). -/
def State.unitVersions (s : State) : UnitId → Nat
  | .slice n => (s.slice n).fVer.shown
  | .ms m => (s.station m).fVer.shown + 16 * (s.station m).mVer.shown
  | .ls l => (s.link l).fVer.shown + 16 * (s.link l).lVer.shown
  | .hub => s.hub.fVer.shown + 16 * s.hub.cVer.shown

/-! ### Scalars and byte strings -/

/-- 0x2000.23 (R508). -/
def Hub.patchState (h : Hub) : Nat := if h.patchActive.isSome then 2 else if h.patchLength != 0 then 1 else 0

/-- Code of a quiescence state (Table 12-9). -/
def Quiesce.code : Quiesce → Nat | .running => 0 | .draining => 1 | .quiesced => 2

/-- Code of a context state (Table 10-1). -/
def CtxState.code : CtxState → Nat | .free => 0 | .opened => 1 | .closing => 2 | .scrubbing => 3

/-- Code of a key slot state (Table 10-6). -/
def KeyState.code : KeyState → Nat | .empty => 0 | .loaded => 1 | .draining => 2

/-- Code of a weight slot state (Table 10-6). -/
def WeightState.code : WeightState → Nat | .empty => 0 | .loading => 1 | .sealed => 2

/-- Code of a power state (Table 12-15). -/
def Power.code : Power → Nat | .active => 0 | .idle => 1 | .dormant => 2 | .off => 3 | .fenced => 4 | .fused => 5

/-- Oldest read epoch held by a step of a context, or the counter's value (Table 09-1). -/
def State.oldestEpoch (s : State) (c : Fin 64) : Nat :=
  (s.epochsOf c).foldl Nat.min s.hub.readEpoch.toNat

/-- Ring objects of a context (Table 08-1). -/
def State.readRing (s : State) (c : Fin 64) (sub : Nat) : Nat :=
  let r : Fin 4 := ⟨(sub - 1) % 4, Nat.mod_lt _ (by decide)⟩
  let k := s.ring c r
  match (sub - 1) / 4 with
  | 0 => k.sqBase.toNat
  | 1 => k.sqLog2.toNat
  | 2 => k.cqBase.toNat
  | 3 => k.cqLog2.toNat
  | 4 => k.sqHead.toNat
  | _ => k.cqTail.toNat

/-- Atlas objects of a context (Table 09-1). -/
def State.readAtlas (s : State) (c : Fin 64) (sub : Nat) : Nat :=
  let a := (s.ctx c).atlas
  match sub with
  | 0x01 => a.roots.toNat
  | 0x02 => a.pool.toNat
  | 0x03 => a.shareTable.toNat
  | 0x04 => a.shareRecords.toNat
  | 0x05 => a.gazBase.toNat
  | 0x06 => a.gazEntries.toNat
  | 0x07 => a.gazSpan.toNat
  | 0x0C => s.oldestEpoch c
  | _ => (a.grants.toList.getD (sub - 8) 0).toNat

/-- Context control objects (Table 10-1). -/
def State.readContext (s : State) (c : Fin 64) (sub : Nat) : Nat :=
  let x := s.ctx c
  match sub with
  | 0x01 => x.state.code
  | 0x03 => x.tag.toNat
  | 0x04 => x.partition.toNat
  | 0x05 => b2n x.keyed
  | 0x06 => x.scrubTable.toNat
  | 0x07 => x.scrubEntries.toNat
  | 0x08 => x.scrubCycles.toNat
  | _ => 0

/-- Block configuration, streams, codecs, security and governor scalars. -/
def State.readDict (s : State) (idx sub : Nat) : Nat :=
  let d := s.hub.dict
  match idx, sub with
  | 0x2000, 0x02 => s.hub.quiesce.code
  | 0x2000, 0x10 => d.stationEnable.toNat
  | 0x2000, 0x11 => d.linkEnable.toNat
  | 0x2000, 0x12 => b2n d.remoteServe
  | 0x2000, 0x21 => s.hub.patchLength.toNat
  | 0x2000, 0x23 => s.hub.patchState
  | 0x4000, 0x01 => d.tensionSplit.toNat
  | 0x4000, 0x02 => d.quantumUs.toNat
  | 0x4000, 0x03 => d.switchIdleNs.toNat
  | 0x4000, 0x10 => d.cutThrough.toNat
  | 0x4000, 0x20 => s.hub.readEpoch.toNat
  | 0x5000, 0x01 => 0x9177
  | 0x5000, 0x02 => 0x3F
  | 0x5000, 0x03 => d.escThreshold.toNat
  | 0x5000, 0x04 => d.escRateLimit.toNat
  | 0x5000, 0x05 => d.effortDefault.toNat
  | 0x5000, 0x06 => d.blockTiles.toNat
  | 0x5000, 0x07 => d.autoDensity.toNat
  | 0x6000, 0x02 => s.hub.measureSeq.toNat
  | 0x6000, 0x03 => b2n s.hub.stale
  | 0x6000, 0x04 => b2n s.pins.hLocked
  | 0x6000, 0x06 => d.scrubInterval.toNat
  | 0x6000, 0x07 => d.counterSheet.toNat
  | 0x6000, 0x0A => 0
  | 0x6000, 0x0B => s.hub.keyCommand.toNat
  | 0x6000, 0x0E => s.hub.scrubSerial.toNat
  | 0x7000, 0x05 => s.hub.checkpointSeq.toNat
  | 0x8000, 0x01 => 0x12
  | 0x8000, 0x02 => s.hub.mirrorEpoch.toNat
  | 0x8000, 0x03 => s.hub.mirrorRecord.length
  | 0x9000, 0x01 => b2n !s.hub.log.isEmpty
  | 0x9000, 0x04 => b2n d.eventLogEnable
  | 0xA000, 0x01 => b2n d.governorPinned
  | 0xA000, 0x02 => d.opPointMax.toNat
  | 0xA000, 0x03 => Nat.min s.pins.opGrant.toNat 2
  | 0xA000, 0x04 => s.pins.powerQ.toNat
  | 0xA000, 0x05 => d.minReady.toNat
  | 0xA000, 0x06 => d.dormantUs.toNat
  | 0xA000, 0x07 => d.offMs.toNat
  | 0xA000, 0x08 => s.hub.spares.length
  | 0xA000, 0x09 => s.usable.length
  | _, _ => 0

/-- 0x1000 scalars (Table 12-7). -/
def State.readIdentity (s : State) (sub : Nat) : Nat :=
  match sub with
  | 0x01 => 0x0301
  | 0x02 => 3
  | 0x03 => 0x041C
  | 0x04 => s.portVersions
  | 0x05 => 0x03010002
  | 0x08 => 128
  | 0x09 => 4
  | 0x0A => 12
  | 0x0B => 16
  | 0x0C => 64
  | 0x0D => 6144
  | 0x0E => s.ident.engineId.toNat
  | 0x0F => s.ident.stations.toNat
  | 0x10 => s.ident.links.toNat
  | 0x12 => 2 ^ s.ident.nearLog2
  | _ => 0

/-- Key state of a context (Table 10-6). -/
def State.readKey (s : State) (c : Fin 64) (sub : Nat) : Nat :=
  let x := s.ctx c
  match sub with
  | 0x01 => place x.cur.gen.toNat 6 2 + place x.cur.state.code 2 2 + place x.prev.state.code 0 2
  | 0x02 => x.sweepPages.toNat
  | 0x03 => b2n x.sweepDone
  | 0x04 => x.prevRetire.toNat
  | _ => 0

/-- Weight slot objects (Table 10-6). -/
def State.readWeight (s : State) (w : Fin 16) (sub : Nat) : Nat :=
  let x := s.hub.weights[w.1]
  match sub with
  | 0x01 => x.state.code
  | 0x02 => x.bindMask.toNat
  | 0x03 => x.tilesLoaded.toNat
  | _ => 0

/-- Stack identity scalars of a station (R391, Table 12-8). -/
def State.readStackId (s : State) (m : Fin 12) (sub : Nat) : Nat :=
  let x := s.station m
  match sub with
  | 0x01 => if x.idValid then 2 ^ x.capacityLog2 else 0
  | 0x02 => x.rate
  | 0x03 => b2n x.idValid
  | _ => 0

/-- The value a READ of a scalar returns. -/
def State.readScalar (s : State) (idx sub : Nat) : Nat :=
  match s.hub.latched.at? idx sub with
  | some n => n
  | none =>
    if idx == 0x1000 then s.readIdentity sub
    else if 0x1100 ≤ idx && idx ≤ 0x11FF then ((unitOf (idx - 0x1100)).map s.unitVersions).getD 0
    else match within 0x1200 12 idx, within 0x3100 64 idx, within 0x3200 64 idx, within 0x3300 64 idx with
      | some m, _, _, _ => s.readStackId m sub
      | _, some c, _, _ => s.readRing c sub
      | _, _, some c, _ => s.readAtlas c sub
      | _, _, _, some c => s.readContext c sub
      | _, _, _, _ =>
        match within 0x6100 64 idx, within 0x6200 16 idx, within 0xA100 132 idx with
        | some c, _, _ => s.readKey c sub
        | _, some w, _ => s.readWeight w sub
        | _, _, some n => if sub == 1 then (s.slice n).power.code else ((s.logicalOf n).map (·.1)).getD 0xFF
        | _, _, _ => s.readDict idx sub

/-- A log entry's 16 bytes (R449). -/
def EventEntry.toBytes (e : EventEntry) : Bytes :=
  leBytes 2 e.code.toNat ++ [byteOf (match e.ctx with | some c => c.1 + 64 | none => 0), byteOf e.unit.toNat]
    ++ leBytes 4 e.seq.toNat ++ leBytes 4 e.arg0.toNat ++ leBytes 4 e.arg1.toNat

/-- The two result bytes of a logical slice's swatch test (0x7000.21). -/
def Swatch.toBytes (w : Swatch) : Bytes :=
  [byteOf w.pass.toNat, byteOf (b2n w.done + 2 * b2n w.skipped + 4 * b2n w.running)]

/-- The bytes from `off`, `n` of them, of a STR or BLOB object; bytes beyond its length read as zero. -/
def State.readBlob (s : State) (idx sub off n : Nat) : Bytes :=
  let sel := fun (bs : Bytes) => fitTo n (bs.drop off)
  let asciiName := fun (cs : List Nat) => sel (cs.map byteOf)
  match idx, sub with
  | 0x1000, 0x06 => asciiName [0x47, 0x65, 0x6E, 0x65, 0x6E, 0x64]
  | 0x1000, 0x07 => asciiName [0x54, 0x75, 0x6C, 0x76, 0x6F, 0x20, 0x31, 0x32, 0x38]
  | 0x1000, 0x11 => sel (leBytes 17 s.ident.fused.toNat)
  | 0x6000, 0x01 => sel s.hub.measurement
  | 0x7000, 0x06 => s.hub.checkpointRecord.read off n
  | 0x7000, 0x08 => if off < 65536 then s.hub.restoreImage.read off n else zeros n
  | 0x7000, 0x21 => sel (s.hub.swatch.toList.flatMap Swatch.toBytes)
  | 0x8000, 0x04 => sel s.hub.mirrorRecord
  | 0x8000, 0x05 => sel (publicPoint Config.tallyPrivateKey)
  | 0x9000, 0x02 => sel (match s.hub.log.head? with | some e => e.toBytes | none => [])
  | _, _ => match within 0x1200 12 idx with
    | some m => sel (leBytes 128 (s.station m).identity.toNat)
    | none => zeros n

end Sys2Proof.Machine
end

