-- ==== Sys2Proof/Machine/Faults.lean ====
section
/-! DEFINITION. Failed units: fencing and remapping of slices, failed stations, link stations and the hub, SRAM errors
and probes (R480 to R490). -/
namespace Sys2Proof.Machine

/-! ### Slices (R483 to R486) -/

/-- What a fenced slice takes of a step: its share. -/
def State.lostShare (s : State) (n : Fin 132) (slot : Nat) : Option Share := (s.slice n).share slot

/-- Steps that Table 14-5 does not continue. -/
def notContinued (x : Step) : Bool :=
  match x.op with
  | some .scatter | some .mergeOut | some .recv => true
  | some op => (op == .deliver || op == .deliverRows) && (deliverFields op x.words).linkEn
  | none => false

/-- The share of slice j ends: RESOURCE_FENCED, cause SLICE, once the others finish (Table 14-5, R485). -/
def State.fenceShare (s : State) (slot j : Nat) : State :=
  (s.addCond slot 0x23 0x01 none).modStep slot (fun y => { y with doneShares := j :: y.doneShares.filter (· != j) })

/-- Hands share j of a step to a slice, from the tile after `last`, and binds the slice if it is unbound (R280, R484). -/
def State.redispatch (s : State) (slot j : Nat) (l : Nat) (last : Option Nat) : State :=
  let s1 := s.modStep slot (fun y => { y with slices := y.slices.set j l })
  match s1.step? slot, s1.physOf l with
  | some x, some n => match newShare s1 x j last with
    | none => s1
    | some h => (s1.modSlice n (fun y => { y with bound := some (y.bound.getD x.ctx) })).post .hub (.slice n) (.ctl (.dispatch { h with paused := x.phase == .suspended }))
  | _, _ => s1

/-- The logical slice that takes an ANY step's share when no spare is left (R485); a GATHER_MERGE step's share too may go to
any logical slice (DEDUCED, assumption 108). -/
def State.anyTaker (s : State) (x : Step) : Option Nat :=
  let free := s.usable.filter (fun l => !x.slices.contains l.1 && (match s.physOf l.1 with
    | some n => (s.slice n).bound.isNone || (s.slice n).bound == some x.ctx
    | none => false))
  match free.head? with
  | some l => some l.1
  | none => (x.slices.filter (fun l => (s.physOf l).isSome)).foldl (fun acc l => minOpt acc (some l)) none

/-- Continues one step that had share j on the lost logical slice `l` (Table 14-5, R485). -/
def State.continueStep (s : State) (x : Step) (j l : Nat) (lost : Option Share) (replaced : Bool) : State :=
  let last := match (lost.filter (fun h => h.j == j)).bind (·.last) with | some n => some n | none => assoc j x.last
  if x.doneShares.contains j then s
  else if notContinued x then s.fenceShare x.slot j
  else if replaced then s.redispatch x.slot j l last
  else if x.head.policy == 0 then s.fenceShare x.slot j
  else match s.anyTaker x with
    | none => s.fenceShare x.slot j
    | some t => s.redispatch x.slot j t last

/-- Gazetteer contributions sent to a slice and not yet acknowledged: their sender, context, content, step and tile. -/
def State.tornAt (s : State) (n : Fin 132) : List (UnitId × Fin 64 × SummaryRec × Nat × Nat) :=
  let sent := fun (t : Txn) => match t.body with
    | .summary c entry page tile y k bounds slot idx =>
      if t.dst == .slice n then
        some (t.src, c, ({ entry := entry, page := page, tile := tile, y := y, n := k, bounds := bounds } : SummaryRec), slot, idx)
      else none
    | _ => none
  let atWork := fun (r : NReq) => match r.purpose with
    | .gaz _ src c q slot idx => some (src, c, q, slot, idx)
    | _ => none
  (s.net.filterMap sent ++ (s.slice n).nOut.filterMap atWork).eraseDups

/-- The slice that takes over the entries of a lost owner sets each one that was torn in conflict, and then acknowledges
its contribution (R486). -/
def State.tornSummaries (s : State) (torn : List (UnitId × Fin 64 × SummaryRec × Nat × Nat)) : State :=
  s.each torn (fun t e => match t.gazOwner e.2.2.1.entry with
    | some o => t.nRange o false ((t.ctx e.2.1).gazAddr e.2.2.1.entry) (t.ctx e.2.1).gazStride [] (.gaz .torn e.1 e.2.1 e.2.2.1 e.2.2.2.1 e.2.2.2.2)
    | none => t)

/-- The near-store accesses that a slice makes for the hub or a station, on their way to it or under way, as the NACCs that
asked for them (R392). -/
def State.naccsAt (s : State) (n : Fin 132) : List (UnitId × Nat × Bool × Nat × Nat) :=
  (s.net.filterMap (fun t => match t.body with
    | .nacc tag wr a len _ => if t.dst == .slice n then some (t.src, tag, wr, a, len) else none
    | _ => none)
  ++ (s.slice n).nOut.filterMap (fun q => match q.purpose with
    | .nacc u tag a len => some (u, tag, false, a, len)
    | .naccWrite u tag a len => some (u, tag, true, a, len)
    | _ => none)).eraseDups

/-- The slice that takes over the near-store accesses of a lost logical slice `l`: the one mapped to it now, else the
highest usable one below it, else the lowest usable one (R485; assumption 23). -/
def State.standIn (s : State) (l : Option Nat) : Option (Fin 132) :=
  match l.bind s.physOf with
  | some n => some n
  | none => match (s.usable.filter (fun k => match l with | some i => k.1 < i | none => false)).getLast? with
    | some k => s.physOf k.1
    | none => s.usable.head?.bind (fun k => s.physOf k.1)

/-- Makes lost near-store accesses again through another slice: a read from its start, a write with the bytes the view
shows (DEDUCED, assumption 89). -/
def State.remakeNaccs (s : State) (l : Option Nat) (as : List (UnitId × Nat × Bool × Nat × Nat)) : State :=
  match s.standIn l with
  | none => s
  | some n => s.each as (fun t e =>
    t.post e.1 (.slice n) (.nacc e.2.1 e.2.2.1 e.2.2.2.1 e.2.2.2.2 (if e.2.2.1 then (t.readNear e.2.2.2.1 e.2.2.2.2).1 else [])))

/-- The entries of a GAZ_CLEAR that slice `n` owns and has no write of under way. -/
def State.clearedBy (s : State) (n : Fin 132) (x : Step) : List Nat :=
  let c := s.ctx x.ctx
  let first := wordField x.words 4 0 32
  let room := Nat.min (wordField x.words 5 0 32) (c.atlas.gazEntries.toNat - first)
  let busy := (s.naccsAt n).filterMap (fun e => if e.2.1 == x.slot && e.2.2.1 then some e.2.2.2.1 else none)
  ((List.range room).map (first + ·)).filter (fun e => s.gazOwner e == some n && !busy.contains (c.gazAddr e))

/-- The replacement of slice `n` clears again the entries of a GAZ_CLEAR that `n` had cleared (Table 14-5): each counts when it
is done again, and acknowledgements of `n` still in flight count for nothing. -/
def State.clearAgain (s : State) (n : Fin 132) (x : Step) (es : List Nat) : State :=
  let late := fun (t : Txn) => t.src == .slice n && t.dst == .hub && (match t.body with | .ack slot _ _ => slot == x.slot | _ => false)
  let d := es.length - (s.net.filter late).length
  let s1 : State := { s with net := s.net.filter (fun t => !late t) }
  let s2 := s1.modStep x.slot (fun y =>
    { y with toDo := y.toDo + d, tilesDone := y.tilesDone - d, countA := y.countA - d, pos := y.pos - d })
  let c := s.ctx x.ctx
  s2.each es (fun t e => match t.gazOwner e with
    | some o => t.naccWrite .hub o x.slot (c.gazAddr e) (zeros c.gazStride)
    | none => t)

/-- Fences a slice: FENCED, counted, event 0x9010, remap to the lowest spare or loss of the logical slice, and the
continuation of every step with a share there (R483 to R486). -/
def State.fence (s : State) (n : Fin 132) : State :=
  if !(s.slice n).alive then s
  else
    let l := s.logicalOf n
    let s1 := (s.count (fun c => { c with fences := c.fences + 1 })).raise 0x9010 none n.1 n.1 (match l with | some i => i.1 | none => 0xFF)
    let open_ := s.hub.steps.filter (fun x => x.running || x.phase == .suspended)
    let steps := open_.filter (fun x => (s.slice n).bound == some x.ctx) ++ open_.filter (fun x => (s.slice n).bound != some x.ctx)
    let lost := fun (slot : Nat) => s.lostShare n slot
    let naccs := s.naccsAt n
    let cleared := (open_.filter (fun x => x.op == some .gazClear)).map (fun x => (x, s.clearedBy n x))
    let torn := s.tornAt n
    let s2 : State := s1.modSlice n (fun y =>
      { Slice.reset with power := .fenced, corrected := y.corrected, uncorrected := y.uncorrected, activeMs := y.activeMs
                         fVer := y.fVer })
    let s3 := s2.modHub (fun h =>
      { h with saved := h.saved.filter (fun e => e.1 != n), spares := h.spares.filter (· != n), probed := h.probed.filter (· != .slice n) })
    match l with
    | none => ({ s3 with net := s3.net.filter (fun t => t.dst != .slice n) } : State).remakeNaccs none naccs
    | some i =>
      let spare := s3.hub.spares.head?
      let s4 := s3.modHub (fun h => { h with map := h.map.set i.1 spare i.2, spares := h.spares.drop 1 })
      let s5 := match spare with
        | some p => s4.modSlice p (fun y => { y with waking := true })
        | none => s4.raise 0x9011 none 0xC0 s4.usable.length 0
      let s6 := s5.tornSummaries torn
      let s7 : State := { s6 with net := s6.net.filter (fun t => t.dst != .slice n) }
      let s8 := (s7.remakeNaccs (some i.1) naccs).each (if spare.isSome then cleared else []) (fun t e => t.clearAgain n e.1 e.2)
      s8.each steps (fun t x => (List.range x.slices.length).foldl (fun u j =>
        if x.slices[j]? == some i.1 then u.continueStep x j i.1 (lost x.slot) spare.isSome else u) t)

/-! ### Stations (R487, R488) -/

/-- Tiles that a station was serving or had been sent: step slot and chain index (local steps only). -/
def State.tilesAt (s : State) (m : Fin 12) : List (Nat × Nat) :=
  let st := s.station m
  st.jobs.filterMap (fun j => match j.kind with
    | .readTile f _ _ => if f.remoteFor.isNone then some (f.slot, f.chainIdx) else none
    | .writeTile w => some (w.slot, w.chainIdx)
    | _ => none)
  ++ st.heldWrites.map (fun w => (w.slot, w.chainIdx))
  ++ s.net.filterMap (fun t => if t.dst != .ms m then none else match t.body with
    | .fetch f => if f.remoteFor.isNone then some (f.slot, f.chainIdx) else none
    | .write w => some (w.slot, w.chainIdx)
    | .atlas (.walk f) => some (f.slot, f.chainIdx)
    | _ => none)

/-- Near-store unit numbers a failed station has not yet written (R488). -/
def Scrub.nearLeft (k : Scrub) (m : Fin 12) : List Nat :=
  match k.working.findIdx? (· == m) with
  | none => []
  | some i =>
    let own := stationUnits k.extents m i k.working.length
    let mine := (List.range own.2).map (fun j => nearUnitNo i k.working.length j)
      ++ (k.inherited.filter (fun e => e.1 == m.1)).map (·.2)
    mine.drop (k.written m.1 - own.1)

/-- A failed station's near-store units pass to the lowest-numbered working station, which writes them after its own units,
from the failure on when those are already written; scrub_cycles takes the new end (R488). -/
def State.scrubLoses (s : State) (c : Fin 64) (m : Fin 12) : State :=
  match (s.ctx c).scrub with
  | none => s
  | some k =>
    if !k.phase2 || !k.working.contains m then s
    else
      match k.working.find? (fun w => s.stationUp w && w != m) with
      | none => s
      | some w =>
        let inherited := k.inherited ++ (k.nearLeft m).map (fun u => (w.1, u))
        let p := s.hub.dict.scrubInterval.toNat
        let ends := fun (t : Fin 12) => (assoc t.1 k.late).getD (scrubL1 (s.ctx c).scrubEntries.toNat + p * (match k.working.findIdx? (· == t) with
          | none => 0
          | some i => (stationUnits k.extents t i k.working.length).1 + (stationUnits k.extents t i k.working.length).2))
        let late := if (k.nearLeft m).isEmpty then k.late
          else (w.1, Nat.max (ends w) (s.now - k.began) + p * (k.nearLeft m).length) :: k.late.filter (fun e => e.1 != w.1)
        let last := (k.working.filter (fun t => s.stationUp t && t != m)).foldl (fun a t => Nat.max a ((assoc t.1 late).getD (ends t))) 0
        s.modCtx c (fun x =>
          { x with
            scrub := some { k with inherited := inherited, late := late }
            scrubCycles := BitVec.ofNat 64 (last + 64) })

/-- A memory station fails (R487, R488): event 0x9012 (the encoding of its cause is left open: a free value), contexts
whose atlas lies on it are aborted, tiles on their way to it stop their steps with RESOURCE_FENCED, cause STATION. -/
def State.failStation (s : State) (m : Fin 12) : State :=
  if !(s.station m).present || (s.station m).failed then s
  else
    let tiles := s.tilesAt m
    let hit := (allFin 64).filter (fun c => s.rootAddr c m != some 0 && ((s.ctx c).state == .opened || (s.ctx c).state == .closing))
    let d := s.draw
    let s1 := d.2.modStation m (fun x =>
      { x with failed := true, opens := [], closed := [], window := [], jobs := [], sessions := [], heldWrites := [], asked := [], seen := []
               grants := [] })
    let s2 := (s1.raise 0x9012 none (0x90 + m.1) d.1 0).modHub (fun h => { h with probed := h.probed.filter (· != .ms m) })
    let s3 : State := { s2 with net := s2.net.filter (fun t => t.dst != .ms m) }
    let s4 := s3.each tiles (fun t p => (t.failTile p.1 0x23 0x02 p.2).settleShares p.1)
    let s5 := s4.each hit (fun t c => t.abortCtx c 0x01)
    (s5.each (allFin 64) (fun t c => t.scrubLoses c m)).wakeAll

/-! ### Link stations (R489) -/

/-- A running SEND or MCAST that names link station `l`. -/
def State.namesLink (s : State) (x : Step) (l : Fin 16) : Bool :=
  match x.op with
  | some .send => wordField x.words 6 0 4 == l.1
  | some .mcast => (List.range (wordField x.words 7 0 7)).any (fun i =>
      wordField (s.near.read (wordField x.words 6 0 34 + 8 * i) 8) 0 36 4 == l.1)
  | _ => false

/-! The frames a link station holds. -/

/-- The words' valid bytes, in order. -/
def wordBytes (ws : List IngressWord) : Bytes := ws.flatMap (fun w => w.data.take w.valid.toNat)

/-- What the read side has read of a frame: the bytes that the parser has (R257, R259). -/
def RxFrame.bytes (f : RxFrame) : Bytes := wordBytes (f.words.take f.wordsRead)

/-- The verdict as far as it is known: bad for a frame that was cut or struck (R258, Table 14-4), else the controller's. -/
def RxFrame.outcome (f : RxFrame) : Option Bool := if f.whole && (f.cutShort || f.struck) then some true else f.verdict

/-- The header of a frame. -/
def RxFrame.header (f : RxFrame) : FrameHeader := FrameHeader.ofBytes f.bytes

/-- The RECV step a DATA frame is for: unfinished, of the frame's context, with its peer and tag; the oldest (R415). -/
def State.recvFor (s : State) (h : FrameHeader) : Option Step :=
  if h.dstEngine != s.ident.engineId.toNat then none
  else s.hub.steps.find? (fun x => x.op == some .recv && x.open && x.ctx.1 == h.dstContext && x.head.tag == h.tag
    && wordField x.words 6 46 18 == h.srcEngine && wordField x.words 6 40 6 == h.srcContext)

/-- A frame that a failed link station held takes the verdict it had, or bad: its tiles' holders are told, and the RECV step
that took it counts a bad one (R489, Table 11-16). -/
def State.judgeLost (s : State) (l : Fin 16) (f : RxFrame) : State :=
  if f.announced then s
  else
    let bad := f.outcome.getD true
    let s1 := s.each f.holders (fun u h => u.post (.ls l) h (.verdict f.number bad))
    if !(bad && f.matched && f.header.kind == 1) then s1
    else match s1.recvFor f.header with
      | some x => s1.modStep x.slot (fun y => { y with result := y.result + 1 })
      | none => s1

/-- A RECV step that took records from a failed link station ends behind the last of them: RESOURCE_FENCED, cause LINK
(R489; DEDUCED, assumption 103). One that has taken its whole chain goes on to its end. -/
def State.endRecv (s : State) (l : Fin 16) (x : Step) : State :=
  match assoc l.1 x.recvFrom with
  | some n =>
    let whole : Bool := match x.chain .dst with | some c => c.known && decide (c.tiles ≤ n) | none => false
    if x.running && x.op == some .recv && !whole then (s.failTile x.slot 0x23 0x03 n).settleShares x.slot else s
  | none => s

/-- The serving of peers' reads through a failed link station ends (R489). -/
def State.endServing (s : State) (l : Fin 16) : State :=
  let mine := fun (f : FetchRec) => match f.remoteFor with
    | some r => r.1 == l
    | none => false
  { s with
    net := s.net.filter (fun t => match t.body with
      | .fetch f | .atlas (.walk f) | .xlate f _ => !mine f
      | _ => true)
    stations := s.stations.map (fun m => { m with jobs := m.jobs.filter (fun j => match j.kind with
      | .readTile f _ _ => !mine f
      | _ => true) })
    slices := s.slices.map (fun x => { x with nOut := x.nOut.map (fun q => match q.purpose with
      | .tileRead f _ _ => if mine f then { q with purpose := .other } else q
      | _ => q) }) }

/-- A link station fails (R489): event 0x9013, its frames take the verdict bad, link steps that name it end with
RESOURCE_FENCED, cause LINK, and so do fetches through it; its serving of peers ends. -/
def State.failLink (s : State) (l : Fin 16) : State :=
  let k := s.link l
  if !k.present || k.failed then s
  else
    let d := s.draw
    let s1 := d.2.modLink l (fun x =>
      { x with failed := true, rx := [], dropping := false, tx := [], receivers := [], uncredited := [], requests := [], linkOut := [] })
    let s2 := (s1.raise 0x9013 none (0xA0 + l.1) d.1 0).modHub (fun h => { h with probed := h.probed.filter (· != .ls l) })
    let s3 : State := ({ s2 with net := s2.net.filter (fun t => t.dst != .ls l) } : State).endServing l
    let s4 := s3.each k.rx (fun t f => t.judgeLost l f)
    let s5 := s4.each (s.hub.steps.filter (fun x => x.running && s.namesLink x l)) (fun t x =>
      (((t.addCond x.slot 0x23 0x03 none).haltShares x.slot).modStep x.slot (fun y => { y with toDo := 0 })).settleShares x.slot)
    let s6 := s5.each s.hub.steps (fun t x => t.endRecv l x)
    s6.each k.requests (fun t r => (t.failTile r.fetch.slot 0x23 0x03 r.fetch.chainIdx).settleShares r.fetch.slot)

/-! ### The hub (R490) -/

/-- The hub fails: every key is zeroised with event 0x9019 (its arg0 is left open: a free value), every port output is
held low and sb_ready drops. -/
def State.failHub (s : State) : State :=
  let d := s.draw
  let s1 := d.2.zeroAllKeys.clearStage
  let s2 : State := { s1 with ctxs := s1.ctxs.map (fun x => { x with scrub := x.scrub.map (fun k => { k with key := 0 }) }) }
  let s3 := (s2.modHub (fun h => { h with scrubRoot := 0 })).raise 0x9019 none 0xC0 d.1 0
  { s3 with phase := .hubFailed, pins := { s3.pins with ready := false }, tally := { s3.tally with notReady := true } }

/-- A unit fails (R481, R482). -/
def State.failUnit (s : State) : UnitId → State
  | .slice n => s.fence n
  | .ms m => s.failStation m
  | .ls l => s.failLink l
  | .hub => s.failHub

/-! ### SRAM errors (R480) -/

/-- Counts a corrected or uncorrected error in its unit; link stations have no counter object. -/
def State.countSram (s : State) (u : UnitId) (correctable : Bool) : State :=
  match u with
  | .slice n => s.modSlice n (fun x => { x with corrected := x.corrected + b2n correctable, uncorrected := x.uncorrected + b2n (!correctable) })
  | .ms m => s.modStation m (fun x => { x with corrected := x.corrected + b2n correctable, uncorrected := x.uncorrected + b2n (!correctable) })
  | .ls _ => s
  | .hub => s.count (fun c => { c with hubCorrected := c.hubCorrected + b2n correctable, hubUncorrected := c.hubUncorrected + b2n (!correctable) })

/-- A slot whose stitch was struck: zeros, poisoned (Table 14-2, first row). -/
def zeroSlot (q : RoundSlot) : RoundSlot :=
  match q.content with
  | .tile t => { q with content := .tile { t with zeroed := true } }
  | _ => q

/-- The slot holds a tile whose content is not lost already. -/
def RoundSlot.holdsTile (q : RoundSlot) : Bool :=
  match q.content with
  | .tile t => !t.zeroed
  | _ => false

/-- A tile struck in staging: zeros, poisoned (Table 14-2, first row). -/
def strike (idx : Nat) (t : InTile) : InTile :=
  if t.chainIdx == idx then { t with data := zeros t.data.length, poison := true } else t

/-- Effect on a slice of an uncorrectable error (Table 14-4). A struck stitch is one integrity failure of its tile (R479). -/
def State.sliceError (s : State) (n : Fin 132) : SramPlace → State
  | .roundStitch step role pos =>
    (s.modShare n step (fun h => { h with rounds := h.rounds.map (fun r => if r.role == role then r.modSlot pos zeroSlot else r) })).countIntegrity
      (match (s.slice n).share step with
        | some h => sumNat (h.rounds.map (fun r => (r.slots.filter (fun q => r.role == role && q.pos == pos && q.holdsTile)).length))
        | none => 0)
  | .stagedTile step idx =>
    (s.modShare n step (fun h => { h with queue := h.queue.map (strike idx), block := h.block.map (fun b => { b with tiles := b.tiles.map (strike idx) }) })).countIntegrity
      (match (s.slice n).share step with
        | some h => ((h.queue ++ (h.block.map (·.tiles)).getD []).filter (fun t => t.chainIdx == idx && !t.poison)).length
        | none => 0)
  | .outStitch step idx =>
    let d := s.draw
    (d.2.modShare n step (fun h => { h with out := h.out.map (fun o =>
      if o.chainIdx == idx then { o with legend := { o.legend with poisoned := true }
                                         stitch := leBytes o.stitch.length d.1 } else o) })).countIntegrity
      (match (s.slice n).share step with
        | some h => (h.out.filter (fun o => o.chainIdx == idx)).length
        | none => 0)
  | .accumulator bank set way =>
    s.modSlice n (fun x => { x with banks := match finOf 2 bank with
      | none => x.banks
      | some b => vmod x.banks b (fun k => { k with sets := k.sets.map (fun e =>
          if e.1 == set then (e.1, modifyAt way (fun a => { a with poison := true }) e.2) else e) }) })
  | .contourRow row => s.modSlice n (fun x => { x with window := x.window.map (fun w => (w.1, w.2.1, modifyAt row (fun r => (r.1, true)) w.2.2)) })
  | .sliceControl => s.fence n
  | _ => s

/-- Effect on a memory station (Table 14-4). -/
def State.stationError (s : State) (m : Fin 12) : SramPlace → State
  | .windowData id g => s.modStation m (fun x => { x with window := x.window.map (fun o =>
      if o.id == id && !o.req.wr then { o with bad := (o.req.first + 64 * g) :: o.bad } else o) })
  | .stationControl => s.failStation m
  | _ => s

/-- Effect on a link station (Table 14-4). -/
def State.linkError (s : State) (l : Fin 16) : SramPlace → State
  | .fifoBank b => s.modLink l (fun x => { x with rx := x.rx.map (fun f => if f.bank == b && !f.released then { f with struck := true } else f) })
  | .linkControl => s.failLink l
  | _ => s

/-- Effect on the hub (Table 14-4). -/
def State.hubError (s : State) : SramPlace → State
  | .stepEntry slot => match s.step? slot with | some x => s.abortCtx x.ctx 0x01 | none => s
  | .contextState c => s.abortCtx c 0x01
  | .contextKey c previous =>
    (s.modCtx c (fun x => if previous then { x with prev := KeySlot.empty } else { x with cur := KeySlot.empty })).abortCtx c 0x01
  | .weightKey w =>
    let bound := (s.hub.weights[w.1]).bindMask.toNat
    (s.zeroWeight w).each ((allFin 64).filter (fun c => bitAt bound c.1)) (fun t c => t.abortCtx c 0x01)
  | .hubControl => s.failHub
  | _ => s

/-- A unit whose SRAM errors show: one that serves, or, from the start instant until sb_ready, one that has not failed
(Table 13-3, R462). -/
def State.takesPart (s : State) (u : UnitId) : Bool :=
  match s.phase, u with
  | .ready, _ => s.unitUp u
  | .starting, .ms m => (s.station m).present && !(s.station m).failed
  | .starting, .hub => true
  | .starting, _ => s.unitUp u
  | _, _ => false

/-- SRAM_ERROR: corrected and counted, or counted, raised as 0x9014 and given its effect by place (R480, Table 14-4). -/
def execSramError (u : UnitId) (correctable : Bool) (place : SramPlace) (addr : BitVec 32) (s : State) :
    Host.Outcome State Fault Refusal :=
  if !s.takesPart u then .next s
  else
    let s1 := s.countSram u correctable
    if correctable then .next s1
    else
      let s2 := s1.raise 0x9014 none (unitNo u) addr.toNat 0
      .next (match u with
        | .slice n => s2.sliceError n place
        | .ms m => s2.stationError m place
        | .ls l => s2.linkError l place
        | .hub => s2.hubError place)

/-! ### Probes (R481) -/

/-- Units the hub probes: every unit that has not failed. -/
def State.probeUnits (s : State) : List UnitId :=
  ((allFin 132).filter (fun n => (s.slice n).alive)).map .slice
    ++ ((allFin 12).filter (fun m => s.stationUp m)).map .ms ++ ((allFin 16).filter (fun l => s.linkUp l)).map .ls

/-- PROBE: the hub sends every unit a CTL probe (R481). -/
def execProbe (s : State) : Host.Outcome State Fault Refusal :=
  if !s.live then .next s
  else
    let us := s.probeUnits
    .next ((s.each us (fun t u => t.post .hub u (.ctl .probe))).modHub (fun h => { h with probed := us }))

/-- PROBE_TIMEOUT: a unit that has not answered has failed (R481). -/
def execProbeTimeout (u : UnitId) (s : State) : Host.Outcome State Fault Refusal :=
  if s.live && s.hub.probed.contains u then .next ((s.modHub (fun h => { h with probed := h.probed.filter (· != u) })).failUnit u)
  else .next s

end Sys2Proof.Machine
end

