-- ==== Sys2Proof/Machine/DictWrite.lean ====
section
/-! DEFINITION. The Holtia object dictionary, writing side: the checks of Table 12-4 in their order, the effect of each
accepted write, and the one path every H-port frame takes (R432 to R440, R450, R451). -/
namespace Sys2Proof.Machine

/-! ### Measurement (R376 to R378) -/

/-- Objects of 0x2000, 0x4000, 0x5000 and 0x6000 that are measured (R377), ascending. -/
def measuredPairs : List (Nat × Nat) :=
  [(0x2000, 0x10), (0x2000, 0x11), (0x2000, 0x12), (0x4000, 0x01), (0x4000, 0x02), (0x4000, 0x03), (0x4000, 0x10),
   (0x5000, 0x03), (0x5000, 0x04), (0x5000, 0x05), (0x5000, 0x06), (0x5000, 0x07), (0x6000, 0x06), (0x6000, 0x07)]

/-! ### Frames -/

/-- A request frame (Table 12-2). -/
structure HReq where
  op : Nat
  seq : Nat
  idx : Nat
  sub : Nat
  seg : Nat
  len : Nat
  value : Nat
deriving DecidableEq, Repr

/-- The fields of 128 frame bits. -/
def HReq.ofBits (x : Nat) : HReq :=
  { op := field x 0 8, seq := field x 8 8, idx := field x 16 16, sub := field x 32 8, seg := field x 40 16
    len := field x 56 8, value := field x 64 64 }

/-- A WRITE frame of a scalar of `w` bytes. -/
def writeFrame (seq : BitVec 8) (idx sub w value : Nat) : HReq :=
  { op := 2, seq := seq.toNat, idx := idx, sub := sub, seg := 0, len := w, value := value }

/-- The response frame (Table 12-3). -/
def HReq.response (f : HReq) (result value : Nat) : BitVec 128 :=
  BitVec.ofNat 128 (place (f.op % 128 + 128) 0 8 + place f.seq 8 8 + place f.idx 16 16 + place f.sub 32 8 + place f.seg 40 16
    + place result 56 8 + place value 64 64)

/-- READ_SEG and WRITE_SEG. -/
def HReq.segmented (f : HReq) : Bool := f.op == 3 || f.op == 4

/-- WRITE and WRITE_SEG. -/
def HReq.writes (f : HReq) : Bool := f.op == 2 || f.op == 4

/-- The bytes a write carries. -/
def HReq.bytes (f : HReq) : Bytes := leBytes (Nat.min f.len 8) f.value

/-! ### Checks -/

/-- Check 1 for an assigned pair (R436, Table 12-4). -/
def typeOk (o : Obj) (f : HReq) : Bool :=
  if f.segmented then o.ty.segmented && (f.op == 3 || (1 ≤ f.len && f.len ≤ 8))
  else f.op == 1 || (!o.ty.segmented && f.len == o.ty.width)

/-- No step of any context is dispatched and unfinished, or the block is QUIESCED (R433). -/
def State.quiescent (s : State) : Bool := s.hub.quiesce == .quiesced || s.hub.steps.all (fun x => !x.unfinished)

/-- A per-context object's window (R433, Table 10-1, R509). -/
def State.ctxWindow (s : State) (c : Fin 64) (idx sub : Nat) : Bool :=
  (s.stepsOf c).all (fun x => !x.unfinished)
    && (if idx == 0x3300 + c.1 then
          (if sub == 3 || sub == 4 then (s.ctx c).state == .free
           else if sub == 6 then (s.ctx c).state == .free || (s.ctx c).state == .opened else true)
        else if idx == 0x3100 + c.1 && 9 ≤ sub && sub ≤ 0x10 then
          !s.cqInUse c ⟨(sub - 1) % 4, Nat.mod_lt _ (by decide)⟩
        else true)

/-- The window of an RWB write (R433); only a per-context object's Effect narrows it. -/
def State.inWindow (s : State) (idx sub : Nat) : Bool :=
  match within 0x3100 64 idx, within 0x3200 64 idx, within 0x3300 64 idx with
  | some c, _, _ => s.ctxWindow c idx sub
  | _, some c, _ => s.ctxWindow c idx sub
  | _, _, some c => s.ctxWindow c idx sub
  | _, _, _ => s.quiescent

/-- Entries of a class's window partition: floors, then leftover entries by decreasing fraction, ties read, write,
remote (R286). -/
def partitionOf (split : Nat) (cls : ReqClass) : Nat :=
  let sh := shares split
  let parts := [(512 * sh.1) % 320, (512 * sh.2.1) % 320, (512 * sh.2.2) % 320]
  let left := 512 - (512 * sh.1 / 320 + 512 * sh.2.1 / 320 + 512 * sh.2.2 / 320)
  let rank := fun (i : Nat) => ((List.range 3).filter (fun j => parts.getD j 0 > parts.getD i 0 || (parts.getD j 0 == parts.getD i 0 && j < i))).length
  let mine := match cls with | .read => 0 | .write => 1 | .remote => 2
  let base := match cls with | .read => 512 * sh.1 / 320 | .write => 512 * sh.2.1 / 320 | .remote => 512 * sh.2.2 / 320
  base + (if rank mine < left then 1 else 0)

/-- R373's two conditions on scrub_interval P and the split. -/
def scrubFits (split p : Nat) : Bool :=
  2048 * 320 ≤ (shares split).2.1 * 1250 * p && ceilDiv 1024 p ≤ partitionOf split .write

/-- tension_split's own rule (R284). -/
def splitOk (v : Nat) : Bool :=
  !bitAt v 31 || (field v 16 7 != 0 && field v 8 7 != 0 && field v 0 7 != 0 && field v 16 7 + field v 8 7 + field v 0 7 == 64)

/-- Bits of v below 16 that name a station that cannot be enabled: absent or without a valid identity (Table 12-9). -/
def State.stationsOk (s : State) (v : Nat) : Bool :=
  (allFin 12).all (fun m => !bitAt v m.1 || ((s.station m).present && (s.station m).idValid))

/-- The same for link stations. -/
def State.linksOk (s : State) (v : Nat) : Bool := (allFin 16).all (fun l => !bitAt v l.1 || (s.link l).present)

/-- The bind_mask rules (Table 10-6): a bit set newly names an OPEN keyed context; a bit cleared names a context without
an unfinished step under the slot. -/
def State.bindOk (s : State) (w : Fin 16) (v : Nat) : Bool :=
  let old := (s.hub.weights[w.1]).bindMask.toNat
  (allFin 64).all (fun c =>
    (!(bitAt v c.1 && !bitAt old c.1) || ((s.ctx c).state == .opened && (s.ctx c).keyed))
      && (!(bitAt old c.1 && !bitAt v c.1) || !(s.stepsOf c).any (fun x => s.usesWeight x w.1)))

/-- Ring constraints (Table 08-1). -/
def State.ringOk (s : State) (c : Fin 64) (sub v : Nat) : Bool :=
  let r : Fin 4 := ⟨(sub - 1) % 4, Nat.mod_lt _ (by decide)⟩
  match (sub - 1) / 4 with
  | 0 => v % 4096 == 0
  | 1 => v == 0 || (4 ≤ v && v ≤ 16 && (s.ring c r).cqLog2 != 0)
  | 2 => v % 4096 == 0
  | _ => (v == 0 && !(s.ring c r).enabled) || (4 ≤ v && v ≤ 16)

/-- Check 6: values that Table 12-1 or the object's Effect refuses. -/
def State.valueOk (s : State) (o : Obj) (idx sub v : Nat) : Bool :=
  (o.ty != .bool || v ≤ 1) && match within 0x3100 64 idx, within 0x3200 64 idx, within 0x3300 64 idx, within 0x6200 16 idx with
  | some c, _, _, _ => s.ringOk c sub v
  | _, some _, _, _ =>
    (match sub with
      | 0x01 => v % 128 == 0 | 0x02 => v % 1024 == 0 | 0x03 => v % 4096 == 0 | 0x04 => v ≤ 2 ^ 20 - 1
      | 0x05 => v % 64 == 0 | 0x07 => v ≤ 4 | _ => true)
  | _, _, some _, _ =>
    (match sub with
      | 0x02 => 1 ≤ v && v ≤ 4 | 0x04 => v ≤ 2 | 0x06 => v % 16 == 0 | 0x07 => v ≤ 2 ^ 20 | _ => true)
  | _, _, _, some w => sub != 2 || s.bindOk w v
  | _, _, _, _ =>
    match idx, sub with
    | 0x2000, 0x01 => 1 ≤ v && v ≤ 3
    | 0x2000, 0x10 => s.stationsOk v
    | 0x2000, 0x11 => s.linksOk v
    | 0x2000, 0x21 => v ≤ 65536 && v % 8 == 0
    | 0x2000, 0x22 => 1 ≤ v && v ≤ 2
    | 0x4000, 0x01 => splitOk v && scrubFits v s.hub.dict.scrubInterval.toNat
    | 0x4000, 0x02 => 1 ≤ v && v ≤ 1000000
    | 0x4000, 0x03 => v ≤ 1000000
    | 0x4000, 0x10 => v % 512 == 0 && 512 ≤ v && v ≤ 65536
    | 0x5000, 0x05 => v ≤ 7
    | 0x5000, 0x06 => 1 ≤ v && v ≤ 16
    | 0x6000, 0x05 => v == 1
    | 0x6000, 0x06 => 8 ≤ v && v ≤ 1024 && scrubFits s.hub.dict.tensionSplit.toNat v
    | 0x6000, 0x07 => v % 64 == 0
    | 0x6000, 0x0B => 1 ≤ field v 24 8 && field v 24 8 ≤ 7
    | 0x7000, 0x07 => v == 1
    | 0xA000, 0x01 => v ≤ 1
    | 0xA000, 0x02 => v ≤ 2
    | 0xA000, 0x05 => 1 ≤ v && v ≤ 128
    | 0xA000, 0x06 => 1 ≤ v && v ≤ 10000000
    | 0xA000, 0x10 => v ≤ 131
    | _, _ => true

/-- Context of a key command (Table 10-4). -/
def keyCtx (v : Nat) : Fin 64 := ⟨field v 16 6, by unfold field; exact Nat.mod_lt _ (by decide)⟩

/-- Weight slot of a key command (Table 10-4). -/
def keySlot (v : Nat) : Fin 16 := ⟨field v 8 4, by unfold field; exact Nat.mod_lt _ (by decide)⟩

/-- Check 9 for a key command (Table 10-5). -/
def State.keyStateOk (s : State) (v : Nat) : Bool :=
  let x := s.ctx (keyCtx v)
  let w := s.hub.weights[(keySlot v).1]
  match field v 24 8 with
  | 0x01 => x.state == .opened && x.keyed && x.cur.state == .empty && x.prev.state == .empty
  | 0x02 => x.state == .opened && x.keyed && x.cur.state == .loaded
  | 0x03 => w.state == .empty
  | 0x04 => w.state == .loading && !s.hub.steps.any (fun y => y.open && s.isLoadStep y && y.head.weightSlot == (keySlot v).1)
  | 0x06 => w.state == .empty || !s.hub.steps.any (fun y => s.usesWeight y (keySlot v).1)
  | _ => true

/-- Logical slices that a segment write of swatch_control names (R176). -/
def swatchNamed (f : HReq) : List (Fin 128) :=
  (allFin 128).filter (fun l => 8 * f.seg ≤ l.1 / 8 && l.1 / 8 < 8 * f.seg + f.len && bitAt (f.value >>> (8 * (l.1 / 8 - 8 * f.seg))) (l.1 % 8))

/-- Check 9: the command is accepted in the present state. -/
def State.stateOk (s : State) (f : HReq) : Bool :=
  let v := f.value
  match within 0x3300 64 f.idx with
  | some c =>
    if f.sub != 2 then true
    else
      let st := (s.ctx c).state
      (match v with
        | 1 => st == .free
        | 2 => st == .free && s.tagFree c
        | 3 => st == .opened || st == .closing
        | _ => true)
  | none =>
    match f.idx, f.sub with
    | 0x2000, 0x22 => s.hub.quiesce == .quiesced && (v != 1 || s.hub.patchLength != 0)
    | 0x6000, 0x07 =>
      (allFin 64).all (fun c => !((s.ctx c).keyed && (s.ctx c).state != .free))
        && (allFin 16).all (fun w => (s.hub.weights[w.1]).state == .empty)
    | 0x6000, 0x0B => s.keyStateOk v
    | 0x7000, 0x08 => !s.hub.restoreFailed
    | 0xA000, 0x10 => (match finOf 132 v with | some n => (s.slice n).alive | none => false)
    | _, _ => true

/-- Check 10: a swatch test of a named slice is still running, or a lifetime record is in production (Table 12-11, R495). -/
def State.notBusy (s : State) (f : HReq) : Bool :=
  (f.idx != 0x7000 || f.sub != 7 || !s.hub.building) && (f.idx != 0x7000 || f.sub != 0x20 || (swatchNamed f).all (fun l => !((s.hub.swatch[l.1]).running && (s.physOf l.1).isSome)))

/-- A keyed context is not FREE (R378). -/
def State.anyKeyed (s : State) : Bool := (allFin 64).any (fun c => (s.ctx c).keyed && (s.ctx c).state != .free)

/-- Frames the last-word path still answers after a hub failure (R490, Table 12-5). -/
def lastWordFrame (f : HReq) : Bool :=
  if f.op == 1 || f.op == 3 then
    (f.idx == 0x2000 && f.sub == 2) || f.idx == 0x9000 || eventCodes.contains f.idx || f.idx == 0x8000
      || ((within 0xA100 132 f.idx).isSome && f.sub == 1)
  else f.op == 2 && f.idx == 0x6000 && f.sub == 5

/-- The result code of a frame: the first check of Table 12-4 that fails, or OK (R437). -/
def State.judge (s : State) (f : HReq) (rot : Bool) : Nat :=
  if s.phase == .hubFailed && !lastWordFrame f then 0x47
  else if !(1 ≤ f.op && f.op ≤ 4) then 0x43
  else match objOf s.hub.mirrorRecord.length f.idx f.sub with
    | none => 0x41
    | some o =>
      let v := f.value % 2 ^ (8 * f.len)
      if !typeOk o f then 0x43
      else if (f.writes && o.acc == .ro) || (!f.writes && o.acc == .wo) then 0x42
      else if !f.writes then 0x40
      else if !rot && (o.acc == .rws || (s.anyKeyed && measuredPairs.contains (f.idx, f.sub)) || (f.idx == 0x2000 && f.sub == 0x22)) then 0x46
      else if o.acc == .rwb && !s.inWindow f.idx f.sub then 0x45
      else if !f.segmented && !s.valueOk o f.idx f.sub v then 0x44
      else if f.idx == 0x6000 && f.sub == 0x0B && field v 24 8 < 5 && !s.pins.hLocked then 0x48
      else if f.idx == 0x6000 && f.sub == 0x0B && field v 24 8 == 2 && (s.ctx (keyCtx v)).prev.state != .empty then 0x22
      else if !s.stateOk { f with value := v } then 0x47
      else if !s.notBusy { f with value := v } then 0x49
      else 0x40

/-! ### Effects of accepted writes -/

/-- HALT of one dispatched step: ABORTED, cause LAST_WORD, once the tile on its D-port has ended (R491, R492). -/
def State.haltStep (s : State) (x : Step) : State :=
  let s1 := (s.addCond x.slot 0x3F 0x03 none).haltShares x.slot
  let s2 : State :=
    { s1 with net := s1.net.filter (fun t => match t.body with | .ctl (.dispatch h) => h.slot != x.slot | _ => true) }
  let sending := fun (l : Nat) => match s2.physOf l with
    | none => false
    | some n => (match (s2.slice n).sending with | some d => d.slot == x.slot | none => false)
  let done := (List.range x.slices.length).filter (fun j => !sending (x.slices.getD j 128))
  let s3 : State := { s2 with slices := s2.slices.map (fun y =>
    { y with dEnd := if y.sending.any (fun d => d.slot == x.slot) then y.dEnd else y.cutEnd x.slot
             shares := y.shares.filter (fun h => h.slot != x.slot || !done.contains h.j)
             decoding := match y.decoding with | some d => if d.slot == x.slot then none else some d | none => none
             frogQ := y.frogQ.filter (fun g => g.slot != x.slot) }) }
  s3.modStep x.slot (fun y => { y with doneShares := done ++ y.doneShares.filter (fun j => !done.contains j), toDo := 0, asked := [], miss := none })

/-- quiesce_command (Table 12-9, R491). -/
def State.quiesceCmd (s : State) (v : Nat) : State :=
  let drain := fun (t : State) =>
    (t.modHub (fun h => { h with quiesce := if h.quiesce == .running then .draining else h.quiesce })).settleQuiesce
  match v with
  | 1 => drain s
  | 2 => s.modHub (fun h => { h with quiesce := .running })
  | _ => drain (s.each (s.hub.steps.filter (fun x => x.running && x.target.isNone)) (fun t x => t.haltStep x))

/-- station_enable takes effect (R443): cleared stations fail, newly set ones return to service. -/
def State.setStations (s : State) (v : Nat) : State :=
  let old := s.hub.dict.stationEnable.toNat
  let s1 := s.each ((allFin 12).filter (fun m => bitAt old m.1 && !bitAt v m.1)) (fun t m => t.failStation m)
  let s2 := s1.each ((allFin 12).filter (fun m => !bitAt old m.1 && bitAt v m.1)) (fun t m =>
    t.modStation m (fun x => { x with failed := x.mVer == .disabled || x.fVer == .disabled }))
  s2.modHub (fun h => { h with dict := { h.dict with stationEnable := BitVec.ofNat 16 (v % 2 ^ 12) } })

/-- link_enable takes effect (R443). -/
def State.setLinks (s : State) (v : Nat) : State :=
  let old := s.hub.dict.linkEnable.toNat
  let s1 := s.each ((allFin 16).filter (fun l => bitAt old l.1 && !bitAt v l.1)) (fun t l => t.failLink l)
  let s2 := s1.each ((allFin 16).filter (fun l => !bitAt old l.1 && bitAt v l.1)) (fun t l =>
    t.modLink l (fun x => { x with failed := x.lVer == .disabled || x.fVer == .disabled }))
  s2.modHub (fun h => { h with dict := { h.dict with linkEnable := BitVec.ofNat 16 v } })

/-- patch_command (R508, Table 12-9). -/
def State.patchCmd (s : State) (v : Nat) : State :=
  if v == 1 then
    let s1 := s.modHub (fun h => { h with patchActive := some (h.patchImage.read 0 h.patchLength.toNat) })
    let s2 := s1.measureNow
    s2.raise 0x901A none 0xC0 s2.hub.patchLength.toNat s2.hub.measureSeq.toNat
  else s.modHub (fun h => { h with patchActive := none })

/-- An accepted key command (Table 10-5); the staging registers are cleared by the frame path. -/
def State.keyCmd (s : State) (v : Nat) : State :=
  let c := keyCtx v
  let w := keySlot v
  let t := s.modHub (fun h => { h with keyCommand := BitVec.ofNat 32 (place (field v 24 8) 24 8 + place (field v 16 6) 16 6 + place (field v 8 4) 8 4) })
  match field v 24 8 with
  | 0x01 => t.loadKey c
  | 0x02 => t.rotateKey c
  | 0x03 => t.loadWeightKey w
  | 0x04 => t.modHub (fun h => { h with weights := vmod h.weights w (fun x => { x with state := .sealed }) })
  | 0x05 => ((t.abortCtx c 0x01).modCtx c Context.zeroKeys).raise 0x9019 none 0xC0 2 c.1
  | 0x06 => (t.zeroWeight w).raise 0x9019 none 0xC0 3 w.1
  | _ => t.measureNow

/-- ctx_command (Tables 10-1 and 10-2); ABORT over the last-word path carries cause LAST_WORD (R492). -/
def State.ctxCmd (s : State) (c : Fin 64) (v : Nat) : State :=
  match v with
  | 1 => s.openCtx c false
  | 2 => s.openCtx c true
  | 3 => s.closeCtx c
  | _ => s.abortCtx c 0x03

/-! ### Lifetime data (R494 to R497) -/

/-- The lifetime record from the latched counters (Table 14-8, R368). -/
def State.lifetimeRecord (s : State) (seq : Nat) : Bytes :=
  let k := s.hub.latched
  let c8 := fun n => leBytes 8 (counterRead 8 n)
  let c4 := fun n => leBytes 4 (counterRead 4 n)
  let pairs := fun (l : List (Nat × Nat)) (n : Nat) => (List.range n).flatMap (fun i => let e := errorPair l i; c4 e.1 ++ c4 e.2)
  let body := c8 k.powerOnS ++ c4 k.fences ++ c4 k.thermalTrips ++ c8 k.integrity ++ c8 k.escG6 ++ c8 k.escG8 ++ c8 k.escPass
    ++ c8 k.clippedTiles ++ zeros 184 ++ pairs k.sliceErrors 132 ++ zeros 224 ++ pairs k.stationErrors 12
    ++ c4 k.hubCorrected ++ c4 k.hubUncorrected ++ zeros 152 ++ k.latency.toList.flatMap c8 ++ zeros 63488
  leBytes 2 0x1F5E ++ leBytes 2 1 ++ leBytes 2 0x0301 ++ zeros 2 ++ leBytes 4 seq ++ leBytes 4 (crc32c body) ++ body

/-- Builds a lifetime record, which carries checkpoint_seq as it stands at production, and then increments it (R495; that
the record is in production until the next counter tick is assumption 29). -/
def State.checkpoint (s : State) : State :=
  let seq := s.hub.checkpointSeq + 1
  let readAll := (List.range 8192).all (fun k => s.hub.readSegments.contains k)
  let first := s.hub.checkpointSeq == 0
  let s1 := s.modHub (fun h =>
    { h with checkpointRecord := Mem.write [] 0 (s.lifetimeRecord s.hub.checkpointSeq.toNat), checkpointSeq := seq, readSegments := []
             building := true, checkpointDue := false })
  s1.raise 0x9017 none 0xC0 seq.toNat (b2n (!(readAll && !first)))

/-- The checks of R497 on a restored record. -/
def State.restoreOk (s : State) (r : Bytes) : Bool :=
  leAt r 0 2 == 0x1F5E && leAt r 2 2 == 1 && crc32c (r.drop 16) == leAt r 12 4 && byteAt r 5 == 0x03 && !s.hub.restored
    && s.hub.checkpointSeq == 0

/-- Adds a record's values to the lifetime counters (R497). -/
def Counters.plus (k : Counters) (r : Bytes) : Counters :=
  { k with
    powerOnS := k.powerOnS + leAt r 0x10 8, fences := k.fences + leAt r 0x18 4, thermalTrips := k.thermalTrips + leAt r 0x1C 4
    integrity := k.integrity + leAt r 0x20 8, escG6 := k.escG6 + leAt r 0x28 8, escG8 := k.escG8 + leAt r 0x30 8
    escPass := k.escPass + leAt r 0x38 8, clippedTiles := k.clippedTiles + leAt r 0x40 8
    hubCorrected := k.hubCorrected + leAt r 0x660 4, hubUncorrected := k.hubUncorrected + leAt r 0x664 4
    latency := Vector.ofFn (fun i : Fin 32 => k.latency[i.1] + leAt r (0x700 + 8 * i.1) 8) }

/-- The last segment of lifetime_restore has been written: the record is checked and applied, or further segment writes
are refused (R497). -/
def State.restore (s : State) : State :=
  let r := s.hub.restoreImage.read 0 65536
  if s.restoreOk r then
    let s1 := s.modHub (fun h => { h with counters := h.counters.plus r, restored := true })
    { s1 with
      slices := Vector.ofFn (fun n : Fin 132 =>
        { s1.slices[n.1] with corrected := (s1.slices[n.1]).corrected + leAt r (0x100 + 8 * n.1) 4
                              uncorrected := (s1.slices[n.1]).uncorrected + leAt r (0x104 + 8 * n.1) 4 })
      stations := Vector.ofFn (fun m : Fin 12 =>
        { s1.stations[m.1] with corrected := (s1.stations[m.1]).corrected + leAt r (0x600 + 8 * m.1) 4
                                uncorrected := (s1.stations[m.1]).uncorrected + leAt r (0x604 + 8 * m.1) 4 }) }
  else s.modHub (fun h => { h with restoreFailed := true })

/-! ### Swatch (R176, R177) -/

/-- The swatch test can run on a slice: it holds no context's partition, or its context's partition gives contour at
least 1 MiB (R177). -/
def State.swatchRuns (s : State) (n : Fin 132) : Bool :=
  match (s.slice n).bound with
  | none => true
  | some c => (s.ctx c).partition != 2

/-- Starts the swatch test on logical slices (R176, R177). One without a physical slice reports the test as skipped. -/
def State.startSwatch (s : State) (ls : List (Fin 128)) : State :=
  s.each ls (fun t l =>
    let w : Swatch := match t.physOf l.1 with
      | none => { pass := 0, done := true, skipped := true, running := false }
      | some n => { pass := 0, done := false, skipped := !t.swatchRuns n, running := true }
    t.modHub (fun h => { h with swatch := vmod h.swatch l (fun _ => w) }))

/-! ### Applying a write -/

/-- Ring objects (Table 08-1, R509). -/
def State.writeRing (s : State) (c : Fin 64) (sub v : Nat) : State :=
  let r : Fin 4 := ⟨(sub - 1) % 4, Nat.mod_lt _ (by decide)⟩
  match (sub - 1) / 4 with
  | 0 => s.modRing c r (fun k => { k with sqBase := BitVec.ofNat 64 v })
  | 1 =>
    if v == 0 then s.disableRing c r
    else if (s.ring c r).sqLog2 == 0 then s.enableRing c r (BitVec.ofNat 8 v)
    else s.modRing c r (fun k => { k with sqLog2 := BitVec.ofNat 8 v })
  | 2 => s.modRing c r (fun k => { k with cqBase := BitVec.ofNat 64 v })
  | _ => s.modRing c r (fun k => { k with cqLog2 := BitVec.ofNat 8 v })

/-- Atlas objects (Table 09-1); reserved bits of a remote grant read as zero (R12). -/
def State.writeAtlas (s : State) (c : Fin 64) (sub v : Nat) : State :=
  s.modCtx c (fun x => { x with atlas :=
    let a := x.atlas
    match sub with
    | 0x01 => { a with roots := BitVec.ofNat 64 v }
    | 0x02 => { a with pool := BitVec.ofNat 64 v }
    | 0x03 => { a with shareTable := BitVec.ofNat 64 v }
    | 0x04 => { a with shareRecords := BitVec.ofNat 32 v }
    | 0x05 => { a with gazBase := BitVec.ofNat 64 v }
    | 0x06 => { a with gazEntries := BitVec.ofNat 32 v }
    | 0x07 => { a with gazSpan := BitVec.ofNat 8 v }
    | _ => match finOf 4 (sub - 8) with
      | some i => { a with grants := a.grants.set i.1 (BitVec.ofNat 32 (place (field v 31 1) 31 1 + field v 0 24)) i.2 }
      | none => a })

/-- Context control objects (Table 10-1). -/
def State.writeContext (s : State) (c : Fin 64) (sub v : Nat) : State :=
  match sub with
  | 0x02 => s.ctxCmd c v
  | 0x03 => s.modCtx c (fun x => { x with tag := BitVec.ofNat 16 v })
  | 0x04 => s.modCtx c (fun x => { x with partition := BitVec.ofNat 8 v })
  | 0x06 => s.modCtx c (fun x => { x with scrubTable := BitVec.ofNat 64 v })
  | 0x07 => s.modCtx c (fun x => { x with scrubEntries := BitVec.ofNat 32 v })
  | _ => s

/-- A block-wide setting held in the dictionary. -/
def Dict.put (d : Dict) (idx sub v : Nat) : Dict :=
  match idx, sub with
  | 0x2000, 0x12 => { d with remoteServe := v == 1 }
  | 0x4000, 0x01 => { d with tensionSplit := BitVec.ofNat 32 (place (field v 31 1) 31 1 + place (field v 16 7) 16 7 + place (field v 8 7) 8 7 + field v 0 7) }
  | 0x4000, 0x02 => { d with quantumUs := BitVec.ofNat 32 v }
  | 0x4000, 0x03 => { d with switchIdleNs := BitVec.ofNat 32 v }
  | 0x4000, 0x10 => { d with cutThrough := BitVec.ofNat 32 v }
  | 0x5000, 0x03 => { d with escThreshold := BitVec.ofNat 16 v }
  | 0x5000, 0x04 => { d with escRateLimit := BitVec.ofNat 16 v }
  | 0x5000, 0x05 => { d with effortDefault := BitVec.ofNat 8 v }
  | 0x5000, 0x06 => { d with blockTiles := BitVec.ofNat 8 v }
  | 0x5000, 0x07 => { d with autoDensity := BitVec.ofNat 16 v }
  | 0x6000, 0x06 => { d with scrubInterval := BitVec.ofNat 16 v }
  | 0x6000, 0x07 => { d with counterSheet := BitVec.ofNat 64 v }
  | 0x9000, 0x04 => { d with eventLogEnable := v == 1 }
  | 0xA000, 0x01 => { d with governorPinned := v == 1 }
  | 0xA000, 0x02 => { d with opPointMax := BitVec.ofNat 8 v }
  | 0xA000, 0x05 => { d with minReady := BitVec.ofNat 8 v }
  | 0xA000, 0x06 => { d with dormantUs := BitVec.ofNat 32 v }
  | 0xA000, 0x07 => { d with offMs := BitVec.ofNat 32 v }
  | _, _ => d

/-- governor_mode set to PINNED wakes every mapped DORMANT and OFF slice at once (R469). -/
def State.pin (s : State) (pinned : Bool) : State :=
  (allFin 132).foldl (fun t n => t.modSlice n (fun x =>
    { x with waking := x.waking || (pinned && (x.power == .dormant || x.power == .off) && (s.logicalOf n).isSome) })) s

/-- A scalar write takes effect. -/
def State.writeScalar (s : State) (idx sub v : Nat) : State :=
  match within 0x3100 64 idx, within 0x3200 64 idx, within 0x3300 64 idx, within 0x6200 16 idx with
  | some c, _, _, _ => s.writeRing c sub v
  | _, some c, _, _ => s.writeAtlas c sub v
  | _, _, some c, _ => s.writeContext c sub v
  | _, _, _, some w => s.modHub (fun h => { h with weights := vmod h.weights w (fun x => { x with bindMask := BitVec.ofNat 64 v }) })
  | _, _, _, _ =>
    match idx, sub with
    | 0x2000, 0x01 => s.quiesceCmd v
    | 0x2000, 0x10 => s.setStations v
    | 0x2000, 0x11 => s.setLinks v
    | 0x2000, 0x21 => s.modHub (fun h => { h with patchLength := BitVec.ofNat 32 v })
    | 0x2000, 0x22 => s.patchCmd v
    | 0x6000, 0x05 => s.zeroiseEverything
    | 0x6000, 0x0A => s.modHub (fun h => { h with loadNonce := BitVec.ofNat 64 v })
    | 0x6000, 0x0B => s.keyCmd v
    | 0x7000, 0x07 => s.checkpoint
    | 0xA000, 0x01 => (s.modHub (fun h => { h with dict := h.dict.put idx sub v })).pin (v == 1)
    | 0xA000, 0x10 => (match finOf 132 v with | some n => s.fence n | none => s)
    | _, _ => (s.modHub (fun h => { h with dict := h.dict.put idx sub v })).settleOpReq

/-- A 16-byte register with bytes written from `off`; bytes beyond its end have no effect (R436). -/
def patchBits (x : Nat) (off : Nat) (bs : Bytes) : Nat := leNat ((overwrite (leBytes 16 x) off bs).take 16)

/-- A segment write takes effect: `length` bytes at offset 8k, none beyond the object's length (R436). -/
def State.writeSegment (s : State) (f : HReq) : State :=
  let off := 8 * f.seg
  let bs := f.bytes
  let small := fun (set : Nat → Hub → Hub) (old : Nat) => if off ≥ 16 then s else s.modHub (set (patchBits old off bs))
  match f.idx, f.sub with
  | 0x2000, 0x20 => s.modHub (fun h => { h with patchImage := h.patchImage.write off (bs.take (65536 - off)) })
  | 0x6000, 0x08 => small (fun v h => { h with keyStageLo := BitVec.ofNat 128 v }) s.hub.keyStageLo.toNat
  | 0x6000, 0x09 => small (fun v h => { h with keyStageHi := BitVec.ofNat 128 v }) s.hub.keyStageHi.toNat
  | 0x6000, 0x0C => small (fun v h => { h with scrubRoot := BitVec.ofNat 256 (h.scrubRoot.toNat / 2 ^ 128 * 2 ^ 128 + v) }) (s.hub.scrubRoot.toNat % 2 ^ 128)
  | 0x6000, 0x0D => small (fun v h => { h with scrubRoot := BitVec.ofNat 256 (h.scrubRoot.toNat % 2 ^ 128 + v * 2 ^ 128) }) (s.hub.scrubRoot.toNat / 2 ^ 128)
  | 0x7000, 0x08 =>
    let s1 := s.modHub (fun h => { h with restoreImage := h.restoreImage.write off (bs.take (65536 - off)) })
    if f.seg == 8191 then s1.restore else s1
  | 0x7000, 0x20 => s.startSwatch (swatchNamed f)
  | _, _ => s

/-- A write takes effect; a changed measured object makes the measurement stale (R378). -/
def State.applyWrite (s : State) (f : HReq) : State :=
  let v := f.value % 2 ^ (8 * f.len)
  if f.segmented then s.writeSegment f
  else
    let t := s.writeScalar f.idx f.sub v
    if measuredPairs.contains (f.idx, f.sub) && t.readScalar f.idx f.sub != s.readScalar f.idx f.sub
    then t.modHub (fun h => { h with stale := true }) else t

/-- What reading does besides returning a value: the event log's removal rule (R449) and the root of trust's reading of
the lifetime record (R495). -/
def State.readEffect (s : State) (f : HReq) (rot : Bool) : State :=
  if f.op == 3 && f.idx == 0x9000 && f.sub == 2 then
    if f.seg == 0 then s.modHub (fun h => { h with logPeeked := true })
    else if f.seg == 1 && s.hub.logPeeked then s.modHub (fun h => { h with log := h.log.drop 1, logPeeked := false })
    else s.modHub (fun h => { h with logPeeked := false })
  else if f.idx == 0x9000 then s.modHub (fun h => { h with logPeeked := false })
  else if f.op == 3 && f.idx == 0x7000 && f.sub == 6 && rot then
    s.modHub (fun h => { h with readSegments := if h.readSegments.contains f.seg then h.readSegments else f.seg :: h.readSegments })
  else s

/-- The value an accepted frame's response carries (Table 12-3). -/
def State.frameValue (s : State) (f : HReq) : Nat :=
  match objOf s.hub.mirrorRecord.length f.idx f.sub with
  | none => 0
  | some o =>
    if f.op == 1 then (if o.ty.segmented then o.ty.width else s.readScalar f.idx f.sub)
    else if f.op == 3 then leNat (s.readBlob f.idx f.sub (8 * f.seg) 8)
    else 0

/-- One H-port frame (R434 to R437, R425): judged, then applied; the response is what the H-port shows next. A key command
clears the staging registers whether it was accepted or refused (R346); a frame refused TYPE or NOT_ROT was no key command. Before sb_ready no frame is accepted (R462). The request
and the response are a beat each (R474). -/
def State.hFrame (s : State) (f : HReq) (rot : Bool) : State :=
  if s.phase != .ready && s.phase != .hubFailed then s
  else
    let code := s.judge f rot
    let value := if code == 0x40 then s.frameValue f else 0
    let s1 := if code != 0x40 then (if f.idx == 0x9000 then s.modHub (fun h => { h with logPeeked := false }) else s)
      else if f.writes then (if f.idx == 0x9000 then (s.applyWrite f).modHub (fun h => { h with logPeeked := false }) else s.applyWrite f)
      else s.readEffect f rot
    let s2 := if f.op == 2 && f.idx == 0x6000 && f.sub == 0x0B && code != 0x43 && code != 0x46 then s1.clearStage else s1
    (s2.modHub (fun h => { h with response := some (f.response code value) })).spend 8 2

end Sys2Proof.Machine
end

