-- ==== Sys2Proof/Machine/Grants.lean ====
section
/-! DEFINITION. The walker of a share: which chain positions it skips, marks or grants, and the fetches that follow
(R178 to R185, R197, R199, R243, R245 to R247, R253, R254, R299, R313, R327). -/
namespace Sys2Proof.Machine

/-! ### What the walker sees of a page (Table 09-5, R183) -/

/-- What the walker finds at a tile without its stitch. -/
inductive Peek where
  | fetch
  | absent
  | frogged (cookie : Nat)
  | bad (cause : Nat)
deriving DecidableEq, Repr

/-- Check 7 over the legends of a page: the first cause in tile order (R183). -/
def pageCause (word : Option Nat) (ls : List (Nat × Legend)) : Option Nat :=
  ls.findSome? (fun p => match check7 (word.map (fun w => bitAt w p.1)) p.2 with
    | .metadata c => some c
    | _ => none)

/-- The key that opens a load's image: the weight slot the load names (R364). -/
def State.imageKey (s : State) (x : Step) : Bytes :=
  match finOf 16 x.head.weightSlot with
  | some w => keyBytes (s.hub.weights[w.1]).key
  | none => zeros 32

/-- The legend of tile `t` of the page of a load's tile (chain index `i`, tile `no`) in clear: image form under its own chain
index. A tile of the page that the source chain does not reach next to the given one has no chain index to open it with,
and stands as absent (R364, R365). -/
def State.imageTile (s : State) (x : Step) (chain : Option Chain) (i no t : Nat) (stored : Bytes) : Bytes :=
  let n := i + t - no % 16
  let reached : Bool := match chain with
    | some c => no % 16 ≤ i + t && c.tileAt n == some (no / 16 * 16 + t)
    | none => false
  if reached then imageLegend (s.imageKey x) n stored else (absentLegend 0 2 0 0).toBytes

/-- Clear legends of a RESIDENT or NEAR page that a step reaches at tile `no`, chain index `i`, by number. A legend whose key
is in no slot cannot be opened and is left out: a read of its own tile fails check 3 (R356). -/
def State.clearLegends (s : State) (x : Step) (load : Bool) (i no : Nat) (l : Leaf) (lay : Layout) : List (Nat × Legend) :=
  (List.range 16).filterMap (fun t =>
    let a := l.legendAddr + legendOffset lay l.tileMap t
    let raw := match finOf 12 l.station with | some m => (s.readStack m a 32).1 | none => zeros 32
    if l.state == 2 then some (t, (Legend.ofBytes (s.readNear a 32).1).asVersion4)
    else match finOf 12 l.station with
      | none => none
      | some m =>
        if load then some (t, (Legend.ofBytes (s.imageTile x (x.chain .src) i no t raw)).asVersion4)
        else if !(s.ctx x.ctx).keyed then some (t, (Legend.ofBytes raw).asVersion4)
        else (s.tileKey x.ctx (Legend.ofBytes raw) (s.versionFor m l.stitchBase t)).map (fun k =>
          (t, (Legend.ofBytes (clearLegend k m a raw)).asVersion4)))

/-- The reader a step is to the tiles of its own pages (R64 checks 1 to 3, R366). -/
def State.stepReader (s : State) (x : Step) : Reader :=
  let c := s.ctx x.ctx
  { keyed := c.keyed, tag := c.tag.toNat, gens := c.gens, boundSlots := s.boundSlots x.ctx, weightKey := (s.keyUse x).1
    weightSlot := (s.keyUse x).2, load := false, remote := false }

/-- The legend of tile `t` of a RESIDENT or NEAR page shows an absent tile: it can be read, it is whole, and it passes
every check of a reader (R64, R185). Any other legend is left to the fetch, which finds what is wrong with it. -/
def State.seesAbsent (s : State) (x : Step) (f : StreamFmt) (l : Leaf) (lay : Layout) (t : Nat) : Bool :=
  let a := l.legendAddr + legendOffset lay l.tileMap t
  let passes := fun (bs : Bytes) =>
    let raw := Legend.ofBytes bs
    let g := raw.asVersion4
    g.fmt == Fmt.absent.code && checks123 (s.stepReader x) g == .pass && checks5to9 f none none false raw g == .pass
  if l.state == 2 then
    let r := s.readNear a 32
    !r.2 && passes r.1
  else match finOf 12 l.station with
    | none => false
    | some m =>
      let r := s.readStack m a 32
      !r.2 && (match s.tileKey x.ctx (Legend.ofBytes r.1) (s.versionFor m l.stitchBase t) with
        | none => passes r.1
        | some k => tagGood k m a [] r.1 && passes (clearLegend k m a r.1))

/-- What has to be read before the walker can look at tile `t` of a stream: the walk, and the legends of a dense or variable
page with its version (R183, R301, R348). -/
def State.peekLooks (s : State) (x : Step) (f : StreamFmt) (t : Nat) : List Look :=
  s.walkLooks x.ctx (t / 16) ++ (match s.walk x.ctx (t / 16) with
    | .leaf l _ _ =>
      if f.layout == .packed || l.layout != f.layout.code then []
      else match l.page, finOf 12 l.station with
        | some .resident, some m => s.versionLooks x.ctx m l.stitchBase ++ [stackLook m .legend l.legendAddr 512]
        | some .near, _ => [nearLook (homeOf x.ctx (t / 16)) l.legendAddr 512]
        | _, _ => []
    | _ => [])

/-- What the walker finds at logical tile `t`, chain index `i`, of a stream; `word` is the step's effective word of the page,
none without a mask: check 7 goes over all sixteen legends of a dense or variable page (R180, R183, R185). What it cannot
see here, the fetch finds. -/
def State.peek (s : State) (x : Step) (load : Bool) (f : StreamFmt) (word : Option Nat) (i t : Nat) : Peek :=
  let masked := match word with | some w => !bitAt w (t % 16) | none => false
  let rest := if masked then Peek.absent else .fetch
  match s.walk x.ctx (t / 16) with
  | .leaf l _ _ =>
    match l.page, Layout.ofCode l.layout with
    | some .absent, _ => .absent
    | some .frogged, _ => .frogged l.cookie
    | some .resident, some lay | some .near, some lay =>
      if lay != f.layout then rest
      else if lay == .packed then
        match word with
        | some w => if w != l.tileMap then .bad 0x04 else rest
        | none => if bitAt l.tileMap (t % 16) then .fetch else .absent
      else match pageCause word (s.clearLegends x load i t l lay) with
        | some cause => .bad cause
        | none => if word.isNone && !load && s.seesAbsent x f l lay (t % 16) then .absent else rest
    | _, _ => rest
  | _ => rest

/-! ### Room (R243, R247) -/

/-- Retain index of a round: marks hold back the rounds of the sources, never the reference's. -/
def Share.retainOf (h : Share) (r : Round) : Nat := if r.role == .ref then r.done else retain h r

/-- Positions that earlier passes of the same persistent stream still take in the round of a role (R239). -/
def State.passTaken (s : State) (n : Fin 132) (x : Step) (h : Share) (role : Role) : Nat :=
  if !isPass x.words then 0
  else sumNat (((s.slice n).shares.filter (fun g => g.ctx == h.ctx && g.slot != h.slot)).map (fun g => match s.step? g.slot, g.round role with
    | some y, some r => if isPass y.words && y.order < x.order && streamNoOf (y.op.getD .nop) y.words == streamNoOf (x.op.getD .nop) x.words
        then r.granted - g.retainOf r else 0
    | _, _ => 0))

/-- The next position may be granted: k < u + n. -/
def State.hasSlot (s : State) (n : Fin 132) (x : Step) (h : Share) (r : Round) : Bool :=
  r.granted + s.passTaken n x h r.role < h.retainOf r + r.depth

/-- The share whose marks hold back the round: the earliest pass of the same persistent stream that still takes positions in
it, or the share itself (R239, R247). -/
def State.roundHolder (s : State) (n : Fin 132) (x : Step) (h : Share) (r : Round) : Share × Round :=
  let earlier := if !isPass x.words then [] else (s.slice n).shares.filterMap (fun g =>
    if g.ctx != h.ctx || g.slot == h.slot then none
    else match s.step? g.slot, g.round r.role with
      | some y, some q =>
        if isPass y.words && y.order < x.order && streamNoOf (y.op.getD .nop) y.words == streamNoOf (x.op.getD .nop) x.words
            && retain g q < q.granted then some (y.order, g, q) else none
      | _, _ => none)
  match earlier.find? (fun a => earlier.all (fun b => a.1 ≤ b.1)) with
  | some e => e.2
  | none => (h, r)

/-- Drops the soft marks that hold the round at `u` (R247), unless a hard mark stands there too: then dropping them would gain
no slot, and they stay (DESIGN CHOICE, assumption 116). -/
def State.dropMarks (s : State) (n : Fin 132) (h : Share) (r : Round) : State :=
  let u := h.retainOf r
  let here := h.marks.filter (fun m => m.pos == u)
  if here.isEmpty || here.any (·.hard) then s
  else
    let idx := match r.at? u with | some q => q.chainIdx | none => u
    let s1 := s.modShare n h.slot (fun g => { g with marks := g.marks.filter (fun m => m.pos != u) })
    let s2 := s1.each here (fun t _ => t.raise 0x9002 (some h.ctx) n.1 h.tag idx)
    s2.progress n h.slot (fun rep => { rep with flags := { markDropped := true } })

/-- Goes on with a position when the round has room for it, after the marks of R247 have been dropped when only they, the
share's own or an earlier pass's, hold the round. -/
def State.withSlot (s : State) (n : Fin 132) (x : Step) (h : Share) (r : Round) (go : State → State) : State :=
  if s.hasSlot n x h r then go s
  else
    let k := s.roundHolder n x h r
    let s1 := s.dropMarks n k.1 k.2
    match (s1.slice n).share h.slot with
    | some g => if s1.hasSlot n x g r then go s1 else s1
    | none => s1

/-! ### Walking -/

/-- Moves the walker of a round past its tile. -/
def State.advance (s : State) (n : Fin 132) (slot : Nat) (r : Role) : State :=
  s.modShare n slot (fun h => h.modRound r (fun q => { q with walk := q.walk + 1 }))

/-- Grants the next position of a round to chain index `i` with a content (R243). -/
def State.giveSlot (s : State) (n : Fin 132) (slot : Nat) (r : Role) (i : Nat) (content : SlotContent) : State :=
  s.modShare n slot (fun h => h.modRound r (fun q =>
    { q with granted := q.granted + 1, walk := q.walk + 1
             slots := q.slots ++ [{ pos := q.granted, walkPos := q.walk, chainIdx := i, content := content }] }))

/-- The chain index of the first tile of the step on page `p`, no later than `i` (R313). -/
def firstOnPage (c : Chain) (p i : Nat) : Nat :=
  ((List.range (i + 1)).find? (fun k => c.tileAt k == none || (c.tileAt k).any (fun t => t / 16 == p))).getD i

/-- A frogged tile: one marker for its page on this slice, and the hub's list of a gather's frogged pages (R313, R322). -/
def State.meetFrog (s : State) (n : Fin 132) (x : Step) (h : Share) (r : Role) (i t cookie : Nat) : State :=
  let p := t / 16
  let first := match x.chain r with | some c => firstOnPage c p i | none => i
  let sq := sequenceOf x.seqLens 0 i
  let s2 := if h.frogPages.contains p then s
    else
      let s3 := s.modShare n x.slot (fun g => { g with frogPages := p :: g.frogPages })
      let s4 := s3.modSlice n (fun y =>
        { y with frogQ := y.frogQ ++ [{ slot := x.slot, cookie := cookie, index := first, seqIdx := if x.op == some .gather then sq else 0 }] })
      s4.progress n x.slot (fun rep => { rep with flags := { frogged := true }, conds := [{ status := 0x04, cause := 0, tile := some first }] })
  if x.op == some .gather && !x.frogList.any (fun e => e.1 == p && e.2.1 == sq) then
    s2.modStep x.slot (fun y => { y with countB := y.countB + 1, frogList := y.frogList ++ [(p, sq, cookie)] })
  else s2

/-- Meets the frogged pages of a tile, or of both tiles of a pair, each given by role, tile and cookie. -/
def State.meetFrogs (s : State) (n : Fin 132) (x : Step) (i : Nat) (fs : List (Role × Nat × Nat)) : State :=
  s.each fs (fun t f => match (t.slice n).share x.slot with
    | some h => t.meetFrog n x h f.1 i f.2.1 f.2.2
    | none => t)

/-- Fetches a granted tile: the slice's GRANT and the hub's FETCH go to the page's home station (R243, R299). -/
def State.fetchTile (s : State) (n : Fin 132) (x : Step) (r : Role) (i t pos : Nat) (word : Option Nat) : State :=
  let m := homeOf x.ctx (t / 16)
  let f : FetchRec := { slot := x.slot, ctx := x.ctx, chainIdx := i, tileNo := t, slice := n, role := r, pos := pos
                        mapWord := word, leaf := none, remoteFor := none }
  (s.post (.slice n) (.ms m) (.grant x.slot r pos)).post .hub (.ms m) (.fetch f)

/-- The popped entry's credit goes back to its producer: a slice, or the link station of a RECV step (R253, R254). -/
def State.returnCredit (s : State) (n : Fin 132) (slot j : Nat) (src : UnitId) : State :=
  if src == .slice n then s.each ((s.slice n).shares.filter (fun h => !h.linkOut.isEmpty)) (fun t h => t.flushLink n h.slot)
  else s.post (.slice n) src (.credit slot j 1)

/-- Pops entries of the consumer's queue, the oldest first, until the one whose handle is `i` has come, each returning its
credit; at most `k`. A popped handle stays noted: its tile may be fetched when the walk comes to it, and again by a
RESUME (R253 to R255). -/
def State.popLinks (s : State) (n : Fin 132) (x : Step) (i : Nat) : Nat → State
  | 0 => s
  | k + 1 => match (s.slice n).share x.slot with
    | none => s
    | some h =>
      if h.linkPopped.contains i then s
      else match h.link with
        | [] => s
        | e :: es =>
          ((s.modShare n x.slot (fun g => { g with link := es, linkPopped := g.linkPopped ++ [e.2.handle] })).returnCredit n x.slot h.j e.1).popLinks n x i k

/-- The entry of tile `i` has been popped. -/
def State.popped (s : State) (n : Fin 132) (x : Step) (i : Nat) : Bool :=
  (((s.slice n).share x.slot).map (fun h => h.linkPopped.contains i)).getD false

/-- A step that must see a link entry before it fetches a tile of this role. -/
def Step.linked (x : Step) (r : Role) : Bool :=
  r == .src && (match x.op with | some op => op.delivers && (deliverFields op x.words).linkEn | none => false)

/-- Skips absent tiles: SKIP of a delivering step. -/
def Step.skipsAbsent (x : Step) : Bool :=
  match x.op with | some op => op.delivers && (deliverFields op x.words).skip | none => false

/-- A tile as the walker sees it under its mask: still waiting for a map granule, faulty, or a view with the word. -/
inductive View where
  | ask (addr : Nat)
  | fault (cause : Nat)
  | seen (p : Peek) (word : Option Nat)
deriving DecidableEq, Repr

/-- What has to be read before the walker can look at tile `t` of one role, once its map granules have come. -/
def State.viewLooks (s : State) (x : Step) (r : Role) (t : Nat) : List Look :=
  match s.use x r with
  | none => []
  | some u => match (x.masks.find? (fun p => p.1 == r)).map (·.2) with
    | none => s.peekLooks x u.fmt t
    | some m => match x.maskView m t with
      | .word _ => s.peekLooks x u.fmt t
      | _ => []

/-- The walker's view of tile `t`, chain index `i`, of one role. -/
def State.viewOf (s : State) (x : Step) (r : Role) (i t : Nat) : View :=
  match s.use x r with
  | none => .fault 0x01
  | some u =>
    let load := s.isLoad x && r == .src
    match (x.masks.find? (fun p => p.1 == r)).map (·.2) with
    | none => match s.peek x load u.fmt none i t with
      | .bad cause => .fault cause
      | p => .seen p none
    | some m => match x.maskView m t with
      | .ask a => .ask a
      | .bad => .fault 0x01
      | .word w => match s.peek x load u.fmt (some w) i t with
        | .bad cause => .fault cause
        | p => .seen p (some w)

/-- Both views of a pair; a pair in which either tile is absent is absent (R199). -/
def joinViews (a b : View) : View :=
  match a, b with
  | .fault c, _ => .fault c
  | .ask p, _ => .ask p
  | .seen _ _, .fault c => .fault c
  | .seen _ _, .ask p => .ask p
  | .seen p w, .seen q _ =>
    match p, q with
    | .frogged c, _ => .seen (.frogged c) w
    | _, .frogged c => .seen (.frogged c) w
    | .absent, _ => .seen .absent w
    | _, .absent => .seen .absent w
    | _, _ => .seen p w

/-- The other tile of a pair: its role and number. -/
def Step.partner (x : Step) (r : Role) (i : Nat) : Option (Role × Nat) :=
  if x.op != some .gatherMerge then none
  else
    let other : Role := if r == .src then .act else .src
    ((x.chain other).bind (fun c => c.tileAt i)).map (fun t => (other, t))

/-- The view that decides about a tile: of a gather-and-merge, the pair's. -/
def State.tileView (s : State) (x : Step) (r : Role) (i t : Nat) : View :=
  let own := s.viewOf x r i t
  match x.partner r i with
  | some p => joinViews own (s.viewOf x p.1 i p.2)
  | none => own

/-- The views of a tile and, in a gather-and-merge, of the pair's other one, by role and tile. -/
def State.viewsAt (s : State) (x : Step) (r : Role) (i t : Nat) : List (Role × Nat × View) :=
  (r, t, s.viewOf x r i t) :: ((x.partner r i).map (fun p => (p.1, p.2, s.viewOf x p.1 i p.2))).toList

/-- A tile that its mask or its page shows absent. -/
def View.hides (v : View) (t : Nat) : Bool :=
  match v with
  | .seen .absent _ => true
  | .seen _ (some w) => !bitAt w (t % 16)
  | _ => false

/-- The frogged page of a view: its role, the tile and the cookie. -/
def View.frogged (r : Role) (t : Nat) : View → Option (Role × Nat × Nat)
  | .seen (.frogged c) _ => some (r, t, c)
  | _ => none

/-- What has to be read before the walker can look at a tile, or a pair of tiles. -/
def State.tileLooks (s : State) (x : Step) (r : Role) (i t : Nat) : List Look :=
  s.viewLooks x r t ++ (match x.partner r i with | some p => s.viewLooks x p.1 p.2 | none => [])

/-- The walker's work at tile `t`, chain index `i`, once its round has room for a position when one is needed. -/
def State.walkTile (s : State) (n : Fin 132) (x : Step) (h : Share) (r : Round) (i t : Nat) : State :=
  let delivers := h.kind.toDPort
  let fill := fun (w : State) => w.withSlot n x h r (fun v => v.giveSlot n x.slot r.role i .fill)
  match s.tileView x r.role i t with
  | .ask a => s.ask x.slot a
  | .fault cause => s.failTile x.slot 0x30 cause i
  | .seen p word =>
    let skips := x.skipsAbsent && r.role != .ref
    match p with
    | .frogged _ =>
      let vs := s.viewsAt x r.role i t
      if vs.any (fun v => v.2.2.hides v.2.1) && skips then s.advance n x.slot r.role
      else if delivers && r.role == .src then
        (s.advance n x.slot r.role).meetFrogs n x i (vs.filterMap (fun v => v.2.2.frogged v.1 v.2.1))
      else if delivers && r.role == .act then s.advance n x.slot r.role
      else fill (s.progress n x.slot (fun rep => { rep with flags := { frogged := true } }))
    | .bad cause => s.failTile x.slot 0x30 cause i
    | .absent => if skips then s.advance n x.slot r.role else fill s
    | .fetch =>
      if !s.stationUp (homeOf x.ctx (t / 16)) then s.failTile x.slot 0x23 0x02 i
      else s.withSlot n x h r (fun w =>
        let go := fun (v : State) => (v.giveSlot n x.slot r.role i .waiting).fetchTile n x r.role i t r.granted word
        if x.linked r.role then
          let v := w.popLinks n x i h.link.length
          if v.popped n x i then go v else v
        else go w)

/-- Chain index of the source or input tile a share comes to next. -/
def srcNext (x : Step) (h : Share) : Nat :=
  match h.round .src with
  | some r => match r.at? r.h with
    | some q => q.chainIdx
    | none => placeIndex x h .src r.walk
  | none => match h.block with
    | some b => b.firstIdx
    | none => nextInput x h

/-- A reference tile that lies in the window of the tile the share comes to next (R148): 1,023 rows ahead of its last. -/
def refWanted (x : Step) (h : Share) (k : Nat) : Bool := k < srcNext x h + 80

/-- SLOT_GRANT: the walker of a source's round looks at the share's next tile: once what says whether it is
there has been read, it skips it, sends a marker, or grants it the round's next position when k < u + n; a wanted tile that
only a soft mark holds back drops the mark (R183, R243, R247). -/
def execSlotGrant (sl : Fin 132) (slot : Nat) (role : Role) (s : State) : Host.Outcome State Fault Refusal :=
  match s.liveShare sl slot with
  | none => .next s
  | some (x, h) =>
    match (if isSource role then h.round role else none) with
    | none => .next s
    | some r =>
      match walkAt x h r, x.chain role with
      | .tile i, some c =>
        match c.tileAt i with
        | none => .next s
        | some t =>
          let s0 := s.modSlice sl Slice.touch
          if role == .ref && !refWanted x h i then .next s
          else if role == .src && x.rowSkips i then
            let s1 := (s0.advance sl slot role).progress sl slot (fun rep => { rep with skipped := some i, flags := { rowsSkipped := true } })
            .next ((s1.settlePass slot).settleShare sl slot)
          else match s0.need (.step slot) x.ctx (s0.tileLooks x role i t) with
            | some w => .next w
            | none => .next (((s0.walkTile sl x h r i t).settlePass slot).settleShare sl slot)
      | _, _ => .next (s.settleShare sl slot)

end Sys2Proof.Machine
end

