-- ==== Sys2Proof/Machine/Stations.lean ====
section
/-! DEFINITION. Memory stations: fetches and writes of tiles, request merging, the tension regulator, the M-port
(R22 to R24, R50 to R52, R64, R66, R69, R129, R183, R233 to R235, R283 to R286, R293 to R301, R310, R314, R329 to R333,
R350 to R358, R364 to R366, R386 to R389). -/
namespace Sys2Proof.Machine

/-! ### Answers to a fetch -/

/-- A frame is at most this many bytes (R258). -/
def frameLimit : Nat := 65536

/-- A record that belongs to the contour block of the record before it. -/
def TxRecord.continues (r : TxRecord) : Bool :=
  let g := Legend.ofBytes r.record.legend
  g.fmt == Fmt.contour.code && g.blockTile != 0

/-- Records that lie in one frame together: contour blocks whole (R413). -/
def recordGroups (rs : List TxRecord) : List (List TxRecord) :=
  rs.foldl (fun gs r => match gs.getLast? with
    | some g => if r.continues then gs.dropLast ++ [g ++ [r]] else gs ++ [[r]]
    | none => [[r]]) []

/-- Bytes of records in a frame. -/
def recordsBytes (rs : List TxRecord) : Nat := sumNat (rs.map (fun r => r.record.toBytes.length))

/-- As many groups as fit in `room` bytes, and whether one did not fit (R413). -/
def packFrame : Nat → List (List TxRecord) → List TxRecord × Bool
  | _, [] => ([], false)
  | room, g :: gs =>
    if recordsBytes g ≤ room then
      let p := packFrame (room - recordsBytes g) gs
      (g ++ p.1, p.2)
    else ([], true)

/-- A peer's read is refused: PEER_ABSENT answers for all that is left of the request (R330, R420). -/
def State.refusePeer (s : State) (f : FetchRec) : State :=
  match f.remoteFor with
  | none => s
  | some (l, q, _) => s.answerAbsent l q

/-- Two fetches are made for one request of a peer. -/
def FetchRec.sameRequest (f g : FetchRec) : Bool :=
  match f.remoteFor, g.remoteFor with
  | some a, some b => a.1 == b.1 && a.2.1 == b.2.1
  | _, _ => false

/-- Some tile of a peer's request has not come whole yet. -/
def State.peerWaits (s : State) (f : FetchRec) : Bool :=
  s.net.any (fun t => match t.body with | .fetch g | .atlas (.walk g) => f.sameRequest g | _ => false)
    || s.stations.toList.any (fun m => m.jobs.any (fun j => match j.kind with
      | .readTile g _ _ => f.sameRequest g && j.tile.isNone
      | _ => false))

/-- The tiles of a peer's request, as they came whole, in order. -/
def State.peerTiles (s : State) (f : FetchRec) : List (FetchRec × Leaf × SlotTile) :=
  (List.range 16).filterMap (fun k => s.stations.toList.findSome? (fun m => m.jobs.findSome? (fun j => match j.kind, j.tile with
    | .readTile g l _, some t => if f.sameRequest g && g.tileNo % 16 == k then some (g, l, t) else none
    | _, _ => none)))

/-- A legend as it goes out over a link: version 4 (R67). -/
def linkLegend (l : Legend) (poison : Bool) : Legend :=
  { l.asVersion4 with version := 4, poisoned := l.asVersion4.poisoned || poison }.forLink

/-- A tile whose content is lost: zeros in the stream's base format, PASS where that is CONTOUR, with a legend and a
stitch that are valid, poisoned (R58, R204, R260). -/
def blankTile (st : StreamFmt) (t : SlotTile) : SlotTile :=
  let f := if st.base == .contour then Fmt.pass else st.base
  let k := if f.ternary then (codeT2 f (zeros 4096) 0).getD (codeAt .pass (List.replicate 2048 0)) else codeAt f (List.replicate 2048 0)
  let l : Legend :=
    { Legend.ofBytes (zeros 32) with
      version := 4, fmt := f.code, slotFmt := if st.layout == .variableL then 0 else st.ceiling.code, transposable := f.ternary
      poisoned := true, crc := crc32c k.expanded, summaryPtr := 0xFFFFFFFF }
  { t with legend := l.toBytes, stitch := k.stitch, block := k.stitch, zeroed := false, badFrame := true, poison := true, demotedLen := 0 }

/-- The records of a tile that a peer reads: its own, or for a tile behind the first of its contour block, those of the block
up to it, whose first one carries the block (R413, R420). An old CONTOUR tile goes out as the PASS tile it expands to (R67),
one that could not be read as poisoned zeros. -/
def peerRecords (keyed : Bool) (st : StreamFmt) (f : FetchRec) (t0 : SlotTile) : List Record :=
  let t := if t0.zeroed then blankTile st t0 else t0
  let up := upgraded keyed (Legend.ofBytes t.legend) t.stitch
  let raw := up.1
  let stitch := if t0.zeroed && keyed && st.layout != .variableL then fitTo (slotSize st.ceiling) up.2 else up.2
  let no := f.tileNo % 16
  let ahead := if raw.fmt == Fmt.contour.code && raw.blockTile ≤ no then raw.blockTile else 0
  let before := (List.range ahead).map (fun k =>
    let q := no - ahead + k
    { tile := q, legend := (linkLegend (Legend.ofBytes (t.pageLegends.getD q [])) false).toBytes
      stitch := if k == 0 then stitch else [] : Record })
  before ++ [{ tile := no, legend := (linkLegend raw t.poison).toBytes, stitch := if ahead == 0 then stitch else [] }]

/-- Records that one of their tiles has already given are given once. -/
def distinctRecords (rs : List Record) : List TxRecord :=
  rs.foldl (fun acc r => if acc.any (fun q => q.record.tile == r.tile) then acc else acc ++ [{ chainIdx := r.tile, record := r }]) []

/-- Frames of an answer: as many whole records in each as fit; `n` bounds them (R413). -/
def answerFrames : Nat → List TxRecord → List (List TxRecord)
  | 0, _ => []
  | n + 1, rs =>
    let p := packFrame (frameLimit - 64) (recordGroups rs)
    if p.1.isEmpty then [] else p.1 :: answerFrames n (rs.drop p.1.length)

/-- Queues the frames of an answer, the last with last_frame (R413, R420). -/
def State.queueAnswer (s : State) (l : Fin 16) (q : FrameHeader) (keyed : Bool) : List (List TxRecord) → State
  | [] => s
  | rs :: rest => (s.queueFrame l (s.replyHeader q keyed rs.length rest.isEmpty) (rs.map (·.record))).queueAnswer l q keyed rest

/-- A tile without content. -/
def plainTile (legend : Bytes) (mapBit : Option Bool) (t : Nat) : SlotTile :=
  { legend := legend, stitch := [], zeroed := false, badFrame := false, waitVerdict := none, remote := false, nearCopy := false
    mapBit := mapBit, pageLegends := [], demotedLen := 0, tileMap := 0xFFFF, tileNo := t, block := [], poison := false
    frog := none }

/-- The tile of a page that has none: an ABSENT legend as the block would write it (R54). -/
def State.absentTile (s : State) (f : FetchRec) : SlotTile :=
  let x := s.ctx f.ctx
  let l := absentLegend x.tag.toNat (b2n x.keyed) (if x.keyed then x.cur.gen.toNat else 0) 0
  plainTile l.toBytes none f.tileNo

/-- The effective mask bit of a fetched tile (R180). -/
def FetchRec.mapBit (f : FetchRec) : Option Bool := f.mapWord.map (fun w => bitAt w (f.tileNo % 16))

/-- A fetch fails: a metadata or integrity failure of the step at its tile, or PEER_ABSENT for a peer. -/
def State.failFetch (s : State) (u : UnitId) (f : FetchRec) (status cause : Nat) : State :=
  if f.remoteFor.isSome then s.refusePeer f
  else s.report u { Report.of f.slot 0 with lost := some (status, cause, f.chainIdx), ofFetch := true }

/-- A miss of a fetch. -/
def State.missFetch (s : State) (u : UnitId) (f : FetchRec) (m : Miss) : State :=
  if f.remoteFor.isSome then s.refusePeer f else s.report u { Report.of f.slot 0 with miss := some m, ofFetch := true }

/-- The stream format of a fetch: the step's operand; a peer's read takes the page as it is, its slots as its legends give
them. -/
def State.fetchFmt (s : State) (f : FetchRec) (l : Leaf) : Option StreamFmt :=
  if f.remoteFor.isSome then
    match Layout.ofCode l.layout with
    | some lay =>
      let ls := if l.page == some .near then
          (legendTiles lay l.tileMap).map (fun t => Legend.ofBytes (s.readNear (l.legendAddr + legendOffset lay l.tileMap t) 32).1)
        else match finOf 12 l.station with
          | some m => s.pageLegends f.ctx m lay l
          | none => []
      let c := if lay == .variableL then .contour else (Fmt.ofCode (pageCeiling ls)).getD .pass
      some { layout := lay, base := c, ceiling := c, bytesStream := true }
    | none => none
  else match s.step? f.slot with
    | none => none
    | some x => (s.use x f.role).map (·.fmt)

/-- Answers a peer's request once its every tile has come whole: the records of them all, in as many frames as they need; one
whose records fit no frame is answered PEER_ABSENT (R330, R413, R420; assumption 90). -/
def State.servePeer (s : State) (f : FetchRec) : State :=
  match f.remoteFor with
  | none => s
  | some (l, q, _) =>
    if s.peerWaits f then s
    else
      let keyed := (s.ctx f.ctx).keyed
      let rs := distinctRecords ((s.peerTiles f).flatMap (fun e => match s.fetchFmt e.1 e.2.1 with
        | some st => peerRecords keyed st e.1 e.2.2
        | none => []))
      let fs := answerFrames rs.length rs
      if rs.isEmpty || (fs.map (·.length)).sum != rs.length then s.answerAbsent l q
      else (s.dropPeer l q).queueAnswer l q keyed fs

/-- Forwards a whole tile: over the F-port when its slot has been granted, or to the peer (R33, R243). -/
def State.forward (s : State) (m : Fin 12) (id : Nat) : State :=
  match (s.station m).jobs.find? (fun j => j.id == id) with
  | none => s
  | some j => match j.kind, j.tile with
    | .readTile f _ _, some t =>
      if f.remoteFor.isSome then s.servePeer f
      else
        let g := (f.slice, f.slot, f.role, f.pos)
        if (s.station m).grants.contains g then
          ((s.endJob m id).modStation m (fun x => { x with grants := x.grants.filter (· != g) })).post (.ms m) (.slice f.slice)
            (.stitch f.slot f.role f.pos t)
        else s
    | _, _ => s

/-- Completes a read job with its tile; a tile read through the M-port counts for its context (Table 14-9). -/
def State.readDone (s : State) (m : Fin 12) (id : Nat) (t : SlotTile) : State :=
  let l := (Legend.ofBytes t.legend).asVersion4
  let s1 := match (s.station m).jobs.find? (fun j => j.id == id) with
    | some j => match j.kind with
      | .readTile f _ _ => if j.buf.isEmpty then s
        else s.countTile m f.ctx l j.buf.length
      | _ => s
    | none => s
  (s1.modJob m id (fun j => { j with tile := some t })).forward m id

/-! ### Reading a tile (R51, R66, R129, R183, R293 to R299) -/

/-- The class of a fetch's reads (R283). -/
def State.fetchClass (s : State) (f : FetchRec) : ReqClass :=
  if f.remoteFor.isSome then .remote
  else match (s.step? f.slot).bind (·.op) with
    | some .send | some .mcast => .remote
    | _ => .read

/-- The legend bytes a fetch reads: the whole block of a dense or variable page, the tile's own of a packed one. -/
def legendRange (lay : Layout) (l : Leaf) (t : Nat) : Nat × Nat :=
  match lay with
  | .packed => (l.legendAddr + legendOffset lay l.tileMap t, 32)
  | _ => (l.legendAddr, 512)

/-- A station begins to serve a RESIDENT tile: the legend range is asked for. The version stands from here on (R69, R357);
none when it could not be read. -/
def State.startRead (s : State) (m : Fin 12) (f : FetchRec) (l : Leaf) (lay : Layout) : State :=
  let v := if s.versionBad f.ctx m l.stitchBase then none else some (s.versionFor m l.stitchBase (f.tileNo % 16))
  let p := s.newJob m (.readTile f l v)
  let r := legendRange lay l (f.tileNo % 16)
  p.1.addRange m (s.fetchClass f) false f.ctx .legend r.1 r.2 [] p.2 0

/-- The reader a station checks a tile against (R64 checks 1 to 3, R364, R366). -/
def State.readerOf (s : State) (f : FetchRec) (l : Legend) (remote : Bool) : Reader :=
  let c := s.ctx f.ctx
  match s.step? f.slot, f.remoteFor with
  | some x, none =>
    { keyed := c.keyed, tag := c.tag.toNat, gens := c.gens, boundSlots := s.boundSlots f.ctx, weightKey := (s.keyUse x).1
      weightSlot := (s.keyUse x).2, load := s.isLoad x && l.asVersion4.keyClass == 2 && f.role == .src, remote := remote }
  | _, _ => { keyed := c.keyed, tag := c.tag.toNat, gens := c.gens, boundSlots := s.boundSlots f.ctx, weightKey := false
              weightSlot := 0, load := false, remote := remote }

/-- The key of a tile of a load (R364). -/
def State.loadKeyOf (s : State) (f : FetchRec) : Bytes :=
  match s.step? f.slot with
  | some x => s.imageKey x
  | none => zeros 32

/-- Status and cause of a verdict. -/
def Verdict.status : Verdict → Option (Nat × Nat)
  | .pass => none
  | .metadata c => some (0x30, c)
  | .bound => some (0x33, 0)
  | .integrity => none

/-- The stored legend of the job's tile. -/
def jobLegend (lay : Layout) (t : Nat) (bs : Bytes) : Bytes := match lay with | .packed => bs.take 32 | _ => cut bs (32 * t) 32

/-- The tile's clear legend: decrypted in a keyed context under the version read at acceptance (R350), in image form
for a load (R365). -/
def State.clearOf (s : State) (m : Fin 12) (f : FetchRec) (l : Leaf) (lay : Layout) (version : Nat) (stored : Bytes) : Bytes :=
  let raw := Legend.ofBytes stored
  if (s.readerOf f raw false).load then imageLegend (s.loadKeyOf f) f.chainIdx stored
  else match s.tileKey f.ctx raw version with
    | some k => clearLegend k m (l.legendAddr + legendOffset lay l.tileMap (f.tileNo % 16)) stored
    | none => stored

/-- Tile `t` of a load's page in clear. -/
def State.imagePageLegend (s : State) (f : FetchRec) (t : Nat) (stored : Bytes) : Bytes :=
  match s.step? f.slot with
  | some x => s.imageTile x (x.chain f.role) f.chainIdx f.tileNo t stored
  | none => (absentLegend 0 2 0 0).toBytes

/-- Legends of the page in clear, as the placement check uses them (R64 check 8, R138). -/
def State.pageClear (s : State) (m : Fin 12) (f : FetchRec) (l : Leaf) (lay : Layout) (version : Nat) (block : Bytes) : List Bytes :=
  let own := Legend.ofBytes (cut block (32 * (f.tileNo % 16)) 32)
  match lay with
  | .packed => []
  | _ => (List.range 16).map (fun t =>
    let st := cut block (32 * t) 32
    if (s.readerOf f own false).load then s.imagePageLegend f t st
    else match s.tileKey f.ctx (Legend.ofBytes st) version with
    | some k => clearLegend k m (l.legendAddr + 32 * t) st
    | none => st)

/-- Where the tile's stitch lies and how much of it is read (R51, R129): the block of a demoted page whole (R333), the
slot in a keyed context, the stitch alone in an unkeyed one, nothing for an ABSENT or reserved format. -/
def State.stitchRange (s : State) (f : FetchRec) (l : Leaf) (fmt : StreamFmt) (g : Legend) : Nat × Nat :=
  let slot := slotSize fmt.ceiling
  match Fmt.ofCode g.fmt with
  | none | some .absent => (0, 0)
  | some k =>
    if l.demoted then (0, l.demotedLen)
    else if fmt.layout == .variableL then
      (64 * g.blockOffset, if k == .pass then 4096 else Nat.min g.storedLen 65536)
    else
      let off := slotOffset fmt.layout l.tileMap slot (f.tileNo % 16)
      if (s.ctx f.ctx).keyed then (off, slot)
      else if k == .contour then (off, Nat.min g.storedLen slot)
      else (off, Nat.min (stitchSize k) slot)

/-- A tile whose M-port granules were uncorrectable: an integrity failure with content of zeros (R389, Table 14-2); its legend
is empty where that could not be read. -/
def State.zeroTile (s : State) (f : FetchRec) (legend : Bytes) (pageLegends : List Bytes) : State × SlotTile :=
  (s.countIntegrity 1,
    { plainTile legend f.mapBit f.tileNo with zeroed := true, poison := true, pageLegends := pageLegends })

/-- A read job's legends have come: checks 1 to 3, then the stitch is asked for (R66). A tile of a weight key goes to no
peer (R26), and one whose version could not be read fails (R348). -/
def State.legendCame (s : State) (m : Fin 12) (id : Nat) (j : Job) (f : FetchRec) (l : Leaf) (known : Option Nat) : State :=
  match s.fetchFmt f l with
  | none => s.endJob m id
  | some fmt =>
    let version := known.getD 0
    let stored := jobLegend fmt.layout (f.tileNo % 16) j.buf
    let class_ := (Legend.ofBytes stored).asVersion4.keyClass
    let clear := s.clearOf m f l fmt.layout version stored
    let raw := Legend.ofBytes clear
    let pages := s.pageClear m f l fmt.layout version j.buf
    if f.remoteFor.isSome && class_ == 2 then (s.endJob m id).refusePeer f
    else if j.bad.contains ((l.legendAddr + legendOffset fmt.layout l.tileMap (f.tileNo % 16)) / 64 * 64) then
      let z := s.zeroTile f [] pages
      z.1.readDone m id z.2
    else if class_ == 1 && known.isNone then (s.endJob m id).failFetch (.ms m) f 0x31 0x02
    else match (checks123 (s.readerOf f raw false) raw.asVersion4).status with
      | some e => (s.endJob m id).failFetch (.ms m) f e.1 e.2
      | none =>
        let r := s.stitchRange f l fmt raw.asVersion4
        if r.2 == 0 then
          let a := l.legendAddr + legendOffset fmt.layout l.tileMap (f.tileNo % 16)
          let good := if (s.readerOf f raw false).load then imageTagGood (s.loadKeyOf f) f.chainIdx [] stored
            else match s.tileKey f.ctx (Legend.ofBytes stored) version with
              | some k => tagGood k m a [] stored
              | none => true
          let s1 := if good then s else s.countIntegrity 1
          s1.readDone m id { plainTile clear f.mapBit f.tileNo with pageLegends := pages, poison := !good }
        else (s.modJob m id (fun k => { k with legends := some j.buf, buf := [], bad := [] })).addRange m (s.fetchClass f) false f.ctx .stitch
          (l.stitchBase + r.1) r.2 [] id 0

/-- A read job's stitch has come: check 4, decryption, and the tile is whole (R33, R64, R350, R351, R364, R365). -/
def State.stitchCame (s : State) (m : Fin 12) (id : Nat) (j : Job) (f : FetchRec) (l : Leaf) (known : Option Nat) (legends : Bytes) : State :=
  let version := known.getD 0
  match s.fetchFmt f l with
  | none => s.endJob m id
  | some fmt =>
    let t := f.tileNo % 16
    let stored := jobLegend fmt.layout t legends
    let clear := s.clearOf m f l fmt.layout version stored
    let pages := s.pageClear m f l fmt.layout version legends
    let g := (Legend.ofBytes clear).asVersion4
    let a := l.legendAddr + legendOffset fmt.layout l.tileMap t
    let at_ := l.stitchBase + (s.stitchRange f l fmt g).1
    if !j.bad.isEmpty then
      let z := s.zeroTile f clear pages
      z.1.readDone m id z.2
    else
      let base := { plainTile clear f.mapBit f.tileNo with pageLegends := pages }
      let whole := fun (content : Bytes) (good : Bool) =>
        let t0 : SlotTile := if l.demoted then { base with stitch := content, demotedLen := l.demotedLen, tileMap := l.tileMap, poison := !good }
          else { base with stitch := content, block := content, poison := !good }
        (if good then s else s.countIntegrity 1).readDone m id t0
      if (s.readerOf f (Legend.ofBytes stored) false).load then
        let key := s.loadKeyOf f
        whole (imageCrypt key (f.chainIdx - g.blockTile) 0 j.buf) (imageTagGood key f.chainIdx j.buf stored)
      else match s.tileKey f.ctx (Legend.ofBytes stored) version with
        | none => whole j.buf true
        | some k =>
          let plain := cryptAt k.key m.1 k.tag k.version at_ j.buf
          if l.demoted then
            let slot := match demotedBytes { m := m, lay := fmt.layout, tileMap := l.tileMap, ceiling := fmt.ceiling.code, stitch := l.stitchBase
                                             legend := l.legendAddr, demotedLen := l.demotedLen } true
                (slotOffset fmt.layout l.tileMap (slotSize fmt.ceiling) t + slotSize fmt.ceiling) plain with
              | some d => cut d.1 (slotOffset fmt.layout l.tileMap (slotSize fmt.ceiling) t) (slotSize fmt.ceiling)
              | none => []
            let enc := cryptAt k.key m.1 k.tag k.version (l.stitchBase + slotOffset fmt.layout l.tileMap (slotSize fmt.ceiling) t) slot
            whole plain (tagGood k m a enc stored)
          else whole plain (tagGood k m a j.buf stored)

/-- Raw legends of a page that may be served to a peer: a RESIDENT one on station `m`, or a NEAR one. -/
def State.peerLegends (s : State) (m : Fin 12) (l : Leaf) (lay : Layout) : List Legend :=
  (legendTiles lay l.tileMap).map (fun t =>
    let a := l.legendAddr + legendOffset lay l.tileMap t
    Legend.ofBytes (if l.page == some .near then (s.readNear a 32).1 else (s.readStack m a 32).1))

/-- The page is held under a weight key, by any of its legends (R330). -/
def State.weightHeld (s : State) (m : Fin 12) (l : Leaf) (lay : Layout) : Bool :=
  (s.peerLegends m l lay).any (fun g => g.asVersion4.keyClass == 2)

/-- A station serves a tile of a page it holds; a page under a weight key goes to no peer (R330). -/
def State.serveTile (s : State) (m : Fin 12) (f : FetchRec) (l : Leaf) : State :=
  match s.fetchFmt f l, Layout.ofCode l.layout with
  | some fmt, some lay =>
    if f.remoteFor.isSome && s.weightHeld m l lay then s.refusePeer f
    else if lay != fmt.layout then s.failFetch (.ms m) f 0x30 0x02
    else if lay == .packed && (match f.mapWord with | some w => w != l.tileMap | none => false) then s.failFetch (.ms m) f 0x30 0x04
    else if lay == .packed && !bitAt l.tileMap (f.tileNo % 16) then
      let p := s.newJob m (.readTile f l (some 0))
      p.1.readDone m p.2 (s.absentTile f)
    else s.startRead m f l lay
  | _, _ => s.failFetch (.ms m) f 0x30 0x02

/-- A peer's read of a page it may not have: absent, REMOTE, FROGGED or demoted here (R330, R420). -/
def Leaf.hidden (l : Leaf) : Bool := l.demoted || (l.page != some .resident && l.page != some .near)

/-- A tile of a packed page that has none. -/
def Leaf.packedAbsent (l : Leaf) (lay : Layout) (t : Nat) : Bool := lay == .packed && !bitAt l.tileMap (t % 16)

/-- Where a NEAR tile's own legend and stitch lie for a peer. -/
def State.peerRange (s : State) (f : FetchRec) (l : Leaf) (lay : Layout) : Nat × Nat × Nat :=
  let a := l.legendAddr + legendOffset lay l.tileMap (f.tileNo % 16)
  let g := (Legend.ofBytes (s.readNear a 32).1).asVersion4
  match s.fetchFmt f l with
  | some st => (a, l.stitchBase + (s.stitchRange f l st g).1, (s.stitchRange f l st g).2)
  | none => (a, l.stitchBase, 0)

/-- Tile of a NEAR page for a peer, as the near store holds it; zeros where a granule of it was uncorrectable (R330, R389). -/
def State.peerNearTile (s : State) (f : FetchRec) (l : Leaf) (lay : Layout) : SlotTile :=
  let r := s.peerRange f l lay
  let rl := s.readNear r.1 32
  let rs := s.readNear r.2.1 r.2.2
  let bad := rl.2 || (r.2.2 != 0 && rs.2)
  { plainTile (if rl.2 then [] else rl.1) none f.tileNo with
    stitch := if bad then [] else rs.1, poison := bad, zeroed := bad
    pageLegends := if lay == .packed then [] else pieces 32 (s.readNear l.legendAddr 512).1 }

/-- A tile of a NEAR page is served to a peer (R330). -/
def State.servePeerNear (s : State) (m : Fin 12) (f : FetchRec) (l : Leaf) : State :=
  match Layout.ofCode l.layout with
  | none => s.refusePeer f
  | some lay =>
    if s.weightHeld m l lay then s.refusePeer f
    else
      let p := s.newJob m (.readTile f l (some 0))
      let t := if l.packedAbsent lay f.tileNo then s.absentTile f else s.peerNearTile f l lay
      (if t.zeroed then p.1.countIntegrity 1 else p.1).readDone m p.2 t

/-- What station `m` must have read of a page before it serves or answers a fetch of it (R330, R348). A peer's NEAR tile it
reads through its slice (DESIGN CHOICE, assumption 90). -/
def State.serveLooks (s : State) (m : Fin 12) (f : FetchRec) (l : Leaf) : List Look :=
  match l.page, Layout.ofCode l.layout with
  | some .resident, some lay =>
    if l.station != m.1 then []
    else s.versionLooks f.ctx m l.stitchBase
      ++ (if f.remoteFor.isSome then [stackLook m .legend l.legendAddr (legendSpan lay l.tileMap)] else [])
  | some .near, some lay =>
    if f.remoteFor.isNone then []
    else nearLook m l.legendAddr (legendSpan lay l.tileMap) :: (if s.weightHeld m l lay || l.packedAbsent lay f.tileNo then []
      else [nearLook m (s.peerRange f l lay).2.1 (s.peerRange f l lay).2.2])
  | _, _ => []

/-- The negotiated L-port version of a link station (R384). -/
def Link.version (x : Link) : Nat := match x.lVer with | .agreed v => v | _ => 2

/-- Link station of a REMOTE leaf, and the peer's engine, context and page (Table 09-4). -/
def Leaf.peer (l : Leaf) : Nat × Nat × Nat × Nat :=
  (field l.w1 60 4, field l.w1 36 18, field l.w1 54 6, field l.w1 0 36)

/-- Sends a remote read for one tile through the leaf's link station; at version 2 it misses at once (R299, R385, R420). -/
def State.readPeer (s : State) (m : Fin 12) (f : FetchRec) (l : Leaf) : State :=
  match finOf 16 l.peer.1 with
  | none => s.failFetch (.ms m) f 0x30 0x02
  | some k =>
    if !s.linkUp k then s.failFetch (.ms m) f 0x23 0x03
    else if (s.link k).version < 3 then
      s.missFetch (.ms m) f { tile := f.chainIdx, kind := 4, station := (homeOf f.ctx (f.tileNo / 16)).1, level := 0, page := f.tileNo / 16 }
    else
      let n := (s.link k).nextRequest
      let h : FrameHeader :=
        { ident := 0x5C, version := (s.link k).version, kind := 2, srcEngine := s.ident.engineId.toNat, dstEngine := l.peer.2.1
          srcContext := f.ctx.1, dstContext := l.peer.2.2.1, tag := n, records := 0, firstIndex := 0, seq := 0, catchup := false
          wholeSlot := false, lastFrame := false, tiles := 2 ^ (f.tileNo % 16), page := l.peer.2.2.2, credit := 0 }
      (s.modLink k (fun x =>
        { x with nextRequest := (n + 1) % 65536, requests := x.requests ++ [{ number := n, fetch := f }] })).queueFrame k h []

/-- The home station has walked the page of a fetch (R299, Table 09-5). A step that reads under a weight key gets no tile
of a REMOTE page (R331), a table or spill tile lies in none (R329), and a MOVE takes none (R271). -/
def State.resolved (s : State) (m : Fin 12) (f : FetchRec) (l : Leaf) : State :=
  if f.remoteFor.isSome && l.hidden then s.refusePeer f
  else match l.page with
    | none => s.failFetch (.ms m) f 0x30 0x02
    | some .absent => let p := s.newJob m (.readTile f l (some 0))
                      p.1.readDone m p.2 (s.absentTile f)
    | some .frogged => let p := s.newJob m (.readTile f l (some 0))
                       p.1.readDone m p.2 { s.absentTile f with frog := some l.cookie }
    | some .resident =>
      match finOf 12 l.station with
      | none => s.failFetch (.ms m) f 0x30 0x02
      | some k =>
        if k == m then s.serveTile m f l
        else if !s.stationUp k then s.failFetch (.ms m) f 0x23 0x02
        else
          let g := (f.slice, f.slot, f.role, f.pos)
          let s1 := s.post (.ms m) (.ms k) (.fetch { f with leaf := some l })
          if (s.station m).grants.contains g && f.remoteFor.isNone then
            (s1.modStation m (fun x => { x with grants := x.grants.filter (· != g) })).post (.slice f.slice) (.ms k) (.grant f.slot f.role f.pos)
          else s1
    | some .near =>
      if f.remoteFor.isSome then s.servePeerNear m f l
      else if (match s.fetchFmt f l with | some fmt => fmt.layout.code != l.layout | none => true) then s.failFetch (.ms m) f 0x30 0x02
      else (s.modStation m (fun x => { x with grants := x.grants.filter (· != (f.slice, f.slot, f.role, f.pos)) })).post (.ms m)
        (.slice f.slice) (.xlate f l)
    | some .remote =>
      if f.role == .src && (s.step? f.slot).any (fun x => x.op == some .move) then s.failFetch (.ms m) f 0x30 0x01
      else if !isSource f.role || (s.step? f.slot).any (fun x => (s.keyUse x).1) then s.failFetch (.ms m) f 0x30 0x02
      else if (match s.fetchFmt f l with | some fmt => fmt.layout.code != l.layout | none => true) then s.failFetch (.ms m) f 0x30 0x02
      else (s.modStation m (fun x => { x with grants := x.grants.filter (· != (f.slice, f.slot, f.role, f.pos)) })).readPeer m f l

/-- What the walk of a fetch's page gives, at its home station (R299, R315). -/
def State.walked (s : State) (m : Fin 12) (f : FetchRec) : State :=
  match s.walk f.ctx (f.tileNo / 16) with
  | .leaf l _ _ => s.resolved m f l
  | .miss level => s.missFetch (.ms m) f { tile := f.chainIdx, kind := 1, station := m.1, level := level, page := f.tileNo / 16 }
  | .integrity cause => s.failFetch (.ms m) f 0x31 cause
  | .stationDown => s.failFetch (.ms m) f 0x23 0x02

/-- What a station must have read before it deals with a fetch: at the home station the walk and, for a page of its own,
its version; for a fetch that came on to it, the version (R299, R301, R348). -/
def State.fetchLooks (s : State) (m : Fin 12) (f : FetchRec) : List Look :=
  match f.leaf with
  | some l => s.serveLooks m f l
  | none => s.walkLooks f.ctx (f.tileNo / 16) ++ (match s.walk f.ctx (f.tileNo / 16) with
    | .leaf l _ _ => s.serveLooks m f l
    | _ => [])

/-- FETCH: a station takes a tile fetch: the home station walks the page and serves, translates, forwards or sends it
remote; a fetch that another station forwarded is served from the leaf it carries. The fetch waits until what the station
must read for it has come (R299, R301, R315). -/
def execFetch (ms : Fin 12) (src : UnitId) (s : State) : Host.Outcome State Fault Refusal :=
  match s.recvTxn src (.ms ms) 0x01 with
  | some (.fetch f, s1) =>
    match s.need f.asker f.ctx (s.fetchLooks ms f) with
    | some t => .next t
    | none =>
      let s2 := if f.remoteFor.isSome then s1.forgetLooks f.asker (s.fetchLooks ms f) else s1
      match f.leaf with
      | some l => .next (s2.serveTile ms f l)
      | none => .next (s2.walked ms f)
  | _ => .next s

/-- Where a slice's grant goes on to when this station has forwarded the fetch. -/
def State.grantTarget (s : State) (m : Fin 12) (n : Fin 132) (slot : Nat) (r : Role) (pos : Nat) : Option (Fin 12) :=
  let mine := fun (f : FetchRec) => f.slice == n && f.slot == slot && f.role == r && f.pos == pos && f.remoteFor.isNone
  (allFin 12).find? (fun k => k != m && ((s.station k).jobs.any (fun j => match j.kind with
      | .readTile f _ _ => mine f
      | _ => false)
    || s.net.any (fun t => t.dst == .ms k && (match t.body with | .fetch f => mine f && f.leaf.isSome | _ => false))))

/-- GRANT: a slice's grant of a round slot reaches the station that serves the tile, which forwards it once it is whole;
a link station needs none, its tiles go to slots already granted (R243). -/
def execGrant (dst : UnitId) (src : Fin 132) (s : State) : Host.Outcome State Fault Refusal :=
  match s.recvTxn (.slice src) dst 0x02 with
  | some (.grant slot r pos, s1) =>
    match dst with
    | .ms m =>
      match s1.grantTarget m src slot r pos with
      | some k => .next (s1.post (.slice src) (.ms k) (.grant slot r pos))
      | none =>
        let s2 := s1.modStation m (fun x => { x with grants := x.grants ++ [(src, slot, r, pos)] })
        .next (s2.each ((s2.station m).jobs.filter (fun j => j.tile.isSome)) (fun t j => t.forward m j.id))
    | _ => .next s1
  | _ => .next s

/-! ### The M-port (R283 to R286, R386 to R389) -/

/-- Credit of a class (R285). -/
def Station.credit (x : Station) : ReqClass → Int
  | .read => x.creditRead
  | .write => x.creditWrite
  | .remote => x.creditRemote

/-- Takes credit of a class. -/
def Station.pay (x : Station) (c : ReqClass) (n : Int) : Station :=
  match c with
  | .read => { x with creditRead := x.creditRead - n }
  | .write => { x with creditWrite := x.creditWrite - n }
  | .remote => { x with creditRemote := x.creditRemote - n }

/-- Bytes of a request. -/
def MReq.bytes (q : MReq) : Nat := 64 * q.granules

/-- The closed request of a class that the station issues next: no other request, open or closed, goes before it (R285). -/
def Station.nextIssue (x : Station) (cls : ReqClass) : Option MReq :=
  let all := x.opens ++ x.closed
  x.closed.find? (fun q => q.cls == cls && !all.any (fun b => MReq.before all b q))

/-- Granules of a write of which it does not give every byte. -/
def MReq.partials (q : MReq) : List Nat :=
  ((List.range q.granules).map (fun i => q.first + 64 * i)).filter (fun g =>
    !(List.range 64).all (fun k => q.ranges.any (fun r => r.addr ≤ g + k && g + k < r.addr + r.len)))

/-- At M-port version 2 the station reads, before a write, the granules it does not give whole: read requests of the same
context, with its place in the order of acceptance (R385). -/
def State.fillWrite (s : State) (m : Fin 12) (q : MReq) : State :=
  let p := s.newJob m .fill
  let reads := q.partials.map (fun g =>
    MReq.ofRange .read false q.ctx q.kind
      { addr := g, len := 64, data := [], job := p.2, off := g - q.first, order := q.order, sweep := q.sweep })
  (p.1.modStation m (fun x =>
    { x with closed := x.closed.map (fun b => if b == q then { b with fill := some p.2 } else b) ++ reads })).modJob m p.2
    (fun j => { j with waiting := reads.length })

/-- The granules a write waited for have come: it writes their other bytes back unchanged (R385). -/
def State.filled (s : State) (m : Fin 12) (id : Nat) (buf : Bytes) : State :=
  s.modStation m (fun x => { x with closed := x.closed.map (fun q =>
    if q.fill == some id then
      { q with fill := none
               ranges := q.partials.map (fun g =>
                 { addr := g, len := 64, data := fitTo 64 (cut buf (g - q.first) 64), job := 0, off := 0, order := q.order, sweep := q.sweep }) ++ q.ranges }
    else q) })

/-- Write-class window entries that a station keeps for scrub units while it scrubs (R373). -/
def State.scrubEntriesKept (s : State) (m : Fin 12) : Nat :=
  let at_ := (allFin 64).filter (fun c => match (s.ctx c).scrub with
    | some k => k.phase2 && k.working.contains m
    | none => false)
  if at_.isEmpty then 0 else ceilDiv 1024 s.hub.dict.scrubInterval.toNat

/-- A window entry taken by a scrub unit: a write that no job or range of a context's data stands behind. -/
def MOut.isScrub (o : MOut) : Bool := o.req.scrub

/-- Window entries of a class that its requests may take: its partition, less what is kept for scrub units (R286, R373). -/
def State.windowOf (s : State) (m : Fin 12) (cls : ReqClass) : Nat :=
  partitionOf s.hub.dict.tensionSplit.toNat cls - (if cls == .write then s.scrubEntriesKept m else 0)

/-- M_REQUEST_ISSUE: the next request of a class, when it is of the direction named, is issued when its credit covers it and its
class has a free window entry: the oldest accepted one, but a sweep's behind the others, and never one that an older request
for the same bytes waits before (R22, R235, R285, R286, R359). At M-port version 2 a write that gives granules in part waits
for the reads of them (R385). -/
def execMRequestIssue (ms : Fin 12) (cls : ReqClass) (wr : Bool) (s : State) : Host.Outcome State Fault Refusal :=
  let x := s.station ms
  if !s.live || !s.stationUp ms || !x.mVer.isOpen then .next s
  else match x.nextIssue cls, freeId 512 (x.window.map (·.id)) with
    | some q, some id =>
      let used := (x.window.filter (fun o => o.req.cls == cls && !o.isScrub)).length
      let cost := Int.ofNat (q.bytes * 15360)
      if q.wr != wr || q.fill.isSome || x.credit cls < cost || used ≥ s.windowOf ms cls then .next s
      else if q.wr && x.mVer == .agreed 2 && !q.partials.isEmpty then .next (s.fillWrite ms q)
      else .next ((s.modStation ms (fun y =>
        { (y.pay cls cost) with closed := y.closed.erase q
                                window := y.window ++ [{ id := id, req := q, got := 0, data := [], bad := [] }] })).mSent ms q)
    | _, _ => .next s

/-- MERGE_CLOSE_TIMEOUT: 8 cycles have passed with no fetch to append to an open request (R234). -/
def execMergeCloseTimeout (ms : Fin 12) (cls : ReqClass) (wr : Bool) (s : State) : Host.Outcome State Fault Refusal :=
  if s.live && s.stationUp ms then .next (s.modStation ms (fun x => x.closeOpens (fun q => q.cls == cls && q.wr == wr))) else .next s

/-- Granules of a station's stack that a write not yet acknowledged covers. -/
def Station.dirty (x : Station) : List Nat :=
  (x.opens ++ x.closed ++ x.window.map (·.req)).filter (·.wr) |>.flatMap (fun q => granulesOf q.first q.bytes)

/-- Takes returned bytes into the view of a stack, granule by granule, but for those a pending write covers. -/
def State.learnM (s : State) (m : Fin 12) (a : Nat) (bs : Bytes) (bad : List Nat) : State :=
  let dirty := (s.station m).dirty
  s.each (granulesOf a bs.length) (fun t g =>
    if dirty.contains g then t else t.learnStack m g (cut bs (g - a) 64) (bad.filter (· == g)))

/-- A job has one request fewer to wait for; its last one moves it on. -/
def State.jobStep (s : State) (m : Fin 12) (id : Nat) : State :=
  match (s.station m).jobs.find? (fun j => j.id == id) with
  | none => s
  | some j =>
    if j.waiting > 1 then s.modJob m id (fun k => { k with waiting := k.waiting - 1 })
    else
      let s1 := s.modJob m id (fun k => { k with waiting := 0 })
      match j.kind with
      | .readTile f l v => match j.legends with
        | none => s1.legendCame m id j f l v
        | some ls => s1.stitchCame m id j f l v ls
      | .writeTile w =>
        (s1.endJob m id).post (.ms m) (.slice w.slice) (.ack w.slot w.role w.chainIdx)
      | .look who l => (s1.endJob m id).stackCame m who l
      | .fill => (s1.endJob m id).filled m id j.buf

/-- A request whose last data have come: every range's job takes its bytes, and whether a granule was bad. -/
def State.rangesDone (s : State) (m : Fin 12) (q : MReq) (data : Bytes) (bad : List Nat) : State :=
  s.each q.ranges (fun t r =>
    let hurt := (granulesOf r.addr r.len).filter (fun g => bad.contains g)
    let bytes := cut data (r.addr - q.first) r.len
    let s1 := t.modJob m r.job (fun j => { j with bad := j.bad ++ hurt, buf := overwrite (fitTo (Nat.max j.buf.length (r.off + r.len)) j.buf) r.off bytes })
    s1.jobStep m r.job)

/-- M_READ_BEAT: a beat of an outstanding read; its last one returns the data to the jobs it serves (R388, R389). -/
def execMReadBeat (ms : Fin 12) (id : BitVec 9) (data : Bytes) (last : Bool) (err : BitVec 16) (s : State) :
    Host.Outcome State Fault Refusal :=
  if !s.live || !s.stationUp ms then .next s
  else match (s.station ms).window.find? (fun o => o.id == id.toNat && !o.req.wr) with
    | none => .fault .strayReadBeat
    | some o =>
      let n := Nat.min 1024 (o.req.bytes - o.got)
      let isLast := o.got + n ≥ o.req.bytes
      if isLast != last then .fault .strayReadBeat
      else
        let a := o.req.first + o.got
        let bad := ((List.range 16).filter (fun g => bitAt err.toNat g && 64 * g < n)).map (fun g => a + 64 * g)
        let s1 := (s.learnM ms a (fitTo n (data.take n)) bad).spend 2 1
        let o2 : MOut := { o with got := o.got + n, data := o.data ++ fitTo n (data.take n), bad := o.bad ++ bad }
        if isLast then
          let s2 := s1.modStation ms (fun x => { x with window := x.window.filter (fun p => p.id != o.id) })
          .next ((s2.rangesDone ms o.req o2.data o2.bad).wake [ms])
        else .next (s1.modStation ms (fun x => { x with window := x.window.map (fun p => if p.id == o.id then o2 else p) }))

/-- M_WRITE_ACK: the controller acknowledges a write; a tile whose every range is acknowledged is visible (R69, R388). -/
def execMWriteAck (ms : Fin 12) (id : BitVec 9) (s : State) : Host.Outcome State Fault Refusal :=
  if !s.live || !s.stationUp ms then .next s
  else match (s.station ms).window.find? (fun o => o.id == id.toNat && o.req.wr) with
    | none => .fault .strayWriteAck
    | some o =>
      let s1 := s.modStation ms (fun x => { x with window := x.window.filter (fun p => p.id != o.id) })
      .next (s1.each o.req.ranges (fun t r => t.jobStep ms r.job))

end Sys2Proof.Machine
end

