-- ==== Sys2Proof/Machine/Writes.lean ====
section
/-! DEFINITION. Tile writes at the memory stations: placement, copy-on-write, promotion, write sessions, weight loads
and the stored bytes (R35, R47, R51 to R54, R69, R71, R206, R299, R310, R311, R314, R333, R350, R351, R355 to R358,
R364, R366). -/
namespace Sys2Proof.Machine

/-- A write fails: a metadata or integrity failure of the step at its tile. -/
def State.failWrite (s : State) (m : Fin 12) (w : WriteRec) (status cause : Nat) : State :=
  s.lose (.ms m) w.slot status cause w.chainIdx

/-- A write meets a miss (R315): the tile is held in its slice's output round. -/
def State.missWrite (s : State) (m : Fin 12) (w : WriteRec) (kind station level : Nat) : State :=
  s.report (.ms m)
    { Report.of w.slot 0 with miss := some { tile := w.chainIdx, kind := kind, station := station, level := level, page := w.tileNo / 16 } }

/-- Acknowledges a write to its slice. -/
def State.ackWrite (s : State) (m : Fin 12) (w : WriteRec) : State :=
  s.post (.ms m) (.slice w.slice) (.ack w.slot w.role w.chainIdx)

/-- An ABSENT legend is all the write carries (R206). -/
def WriteRec.isAbsent (w : WriteRec) : Bool := w.legend.fmt == Fmt.absent.code

/-! ### Weight loads (R364, R366) -/

/-- The load record of a physical page after tile `t` is written under a nonce; none when R366 refuses the write. -/
def loadRecord (entry nonce t : Nat) : Option Nat :=
  let low := nonce % 2 ^ 48
  if entry >>> 16 == low then (if bitAt entry t then none else some (entry + 2 ^ t))
  else
    let v := low <<< 16 + 2 ^ t
    if v < entry then none else some v

/-! ### Storing -/

/-- The legend as the station stores it: a context-keyed tile under the current generation, a weight tile under its
slot, an unkeyed one without a key (R58, R358, R364). -/
def State.finalLegend (s : State) (w : WriteRec) : Legend :=
  let c := s.ctx w.ctx
  match w.load with
  | some k => { w.legend with version := 4, keyClass := 2, weightSlot := k.1, contextTag := 0, keyGen := 0, tag := 0 }
  | none =>
    { w.legend with version := 4, keyClass := b2n c.keyed, weightSlot := 0, contextTag := c.tag.toNat
                    keyGen := if c.keyed then c.cur.gen.toNat else 0, tag := 0 }

/-- The key of a stored tile: the weight slot with its nonce, or the current context slot under the session's version. -/
def State.finalKey (s : State) (w : WriteRec) (version : Nat) : Option TileKey :=
  let c := s.ctx w.ctx
  match w.load with
  | some k => some { key := keyBytes (s.hub.weights[k.1]).key, tag := 0, version := (s.hub.weights[k.1]).nonce.toNat }
  | none => if c.keyed then some { key := keyBytes c.cur.key, tag := c.tag.toNat, version := version } else none

/-- Stores a write's tile on station `m`'s stack: the view changes at once, and the M-port writes follow; the write is
acknowledged when they are (R69). -/
def State.storeWrite (s : State) (m : Fin 12) (w : WriteRec) (l : Leaf) (lay : Layout) (version : Nat) : State :=
  let t := w.tileNo % 16
  let g := s.finalLegend w
  let a := l.legendAddr + legendOffset lay l.tileMap t
  let rg := tileRange lay l.tileMap w.ceiling g t
  let leads := lay != .variableL || g.blockTile == 0
  let len := if leads && !w.isAbsent then rg.2 else 0
  let b := l.stitchBase + rg.1
  let k := s.finalKey w version
  let body := if len == 0 then [] else w.stitch
  let full := storedTile k m a b (if leads then len else 0) g body
  let p := s.newJob m (.writeTile w)
  let cls : ReqClass := if w.remoteCls then .remote else .write
  let s1 := if full.2.isEmpty then p.1
    else (p.1.writeStack m b full.2).addRange m cls true w.ctx .stitch b full.2.length full.2 p.2 0
  ((s1.writeStack m a full.1).addRange m cls true w.ctx .legend a 32 full.1 p.2 0).spendAes w.ctx (len + 32)

/-- A contour block's tag covers the whole block with each legend; the stitch that a later tile of a block is sealed
over is the leader's (R351). -/
def State.blockStored (s : State) (m : Fin 12) (l : Leaf) (g : Legend) : Bytes :=
  (s.readStack m (l.stitchBase + 64 * g.blockOffset) g.storedLen).1

/-- Stores the legend of a tile that lies behind the first tile of its contour block. -/
def State.storeFollower (s : State) (m : Fin 12) (w : WriteRec) (l : Leaf) (version : Nat) : State :=
  let g := s.finalLegend w
  let a := l.legendAddr + 32 * (w.tileNo % 16)
  let bytes := match s.finalKey w version with
    | none => g.toBytes
    | some k => sealLegend k m a (s.blockStored m l g) g.toBytes
  let p := s.newJob m (.writeTile w)
  (p.1.writeStack m a bytes).addRange m (if w.remoteCls then .remote else .write) true w.ctx .legend a 32 bytes p.2 0

/-- A write that needs a session on a page has to wait: another session is open on the physical page or is being refreshed
(R356), or the write cannot open its own (R357). -/
def State.sessionWaits (s : State) (m : Fin 12) (w : WriteRec) (stitchBase : Nat) : Bool :=
  let ss := (s.station m).sessions
  let mine := fun (x : Session) => x.slot == w.slot && x.stitchBase == stitchBase && !x.closing
  (s.ctx w.ctx).keyed && w.load.isNone
    && (ss.any (fun x => x.stitchBase / 65536 == stitchBase / 65536 && !mine x) || (!ss.any mine && ss.length ≥ 64))

/-- A write on a station that holds the page waits for its session, and for reads of the tile accepted before it (R69). -/
def State.storeWaits (s : State) (m : Fin 12) (w : WriteRec) (l : Leaf) : Bool :=
  s.sessionWaits m w l.stitchBase
    || (match Layout.ofCode l.layout with | some lay => s.readingTile m l.stitchBase (w.tileNo % 16) lay | none => false)

/-- What the station of a page's stitches must have read before it takes a write: the version, or the load record (R348,
R364). -/
def State.storeLooks (s : State) (m : Fin 12) (w : WriteRec) (l : Leaf) : List Look :=
  if w.load.isSome then [s.counterLook m (l.stitchBase / 65536)] else s.versionLooks w.ctx m l.stitchBase

/-- The station that holds the page writes the tile (R355, R364). -/
def State.acceptWrite (s : State) (m : Fin 12) (w : WriteRec) (l : Leaf) (lay : Layout) : State :=
  let t := w.tileNo % 16
  let follower := lay == .variableL && w.legend.fmt == Fmt.contour.code && w.legend.blockTile != 0
  let put := fun (u : State) (version : Nat) => if follower then u.storeFollower m w l version else u.storeWrite m w l lay version
  let counted := fun (u : State) => u.tallyAdd (.ms m) w.ctx 2 (countedSize w.ceiling w.legend + 32)
  match w.load with
  | some k =>
    let pg := l.stitchBase / 65536
    if (s.hub.weights[k.1]).state != .loading then s.failWrite m w 0x33 0
    else if (s.counter m pg).2 then s.failWrite m w 0x31 0x02
    else match loadRecord (s.counter m pg).1 (s.hub.weights[k.1]).nonce.toNat t with
      | none => s.failWrite m w 0x33 0
      | some v =>
        let s1 := (s.putNear m (s.counterAddr m pg) (leBytes 8 v)).modHub (fun h => { h with weights := vmod h.weights k (fun x =>
          { x with tilesLoaded := if x.tilesLoaded.toNat + 1 < 2 ^ 32 then x.tilesLoaded + 1 else x.tilesLoaded }) })
        counted (put s1 0)
  | none =>
    if !(s.ctx w.ctx).keyed then counted (put s 0)
    else if s.versionBad w.ctx m l.stitchBase then s.failWrite m w 0x31 0x02
    else
      let p := s.openSession m w.slot w.ctx l.stitchBase l.legendAddr lay.code l.tileMap w.ceiling
      let s1 := counted ((put p.1 p.2.version).markWritten m p.2 t)
      if w.pageLast then
        match (s1.station m).sessions.find? (fun x => x.same p.2) with
        | some x => s1.closeSession m x
        | none => s1
      else s1

/-! ### At the home station (R299, R310, R314) -/

/-- A page a write must wait for: shared pages are copied and demoted ones promoted first. -/
def Leaf.mustChange (l : Leaf) : Bool := (l.page == some .resident || l.page == some .near) && (l.shared || l.demoted)

/-- The translation record of a write into a NEAR page. -/
def WriteRec.asFetch (w : WriteRec) (l : Leaf) : FetchRec :=
  { slot := w.slot, ctx := w.ctx, chainIdx := w.chainIdx, tileNo := w.tileNo, slice := w.slice, role := w.role, pos := 0
    mapWord := none, leaf := some l, remoteFor := none }

/-- A write that is already held for the same page goes behind it. -/
def State.heldPage (s : State) (m : Fin 12) (w : WriteRec) : Bool :=
  (s.station m).heldWrites.any (fun v => v.ctx == w.ctx && v.tileNo / 16 == w.tileNo / 16)

/-- Holds a write at its home station. -/
def State.holdWrite (s : State) (m : Fin 12) (w : WriteRec) : State :=
  s.modStation m (fun x => { x with heldWrites := x.heldWrites ++ [w] })

/-- The write has the layout of the page and a place in it (R183, R206, R299). -/
def WriteRec.fits (w : WriteRec) (l : Leaf) : Option Nat :=
  if w.layout != l.layout then some 0x02
  else if l.layout == Layout.packed.code && ((w.masked && w.tileMap != l.tileMap) || !bitAt l.tileMap (w.tileNo % 16)) then some 0x04
  else none

/-- The step's effective map word of a packed page it places: the mask's, or every tile where the step has none. -/
def WriteRec.placedMap (w : WriteRec) : Nat := w.tileMap

/-- A write whose page is resolved: it goes on to the station that holds the page, to the near store, or waits. -/
def State.routeWrite (s : State) (m : Fin 12) (w : WriteRec) (l : Leaf) (node addr : Nat) : State :=
  let pg := w.tileNo / 16
  match l.page with
  | none => s.failWrite m w 0x30 0x02
  | some .remote => if w.load.isSome then s.failWrite m w 0x33 0 else s.failWrite m w 0x30 0x02
  | some .absent | some .frogged =>
    match s.placePage [] w.ctx pg w.slot w.load w.layout w.placedMap w.ceiling node addr with
      | .done t _ =>
        match t.walk w.ctx pg with
        | .leaf l2 _ _ => match Layout.ofCode l2.layout with
          | some lay => t.acceptWrite m { w with leaf := some l2 } l2 lay
          | none => s.failWrite m w 0x30 0x02
        | _ => s.failWrite m w 0x31 0x01
      | .stop t st cause => t.failWrite m w st cause
      | .miss t kind station level _ => t.missWrite m w kind station level
      | .wait t => t
  | some .near =>
    if w.load.isSome then s.failWrite m w 0x33 0
    else match w.fits l with
    | some cause => s.failWrite m w 0x30 cause
    | none =>
      if l.mustChange then s.holdWrite m w
      else s.post (.ms m) (.slice w.slice) (.xlate (w.asFetch l) l)
  | some .resident =>
    match w.fits l with
    | some cause => s.failWrite m w 0x30 cause
    | none =>
      if l.mustChange then s.holdWrite m w
      else match finOf 12 l.station, Layout.ofCode l.layout with
        | some k, some lay =>
          if k == m then s.acceptWrite m w l lay
          else if !s.stationUp k then s.failWrite m w 0x23 0x02
          else s.post (.ms m) (.ms k) (.write { w with leaf := some l })
        | _, _ => s.failWrite m w 0x30 0x02

/-- The frame that the home station would take for a write to a page that has none (R314). -/
def State.placedFrame (s : State) (w : WriteRec) : Option Frame :=
  match Layout.ofCode w.layout with
  | none => none
  | some lay =>
    match s.allocate w.ctx (homeOf w.ctx (w.tileNo / 16)) (stitchSpan lay (if lay == .packed then w.placedMap else 0) w.ceiling) with
    | .ok f _ => some f
    | _ => none

/-- What the home station must have read before it resolves a write: the walk, and what the page it finds asks for: the
frame and the session of the leaf's entry for one it places, the version for one of its own stack (R299, R307, R314, R348). -/
def State.homeLooks (s : State) (m : Fin 12) (w : WriteRec) : List Look :=
  let pg := w.tileNo / 16
  if s.heldPage m w then []
  else s.walkLooks w.ctx pg ++ (match s.walk w.ctx pg with
    | .leaf l node addr => match l.page, Layout.ofCode w.layout with
      | some .absent, some lay | some .frogged, some lay =>
        s.frameLooks w.ctx pg (stitchSpan lay (if lay == .packed then w.placedMap else 0) w.ceiling)
          ++ s.writeLooks [] w.ctx m node 131072 addr
          ++ (match s.placedFrame w with
            | some f => if w.load.isSome then [s.counterLook f.station (f.stitch / 65536)] else []
            | none => [])
      | some .resident, _ => if l.mustChange || l.station != m.1 then [] else s.storeLooks m w l
      | _, _ => []
    | _ => [])

/-- The home station resolves a write (R299, R315). -/
def State.homeWrite (s : State) (m : Fin 12) (w : WriteRec) : State :=
  if s.heldPage m w then s.holdWrite m w
  else match s.walk w.ctx (w.tileNo / 16) with
    | .leaf l node addr => s.routeWrite m w l node addr
    | .miss level => s.missWrite m w 1 m.1 level
    | .integrity cause => s.failWrite m w 0x31 cause
    | .stationDown => s.failWrite m w 0x23 0x02

/-- A write to a page that its home station places waits for the session it opens on the frame's page (R314, R356, R357). -/
def State.placeWaits (s : State) (w : WriteRec) : Bool :=
  match s.placedFrame w with
  | some f => s.sessionWaits f.station w f.stitch
  | none => false

/-- The write at the front has to wait for another session or for a read (R69, R356, R357). -/
def State.writeWaits (s : State) (m : Fin 12) (w : WriteRec) : Bool :=
  match w.leaf with
  | some l => s.storeWaits m w l
  | none =>
    if s.heldPage m w then false
    else match s.walk w.ctx (w.tileNo / 16) with
    | .leaf l _ _ => match l.page with
      | some .resident => !l.mustChange && l.station == m.1 && s.storeWaits m w l
      | some .absent | some .frogged => s.placeWaits w
      | _ => false
    | _ => false

/-- WRITE: a station takes a tile's write once it has read what that needs: at its home, the page is resolved, placed or
held; at the station of its stitches, it is accepted in a write session, sealed and sent to the M-port, and changes of the
page's leaf that waited for it go on (R69, R300, R310, R314, R355). -/
def execWrite (ms : Fin 12) (src : UnitId) (s : State) : Host.Outcome State Fault Refusal :=
  match s.recvTxn src (.ms ms) 0x03 with
  | some (.write w, s1) =>
    match s.need (.step w.slot) w.ctx (match w.leaf with | some l => s.storeLooks ms w l | none => s.homeLooks ms w) with
    | some t => .next t
    | none =>
      if s1.writeWaits ms w then .next s
      else match w.leaf with
        | some l => match Layout.ofCode l.layout with
          | some lay => .next (s1.acceptWrite ms w l lay).wakeItems
          | none => .next (s1.failWrite ms w 0x30 0x02).wakeItems
        | none => .next (s1.homeWrite ms w)
  | _ => .next s

/-- Takes up again, in their order, the writes held for a page, ahead of all that arrives later: they go to the station
that holds the page now, and one whose page is in no stack is resolved anew (R300, R310). -/
def State.releaseHeld (s : State) (m : Fin 12) (c : Fin 64) (p : Nat) : State :=
  let mine := fun (w : WriteRec) => w.ctx == c && w.tileNo / 16 == p
  let ws := (s.station m).heldWrites.filter mine
  let s1 := s.modStation m (fun x => { x with heldWrites := x.heldWrites.filter (fun w => !mine w) })
  let txn := fun (w : WriteRec) => match s.walk c p with
    | .leaf l _ _ => match l.page, finOf 12 l.station with
      | some .resident, some k => s.txn (.ms m) (.ms k) (.write { w with leaf := some l })
      | _, _ => s.txn (.slice w.slice) (.ms m) (.write w)
    | _ => s.txn (.slice w.slice) (.ms m) (.write w)
  { s1 with net := ws.map txn ++ s1.net }

/-- Drops the writes held for a page but the oldest's failure. -/
def State.dropHeld (s : State) (m : Fin 12) (c : Fin 64) (p : Nat) : State × List WriteRec :=
  let mine := fun (w : WriteRec) => w.ctx == c && w.tileNo / 16 == p
  (s.modStation m (fun x => { x with heldWrites := x.heldWrites.filter (fun w => !mine w) }), (s.station m).heldWrites.filter mine)

/-- COPY_ON_WRITE_DONE: the page of the station's oldest held write is copied into a frame of its own (or, demoted,
promoted) once it has been read: the leaf points there, the share count falls by 1 and the held writes proceed (R310, R311,
R333). -/
def execCopyOnWriteDone (ms : Fin 12) (s : State) : Host.Outcome State Fault Refusal :=
  if !s.live || !s.stationUp ms then .next s
  else match (s.station ms).heldWrites with
    | [] => .next s
    | w :: _ =>
      let p := w.tileNo / 16
      let fail := fun (t : State) (one : State → WriteRec → State) =>
        let d := t.dropHeld ms w.ctx p
        Host.Outcome.next (d.1.each d.2 one).wakeItems
      match s.need (.step w.slot) w.ctx (s.copyLooks [] w.ctx p) with
      | some t => .next t
      | none =>
      match s.walk w.ctx p with
      | .leaf l node addr =>
        if !l.mustChange then .next (s.releaseHeld ms w.ctx p)
        else match (if l.demoted then s.promote [] w.ctx p l node addr else s.copyOnWrite [] w.ctx p l node addr) with
          | .done t _ => .next (t.releaseHeld ms w.ctx p)
          | .stop t st cause => fail t (fun u v => u.failWrite ms v st cause)
          | .miss t kind station level _ => fail t (fun u v => u.missWrite ms v kind station level)
          | .wait t => .next t
      | .miss level => fail s (fun u v => u.missWrite ms v 1 ms.1 level)
      | .integrity cause => fail s (fun u v => u.failWrite ms v 0x31 cause)
      | .stationDown => fail s (fun u v => u.failWrite ms v 0x23 0x02)

end Sys2Proof.Machine
end

