-- ==== Sys2Proof/Machine/Near.lean ====
section
/-! DEFINITION. The near-store ports: tiles of NEAR pages, NACC service, and the C-port's answers (R51, R70, R182, R299,
R343, R372, R392 to R395, R511). -/
namespace Sys2Proof.Machine

/-- Fills a granted round slot that waits for its tile (R243). -/
def State.fillSlot (s : State) (n : Fin 132) (slot : Nat) (r : Role) (pos : Nat) (t : SlotTile) : State :=
  s.modShare n slot (fun h => h.modRound r (fun q => q.modSlot pos (fun e =>
    if e.content == .waiting then { e with content := .tile t } else e)))

/-! ### Reading a NEAR tile (R299, R343) -/

/-- A tile of a NEAR page as the near store holds it, and whether a granule of it was uncorrectable: it is then zeros,
poisoned (R389, R393). -/
def State.nearTile (s : State) (f : FetchRec) (l : Leaf) (fmt : StreamFmt) : SlotTile × Bool :=
  let r := legendRange fmt.layout l (f.tileNo % 16)
  let bs := s.readNear r.1 r.2
  let legend := jobLegend fmt.layout (f.tileNo % 16) bs.1
  let own := s.readNear (l.legendAddr + legendOffset fmt.layout l.tileMap (f.tileNo % 16)) 32
  let pages := if fmt.layout == .packed then [] else pieces 32 bs.1
  let base := { plainTile legend f.mapBit f.tileNo with nearCopy := true, pageLegends := pages }
  let g := s.stitchRange f l fmt (Legend.ofBytes legend).asVersion4
  let st := s.readNear (l.stitchBase + g.1) g.2
  if own.2 || (g.2 != 0 && st.2) then ({ base with zeroed := true, poison := true, legend := if own.2 then [] else legend }, true)
  else ({ base with stitch := st.1, block := st.1 }, false)

/-- A slice fills the slot of a tile that it has read through its N-port. -/
def State.fillNear (s : State) (n : Fin 132) (f : FetchRec) (l : Leaf) (fmt : StreamFmt) : State :=
  let t := s.nearTile f l fmt
  (if t.2 then s.countIntegrity 1 else s).fillSlot n f.slot f.role f.pos t.1

/-- A NEAR tile's legend has come: its stitch is asked for, or the tile is whole. -/
def State.nearLegend (s : State) (n : Fin 132) (f : FetchRec) (l : Leaf) (fmt : StreamFmt) : State :=
  let r := legendRange fmt.layout l (f.tileNo % 16)
  let legend := jobLegend fmt.layout (f.tileNo % 16) (s.readNear r.1 r.2).1
  let own := s.readNear (l.legendAddr + legendOffset fmt.layout l.tileMap (f.tileNo % 16)) 32
  let g := s.stitchRange f l fmt (Legend.ofBytes legend).asVersion4
  if own.2 || g.2 == 0 then s.fillNear n f l fmt
  else s.nRange n false (l.stitchBase + g.1) g.2 [] (.tileRead f l true)

/-- A slice starts to read a tile through its N-port. -/
def State.startNear (s : State) (n : Fin 132) (f : FetchRec) (l : Leaf) (fmt : StreamFmt) : State :=
  if fmt.layout == .packed && (match f.mapWord with | some w => w != l.tileMap | none => false) then s.failFetch (.slice n) f 0x30 0x04
  else if l.packedAbsent fmt.layout f.tileNo then s.fillSlot n f.slot f.role f.pos (s.absentTile f)
  else
    let r := legendRange fmt.layout l (f.tileNo % 16)
    s.nRange n false r.1 r.2 [] (.tileRead f l false)

/-! ### Writing a NEAR tile (R51, R343) -/

/-- Writes a coded tile of the output round into a NEAR page: stitch or slot, then legend, in clear. -/
def State.writeNearTile (s : State) (n : Fin 132) (f : FetchRec) (l : Leaf) : State :=
  match s.step? f.slot, Layout.ofCode l.layout, ((s.slice n).share f.slot).bind (fun h => h.out.find? (fun o =>
      o.role == f.role && o.chainIdx == f.chainIdx)) with
  | some x, some lay, some o =>
    let w := s.writeRec n x o
    let g := s.finalLegend w
    let t := f.tileNo % 16
    let rg := tileRange lay l.tileMap w.ceiling g t
    let body := if w.isAbsent || (lay == .variableL && g.blockTile != 0) then []
      else if (s.ctx f.ctx).keyed && lay != .variableL then fitTo rg.2 o.stitch else o.stitch
    let p := NPurpose.tileWrite f.slot f.role f.chainIdx
    let s1 := if body.isEmpty then s else s.nRange n true (l.stitchBase + rg.1) body.length body p
    s1.nRange n true (l.legendAddr + legendOffset lay l.tileMap t) 32 g.toBytes p
  | _, _, _ => s

/-- XLATE: the home station's translation of a NEAR page: the slice reads or writes the tile through its N-port (R299). -/
def execXlate (sl : Fin 132) (src : Fin 12) (s : State) : Host.Outcome State Fault Refusal :=
  match s.recvTxn (.ms src) (.slice sl) 0x27 with
  | some (.xlate f l, s1) =>
    if f.leaf.isNone then
      match s1.step? f.slot, s1.fetchFmt f l with
      | some _, some fmt => .next (s1.startNear sl f l fmt)
      | _, _ => .next s1
    else .next (s1.writeNearTile sl f l)
  | _ => .next s

/-- Data read by NACC reach their requester (Table 11-10 NDATA). -/
def State.ndata (s : State) (n : Fin 132) (u : UnitId) (step addr len : Nat) : State :=
  s.post (.slice n) u (.ndata step addr (s.readNear addr len).1 (s.nearBadIn addr len))

/-- The owner slice has read a gazetteer entry: it writes it back after the contribution, and a conflict raises event
0x9005 (R325, R486). -/
def State.gazRead (s : State) (n : Fin 132) (ph : GazPhase) (src : UnitId) (c : Fin 64) (q : SummaryRec) (slot i : Nat) : State :=
  let a := (s.ctx c).gazAddr q.entry
  let e := s.gazEntry ph c q
  let s1 := if (s.readNear a (s.ctx c).gazStride).2 then s.countIntegrity 1 else s
  let s2 := if e.2 then s1.raise 0x9005 (some c) n.1 q.entry (q.page % 2 ^ 32) else s1
  s2.nRange n true a e.1.length e.1 (.gaz .write src c q slot i)

/-- What the last data of a slice's near-store reads do, once no other read of the same purpose is out. -/
def State.nReadDone (s : State) (n : Fin 132) (p : NPurpose) : State :=
  if (s.slice n).nOut.any (fun q => q.purpose == p) then s
  else match p with
    | .tileRead f l asked => match s.fetchFmt f l with
      | none => s
      | some fmt => if asked then s.fillNear n f l fmt else s.nearLegend n f l fmt
    | .nacc u step addr len => s.ndata n u step addr len
    | .gaz ph src c q slot i => s.gazRead n ph src c q slot i
    | _ => s

/-- What the last acknowledgement of a slice's near-store writes does, once no other write of the same purpose is out. -/
def State.nWriteDone (s : State) (n : Fin 132) (p : NPurpose) : State :=
  if (s.slice n).nOut.any (fun q => q.purpose == p) then s
  else match p with
    | .tileWrite slot r i => s.ackOut n slot r i
    | .naccWrite u tag _ _ => s.post (.slice n) u (.ack tag .dst 0xFFFFFFFF)
    | .gaz .write src _ _ slot i => s.post (.slice n) src (.ack slot .dst i)
    | _ => s

/-- Takes a beat into an outstanding read; none when no such read is out or `last` contradicts its length. -/
def takeBeat (id lane : Nat) (last : Bool) (qs : List NReq) : Option NReq :=
  match qs.find? (fun q => q.id == id && !q.wr) with
  | none => none
  | some q => if q.lastBeat lane == last then some q else none

/-- N_READ_BEAT: a beat of a slice's near-store read (R388, R393). -/
def execNReadBeat (sl : Fin 132) (id : BitVec 8) (data : Bytes) (last : Bool) (err : BitVec 8) (s : State) :
    Host.Outcome State Fault Refusal :=
  if !s.live || !(s.slice sl).alive then .next s
  else match takeBeat id.toNat 512 last (s.slice sl).nOut with
    | none => .fault .strayReadBeat
    | some q =>
      let n := Nat.min 512 (q.len - q.got)
      let a := q.addr + q.got
      let bad := ((List.range 8).filter (fun g => bitAt err.toNat g && 64 * g < n)).map (fun g => a + 64 * g)
      let s1 := (s.learnRead a (fitTo n (data.take n)) bad).spend 3 1
      if last then
        .next ((s1.nRetire sl q.id).nReadDone sl q.purpose)
      else .next (s1.modSlice sl (fun x => { x with nOut := x.nOut.map (fun p => if p.id == q.id then { p with got := p.got + n } else p) }))

/-- N_WRITE_ACK: the near store acknowledges a slice's write (R388, R393). -/
def execNWriteAck (sl : Fin 132) (id : BitVec 8) (s : State) : Host.Outcome State Fault Refusal :=
  if !s.live || !(s.slice sl).alive then .next s
  else match (s.slice sl).nOut.find? (fun q => q.id == id.toNat && q.wr) with
    | none => .fault .strayWriteAck
    | some q => .next ((s.nRetire sl q.id).nWriteDone sl q.purpose)

/-- NACC: a slice makes a near-store access for the hub or a station through its N-port (R392). -/
def execNacc (sl : Fin 132) (src : UnitId) (s : State) : Host.Outcome State Fault Refusal :=
  match s.recvTxn src (.slice sl) 0x05 with
  | some (.nacc step wr addr len data, s1) =>
    .next (s1.nPieces sl wr addr len data (if wr then .naccWrite src step addr len else .nacc src step addr len))
  | _ => .next s

/-! ### C-port (R372, R394, R395) -/

/-- What the last beat of a hub read does: release records are written when the ring shows room (R308), and a step that
reads its tables goes on (R303, R319). -/
def State.cReadDone (s : State) (p : NPurpose) : State :=
  if s.hub.cOut.any (fun q => q.purpose == p) then s
  else match p with
  | .ringPoll c => State.writeReleases c (s.ctx c).releases.length (s.modCtx c (fun x => { x with ringSeen := true }))
  | .hubLook slot a len => (s.modStep slot (fun x =>
      { x with asks := x.asks.filter (· != (a, len))
               sees := if x.asks.contains (a, len) then (a, len, (s.readNear a len).2) :: x.sees else x.sees })).wakeItems
  | .entries c ring => s.burstCame c ring
  | _ => s

/-- C_READ_BEAT: a beat of a hub read: submission entries, the scrub extent table, tables of a step or the release ring's
counts (R264, R308, R372, R394, R511). -/
def execCReadBeat (id : BitVec 6) (data : Bytes) (last : Bool) (err : BitVec 2) (s : State) : Host.Outcome State Fault Refusal :=
  if !s.cOpen then .next s
  else match takeBeat id.toNat 128 last s.hub.cOut with
    | none => .fault .strayReadBeat
    | some q =>
      let n := Nat.min 128 (q.len - q.got)
      let a := q.addr + q.got
      let bad := ((List.range 2).filter (fun g => bitAt err.toNat g)).map (fun g => a / 64 * 64 + 64 * g)
      let s1 := (s.learnRead a (fitTo n (data.take n)) bad).spend 4 1
      if last then .next ((s1.cRetire q.id).cReadDone q.purpose)
      else .next (s1.modHub (fun h => { h with cOut := h.cOut.map (fun p => if p.id == q.id then { p with got := p.got + n } else p) }))

/-- C_WRITE_ACK: a hub write is acknowledged: the first entry of a completion record pulses c_cpl, which a C-port at
version 2 does not have (R385, R395); a step waits for its result tables (R322). -/
def execCWriteAck (id : BitVec 6) (s : State) : Host.Outcome State Fault Refusal :=
  if !s.cOpen then .next s
  else match s.hub.cOut.find? (fun q => q.id == id.toNat && q.wr) with
    | none => .fault .strayWriteAck
    | some q =>
      let s1 := s.cRetire q.id
      match q.purpose with
      | .record c ring true => .next (if s.hub.cVer == .agreed 2 then s1 else s1.modHub (fun h => { h with cplPulse := some (c, ring) }))
      | .hubWrite slot => .next (s1.modStep slot (fun x => { x with toDo := x.toDo - 1 }))
      | _ => .next s1

end Sys2Proof.Machine
end

