-- ==== Sys2Proof/Machine/Expand.lean ====
section
/-! DEFINITION. Expanding a tile in a slice: the checks of R64 in order, the decoded content, the content of a poisoned
tile, and the four delivery forms (R59, R60, R64 to R67, R78, R96 to R98, R103 to R106, R113, R131, R132, R146 to R149,
R161, R165, R173, R185 to R193, R198, R329, R333, R477). -/
namespace Sys2Proof.Machine

/-- A tile in its expanded form: its legend as a version 4 reader takes it, the 4,096 bytes in forward orientation,
d_tile_scale; whether it is ABSENT, whether its content is the DENSE zeros of Table 14-2, whether it is poisoned, and
how many integrity failures were found here. -/
structure Expanded where
  legend : Legend
  data : Bytes
  scale : Nat
  absent : Bool
  zeros : Bool
  poison : Bool
  found : Nat
deriving DecidableEq, Repr

/-- What expanding a tile gives. -/
inductive Expansion where
  | fail (status cause : Nat)
  | tile (e : Expanded)
deriving DecidableEq, Repr

/-- What decoding a stitch gives: illegal content, a block that needs the contour window where there is none (R148), or
bytes with a scale, whether a contour integrity row of Table 05-7 holds, and whether it holds only because a reference tile was
poisoned, a failure that has been counted where it was found (R479). -/
inductive Content where
  | illegal
  | needsWindow
  | ok (data : Bytes) (scale : Nat) (bad inherited : Bool)
deriving DecidableEq, Repr

/-- d_tile_scale of a CONTOUR or PASS tile (R106, R161). -/
def Legend.carriedScale (l : Legend) : Nat := if l.scaleValid then l.tileScale else 0x3F80

/-- d_tile_scale of an ABSENT tile and of the zeros of Table 14-2 (R78, R106, R477). -/
def emptyScale (base : Fmt) : Nat := if base.ternary then 0x0000 else 0x3F80

/-- DENSE zeros, poisoned (Table 14-2, first row). -/
def zeroExpansion (st : StreamFmt) (l : Legend) : Expanded :=
  { legend := l, data := zeros 4096, scale := emptyScale st.base, absent := false, zeros := true, poison := true, found := 0 }

/-- An absent tile as FILL delivers it (R78, R106, R185). -/
def absentExpansion (st : StreamFmt) (l : Legend) : Expanded :=
  { legend := l, data := zeros 4096, scale := emptyScale st.base, absent := true, zeros := false, poison := false, found := 0 }

/-- Decodes a gauge or PASS stitch (R81, R84, R112, R113; checks of Tables 03-8 and 04-6). -/
def decodeGauge (f : Fmt) (l : Legend) (st : Bytes) : Content :=
  let one := fun (r : Option (List Trit × Nat)) => match r with
    | some p => Content.ok (t2OfTrits p.1) p.2 false false
    | none => .illegal
  match f with
  | .pass => .ok (fitTo 4096 st) l.carriedScale false false
  | .g3 => one (decodeG3 st)
  | .g3s => one (decodeG3S st)
  | .g4f | .g4i | .g6 | .g8 => match decodeMx f l.clipped st with
    | some d => .ok d 0x3F80 false false
    | none => .illegal
  | .contour | .absent => .illegal

/-- Nonzero elements of an expanded tile (R59). -/
def occupancyOf (st : StreamFmt) (f : Fmt) (data : Bytes) : Nat :=
  if f.ternary then tritOccupancy (t2Trits data)
  else if st.bytesStream && (f == .pass || f == .contour) then (data.filter (· != 0#8)).length
  else bfOccupancy (bfValues data)

/-! ### Contour content -/

/-- Tiles of the page whose legends carry this tile's block_offset (R165, check 8); for a tile that came without its page,
over a link, those its block's header names, one for a PASS tile; none when there is no block. -/
def SlotTile.blockTiles (t : SlotTile) (l : Legend) : Option Nat :=
  if t.pageLegends.isEmpty then
    if l.fmt == Fmt.contour.code && !t.block.isEmpty then some (field (leAt t.block 0 8) 8 4 + 1)
    else if l.fmt == Fmt.pass.code then some 1 else none
  else some (t.pageLegends.filter (fun b =>
    let g := (Legend.ofBytes b).asVersion4
    g.fmt != Fmt.absent.code && g.blockOffset == l.blockOffset)).length

/-- The rows of a step in a slice's contour window (R148). -/
def Slice.windowRows (y : Slice) (slot : Nat) : RefRows :=
  match y.window with
  | some w => if w.2.1 == slot then w.2.2 else []
  | none => []

/-- What the decoder knows of a tile's block: an old block is one tile (R173). -/
def State.blockEnvOf (s : State) (x : Step) (t : SlotTile) (raw l : Legend) : BlockEnv :=
  { version := raw.version, keyed := (s.ctx x.ctx).keyed, storedLen := l.storedLen
    legendTiles := (t.blockTiles l).getD (field (leAt t.block 0 8) 8 4 + 1)
    hasRef := (x.chain .ref).isSome, hasWindow := (s.ctx x.ctx).partition != 2 }

/-- The step decodes the tile's block to its last row: the block's last tile is one of its tiles, on whichever slice. -/
def decodesLast (x : Step) (h : Share) (r : Role) (i k tiles : Nat) (tileNo : Nat) : Bool :=
  let n := i + (tiles - 1 - k)
  k < tiles && (match x.chain r with | some c => c.tileAt n == some (tileNo + (tiles - 1 - k)) | none => false)
    && (match h.stop with | some m => n < m | none => true)

/-- The chain index of the last tile whose rows are decoded before a tile of a round leaves: for a tile of a block that the
step decodes to its last row, the block's last (R165). -/
def neededIndex (x : Step) (h : Share) (r : Role) (q : RoundSlot) : Nat :=
  match q.content with
  | .tile t =>
    let l := (Legend.ofBytes t.legend).asVersion4
    let tiles := field (leAt t.block 0 8) 8 4 + 1
    if l.fmt == Fmt.contour.code && decodesLast x h r q.chainIdx l.blockTile tiles t.tileNo then q.chainIdx + (tiles - 1 - l.blockTile)
    else q.chainIdx
  | _ => q.chainIdx

/-- A tile of a contour block that is not the block's last (R170). -/
def SlotContent.blockGoesOn : SlotContent → Bool
  | .tile t =>
    let raw := Legend.ofBytes t.legend
    raw.version == 4 && raw.fmt == Fmt.contour.code && raw.blockTile < field (leAt t.block 0 8) 8 4
  | _ => false

/-- The share has taken the head of its source round: whether it stands inside a contour block from now on (R170). -/
def Share.noteBlock (h : Share) : Share :=
  match (h.round .src).bind (fun r => r.at? r.h) with
  | some q => { h with inBlock := q.content.blockGoesOn }
  | none => h

/-- Decodes a CONTOUR tile of chain index `i` (R146, R161 to R165, R173). A whole-block check that fails on the source
CRC poisons every tile of a block which the share decodes to its last row. -/
def State.decodeBlockTile (s : State) (n : Fin 132) (x : Step) (h : Share) (r : Role) (i : Nat) (t : SlotTile) (raw l : Legend) : Content :=
  let env := s.blockEnvOf x t raw l
  let k := l.blockTile
  let g : Int := (Int.ofNat i - Int.ofNat k) * 16
  let rows := if r == .ref then [] else (s.slice n).windowRows x.slot
  let refUsed := bitAt (leAt t.block 0 8) 19
  let tiles := field (leAt t.block 0 8) 8 4 + 1
  if r == .ref && refUsed then .illegal
  else
    let sound := fun (last : Nat) => match decodeContour env (rows.map (fun p => (p.1, false))) g last t.block with
      | .ok _ bad => !bad.getD k false
      | _ => false
    let pick := fun (last : Nat) (o : ContourOut) => match o with
      | .metadata => Content.illegal
      | .refNeeded => .needsWindow
      | .ok ts bad =>
        let b := bad.getD k false
        .ok (ts.getD k []) l.carriedScale b (b && rows.any (·.2) && sound last)
    let own := pick k (decodeContour env rows g k t.block)
    if decodesLast x h r i k tiles t.tileNo then
      match decodeContour env rows g (tiles - 1) t.block with
      | .ok ts bad => pick (tiles - 1) (.ok ts bad)
      | _ => own
    else own

/-! ### A tile of a demoted page (R333) -/

/-- The stitch or slot of a tile: as it came, or cut from the demoted block's restored span; none when the block is
illegal. The flag says whether the block's CRC held. -/
def SlotTile.stitchOf (t : SlotTile) (keyed : Bool) (st : StreamFmt) : Option (Bytes × Bool) :=
  if t.demotedLen == 0 then some (t.stitch, true)
  else
    let slot := slotSize st.ceiling
    let off := slotOffset st.layout t.tileMap slot (t.tileNo % 16)
    let p : PageAt := { m := 0, lay := st.layout, tileMap := t.tileMap, ceiling := st.ceiling.code, stitch := 0, legend := 0
                        demotedLen := t.demotedLen }
    (demotedBytes p keyed (off + slot) t.stitch).map (fun d => (cut d.1 off slot, d.2))

/-! ### The whole of R64 -/

/-- Who reads a tile in a slice (R64 checks 2 and 3, R329, R364, R366). -/
def State.tileReader (s : State) (x : Step) (r : Role) (l : Legend) (remote : Bool) : Reader :=
  s.readerOf { slot := x.slot, ctx := x.ctx, chainIdx := 0, tileNo := 0, slice := 0, role := r, pos := 0, mapWord := none
               leaf := none, remoteFor := none } l remote

/-- Checks 1 to 3 and 5 to 9 of a tile in a slice, with what came before them: none when they hold, else the failure. A legend
that could not be read is not judged. -/
def State.checkTile (s : State) (x : Step) (r : Role) (st : StreamFmt) (transposed : Bool) (t : SlotTile) : Option (Nat × Nat) :=
  let raw := Legend.ofBytes t.legend
  let l := raw.asVersion4
  if t.legend.isEmpty then none
  else match (checks123 (s.tileReader x r raw t.remote) l).status with
  | some e => some e
  | none => if (t.poison || t.zeroed) && !t.badFrame then none else (checks5to9 st t.mapBit (t.blockTiles l) transposed raw l).status

/-- The content of a present tile whose checks 1 to 9 hold. -/
def State.contentOf (s : State) (n : Fin 132) (x : Step) (h : Share) (r : Role) (st : StreamFmt) (i : Nat) (t : SlotTile) : Content :=
  let raw := Legend.ofBytes t.legend
  let l := raw.asVersion4
  match Fmt.ofCode l.fmt with
  | none => .illegal
  | some .contour =>
    if t.demotedLen == 0 then s.decodeBlockTile n x h r i t raw l
    else match t.stitchOf (s.ctx x.ctx).keyed st with
      | none => .illegal
      | some p => match s.decodeBlockTile n x h r i { t with block := p.1.take l.storedLen } raw l with
        | .ok d sc bad inh => .ok d sc (bad || !p.2) (inh && p.2)
        | c => c
  | some f => match t.stitchOf (s.ctx x.ctx).keyed st with
    | none => .illegal
    | some p => match decodeGauge f l p.1 with
      | .ok d sc bad inh => .ok d sc (bad || !p.2) (inh && p.2)
      | c => c

/-- Check 11 and the occupancy count over decoded content (R60, R189); a tile of a bad frame has been counted, and so has the
reference tile of a failure that is only `inherited` (R479). -/
def finishTile (st : StreamFmt) (f : Fmt) (t : SlotTile) (l : Legend) (data : Bytes) (scale : Nat) (bad inherited : Bool) : Expansion :=
  let hurt := bad || crc32c data != l.crc
  if !hurt && !t.poison && occupancyOf st f data != l.occupancy then .fail 0x30 0x05
  else .tile { legend := l, data := data, scale := scale, absent := false, zeros := false
               poison := t.poison || hurt || l.poisoned, found := b2n (hurt && !t.badFrame && !inherited) }

/-- Expands a tile of chain index `i`: every check in the order of R64, with the content Table 14-2 gives a tile that is
poisoned. A tile of a bad frame that fails a check stands as poisoned zeros. -/
def State.expand (s : State) (n : Fin 132) (x : Step) (h : Share) (r : Role) (st : StreamFmt) (transposed : Bool) (i : Nat)
    (t : SlotTile) : Expansion :=
  let l := (Legend.ofBytes t.legend).asVersion4
  let fail := fun (status cause : Nat) => if t.badFrame then Expansion.tile (zeroExpansion st l) else .fail status cause
  match s.checkTile x r st transposed t with
    | some e => fail e.1 e.2
    | none =>
      if t.zeroed || (t.poison && !t.badFrame) then .tile (zeroExpansion st l)
      else match Fmt.ofCode l.fmt with
        | none => fail 0x30 0x02
        | some .absent => .tile { absentExpansion st l with poison := t.poison || l.poisoned }
        | some f => match s.contentOf n x h r st i t with
          | .illegal => fail 0x30 0x03
          | .needsWindow => fail 0x21 0
          | .ok data scale bad inh => match finishTile st f t l data scale bad inh with
            | .fail a b => fail a b
            | e => e

/-! ### Delivery forms (Table 06-3) -/

/-- The form COMPACT gives a tile: 1 STRUCTURED, 2 LIST, none where only DENSE applies (R187). -/
def compactForm (st : StreamFmt) (transposed : Bool) (e : Expanded) : Option Nat :=
  if e.absent || e.zeros || transposed then none
  else match Fmt.ofCode e.legend.fmt with
    | some .g3s => some 1
    | some .g4f | some .g4i | some .g6 | some .g8 => some 2
    | some .pass => if st.bytesStream then none else some 2
    | _ => none

/-- d_tile_mode of a tile under a step's delivery mode (R186 to R188): the count is that of the content delivered. -/
def tileForm (mode threshold : Nat) (st : StreamFmt) (transposed : Bool) (e : Expanded) : Nat :=
  match compactForm st transposed e with
  | none => 0
  | some k =>
    let occ := if k == 1 then tritOccupancy (t2Trits e.data) else bfOccupancy (bfValues e.data)
    let most := if k == 1 then 16384 else 2048
    if mode == 1 then k else if mode == 2 && occ * 65536 ≤ threshold * most then k else 0

/-- Beats numbered from 0. -/
def numbered (bs : List (Bytes × Bytes)) : List (Nat × Bytes × Bytes) := (List.range bs.length).zip bs

/-- DENSE beats: four of 1,024 B, d_pos zero (R77, R186). -/
def denseBeats (data : Bytes) : List (Nat × Bytes × Bytes) := numbered ((pieces 1024 data).map (fun p => (p, zeros 1024)))

/-- The slot pair of a group: the first that holds every nonzero position (R191). -/
def slotPair (g : List Trit) : Nat × Nat :=
  ([(0, 1), (0, 2), (0, 3), (1, 2), (1, 3), (2, 3)].find? (fun p =>
    (nonzeroPos g).all (fun k => k == p.1 || k == p.2))).getD (0, 1)

/-- One row of a STRUCTURED tile: 16 B of slots and 16 B of slot codes (Table 06-4). -/
def structuredRow (row : List Trit) : Bytes × Bytes :=
  let picks := (pieces 4 row).flatMap (fun g =>
    let p := slotPair g
    [(p.1, g.getD p.1 0), (p.2, g.getD p.2 0)])
  (packBits (picks.map (fun q => q.2 != 0)) ++ packBits (picks.map (fun q => q.2 == 2)),
    packBits (picks.flatMap (fun q => bitList 2 q.1)))

/-- STRUCTURED beats: two of 64 rows each (R191). -/
def structuredBeats (data : Bytes) : List (Nat × Bytes × Bytes) :=
  let rows := (pieces 128 (t2Trits data)).map structuredRow
  numbered ((pieces 64 rows).map (fun rs => (rs.flatMap (·.1), rs.flatMap (·.2))))

/-- A position code with its valid bit (Table 06-5). -/
def posCode (v : Nat) : Nat := 0x8000 + v % 4096

/-- LIST beats: the nonzero values in ascending order, 512 a beat (R193). -/
def listBeats (data : Bytes) : List (Nat × Bytes × Bytes) :=
  let nz := (indexed (bfValues data)).filter (fun p => p.2 % 0x8000 != 0)
  let groups := if nz.isEmpty then [[]] else pieces 512 nz
  numbered (groups.map (fun g => (fitTo 1024 (bfTile (g.map (·.2))), fitTo 1024 (bfTile (g.map (fun p => posCode p.1))))))

/-- Beats of a form. -/
def beatsOf (form : Nat) (data : Bytes) : List (Nat × Bytes × Bytes) :=
  match form with
  | 1 => structuredBeats data
  | 2 => listBeats data
  | _ => denseBeats data

/-- The tile's T2 form after orientation (R97). -/
def orient (transposed ternary : Bool) (data : Bytes) : Bytes :=
  if transposed && ternary then t2OfTrits (transposeTrits (t2Trits data)) else data

/-! ### Pairs (R198) -/

/-- Matched columns of a pair, ascending: weight tile after orientation, activation tile. -/
def matchedColumns (w : List (List Trit)) (a : List (List Nat)) : List Nat :=
  (List.range 128).filter (fun k => w.any (fun row => row.getD k 0 != 0) && a.any (fun row => row.getD k 0 % 0x8000 != 0))

/-- One PAIRS beat over its lanes' columns (Table 06-6). -/
def pairsBeat (w : List (List Trit)) (a : List (List Nat)) (ks : List Nat) : Bytes × Bytes :=
  let weights := w.flatMap (fun row =>
    let ts := ks.map (fun k => row.getD k 0)
    leBytes 4 (natOfBits (ts.map (fun t => t != 0)) + natOfBits (ts.map (fun t => t == 2)) * 65536))
  let acts := a.flatMap (fun row => fitTo 32 (bfTile (ks.map (fun k => row.getD k 0))))
  (weights ++ acts, fitTo 32 (bfTile (ks.map posCode)))

/-- The beats of a pair and K (R198): a pair with K = 0 is one beat with no valid lane. -/
def pairsBeats (wData aData : Bytes) : List (Nat × Bytes × Bytes) × Nat :=
  let w := pieces 128 (t2Trits wData)
  let a := pieces 128 (bfValues aData)
  let ks := matchedColumns w a
  let groups := if ks.isEmpty then [[]] else pieces 16 ks
  (numbered (groups.map (pairsBeat w a)), ks.length)

end Sys2Proof.Machine
end

