-- ==== Sys2Proof/Machine/Moves.lean ====
section
/-! DEFINITION. Tiles moved without expansion: MOVE, SEND, MCAST and RECV; the places of tiles in a variable
destination page; old contour tiles re-encoded; descriptor batches (R55, R57, R58, R67, R68, R141, R174, R206, R226 to R232,
R260, R271, R413, R415). -/
namespace Sys2Proof.Machine

/-! ### Destinations -/

/-- The tile of chain index `i` is the step's last on its page. -/
def Chain.pageLast (c : Chain) (i : Nat) : Bool :=
  match c.tileAt i, c.tileAt (i + 1) with
  | some a, some b => a / 16 != b / 16
  | _, _ => true

/-- Key of a placed tile: its chain index and role. -/
def placeKey (r : Role) (i : Nat) : Nat :=
  8 * i + (match r with | .src => 0 | .dst => 1 | .ref => 2 | .act => 3 | .table => 4 | .spillA => 5 | .spillB => 6)

/-- Offset of the tile of chain index `i` in its variable page: where the step's tile before it on the page ends; none
while that tile has no place (R55). -/
def Step.placeAt (x : Step) (r : Role) (c : Chain) (i : Nat) : Option Nat :=
  if i == 0 then some 0
  else if (c.tileAt i).map (· / 16) != (c.tileAt (i - 1)).map (· / 16) then some 0
  else (assoc (placeKey r (i - 1)) x.placed).map (·.2)

/-- Records the place of a tile: its block's offset and end. -/
def State.place (s : State) (slot : Nat) (r : Role) (i off stop : Nat) : State :=
  s.modStep slot (fun x => { x with placed := (placeKey r i, off, stop) :: x.placed.filter (fun p => p.1 != placeKey r i) })

/-- A coded tile for chain index `i`. -/
def outTile (r : Role) (c : Option Chain) (i tileNo : Nat) (l : Legend) (stitch : Bytes) (countA countB : Nat) : OutTile :=
  { role := r, chainIdx := i, tileNo := tileNo, legend := l, stitch := stitch, pageLast := match c with | some k => k.pageLast i | none => false
    passed := false, sent := false, wantAcks := 1, countA := countA, countB := countB, load := false
    tally := 0, summary := none, link := none }

/-! ### Contour blocks on the move -/

/-- The payload length of a block's header (Table 05-2). -/
def blockPayload (b : Bytes) : Nat := field (leAt b 0 8) 32 17

/-- Tiles of a block, from its header. -/
def blockTilesOf (b : Bytes) : Nat := field (leAt b 0 8) 8 4 + 1

/-- What becomes of a version 4 block on its way into a context: it stays, or, unpadded into a keyed context, is padded
to its class, or its tiles are stored as PASS (R174); none when it cannot be decoded. -/
inductive BlockFate where
  | keep (stored : Bytes)
  | tiles (ts : List Bytes)
  | illegal
deriving DecidableEq, Repr

/-- R174 over a block's bytes. -/
def blockFate (keyed : Bool) (b : Bytes) : BlockFate :=
  let hdr := leAt b 0 8
  if !keyed || bitAt hdr 15 then .keep b
  else
    let size := 4096 * blockTilesOf b
    let cls := sizeClass size (blockPayload b)
    if cls < size then .keep (fitTo cls (leBytes 8 (hdr + 2 ^ 15) ++ b.drop 8))
    else match decodeContour { version := 4, keyed := false, storedLen := b.length, legendTiles := blockTilesOf b, hasRef := false
                               hasWindow := true } [] 0 (blockTilesOf b - 1) b with
      | .ok ts _ => .tiles ts
      | _ => .illegal

/-- A tile's content as a one-tile block of its own: a contour block at effort 0 without a reference, or a PASS block
when it has no gain (R68, R158). `old` is the block it came from, whose element type and row distance it keeps. -/
def reencode (keyed boundOff : Bool) (old data : Bytes) : Fmt × Bytes :=
  let hdr := leAt old 0 8
  let b := encodeContour { elemType := field hdr 12 3, distance := field hdr 21 4 + 1, effort := 0 } keyed boundOff [] 0 data
  if b.noGain then (.pass, data) else (.contour, b.stored)

/-! ### One tile -/

/-- What moving a tile gives: not yet; a failure; nothing to write; or a coded tile, with its place (offset, end) in a
variable page, the contour block it starts and the integrity failures found. -/
inductive Moved where
  | wait
  | fail (status cause : Nat)
  | skip
  | out (o : OutTile) (at_ : Option (Nat × Nat)) (block : Option (Nat × Bytes)) (found : Nat)
deriving DecidableEq, Repr

/-- A tile that the destination mask marks absent is written as an ABSENT legend at most, and counts as no tile (R206). -/
def Moved.pass : Moved → Moved
  | .out o p b f => .out { o with passed := true } p b f
  | m => m

/-- The legend of a moved tile (R68): the source's fields as a version 4 reader takes them, poisoned when the tile is. -/
def movedLegend (t : SlotTile) : Legend :=
  let l := (Legend.ofBytes t.legend).asVersion4
  { l with version := 4, poisoned := l.poisoned || t.poison || t.badFrame }

/-- An ABSENT legend for a destination (R54). -/
def State.absentFor (s : State) (x : Step) (u : Option Use) : Legend :=
  let c := s.ctx x.ctx
  absentLegend c.tag.toNat (b2n c.keyed) (if c.keyed then c.cur.gen.toNat else 0)
    (match u with
      | some v => if v.fmt.layout == .variableL then 0 else v.fmt.ceiling.code
      | none => 0)

/-- An ABSENT tile at the destination: its legend, nothing in a packed page (R206). -/
def State.moveAbsent (s : State) (x : Step) (u : Option Use) (c : Option Chain) (i tileNo countA : Nat) : Moved :=
  let variablePage : Bool := match u with | some v => v.fmt.layout == .variableL | none => false
  let packed : Bool := match u with | some v => v.fmt.layout == .packed | none => false
  if packed then .skip
  else if variablePage then
    match c.bind (fun k => x.placeAt .dst k i) with
    | none => .wait
    | some off => .out (outTile .dst c i tileNo (s.absentFor x u) [] countA 0) (some (off, off)) none 0
  else .out (outTile .dst c i tileNo (s.absentFor x u) [] countA 0) none none 0

/-- The placement word of a one-tile block. -/
def Legend.placedAt (l : Legend) (f : Fmt) (off len : Nat) : Legend :=
  { l with fmt := f.code, slotFmt := 0, blockTile := 0, blockOffset := off / 64, storedLen := len }

/-- A one-tile block at the next place of a variable page. -/
def oneTileBlock (x : Step) (r : Role) (c : Option Chain) (i tileNo : Nat) (l : Legend) (b : Fmt × Bytes) (countA countB found : Nat) : Moved :=
  match c.bind (fun k => x.placeAt r k i) with
  | none => .wait
  | some off => .out (outTile r c i tileNo (l.placedAt b.1 off b.2.length) b.2 countA countB)
      (some (off, off + roundUp b.2.length 64)) none found

/-- An old CONTOUR tile, expanded, with checks 10 and 11, and re-encoded: a one-tile block in a variable page or on a
link, a PASS tile elsewhere (R67, R68, R271). -/
def State.moveOld (s : State) (n : Fin 132) (x : Step) (h : Share) (st : StreamFmt) (u : Option Use) (c : Option Chain) (i tileNo countA : Nat)
    (t : SlotTile) : Moved :=
  match s.contentOf n x h .src st i t with
  | .illegal | .needsWindow => .fail 0x30 0x03
  | .ok data _ bad inh =>
    match finishTile st .contour t (Legend.ofBytes t.legend).asVersion4 data 0 bad inh with
    | .fail a b => .fail a b
    | .tile e =>
      let l := { movedLegend t with poisoned := e.poison || t.badFrame, crc := crc32c data }
      let ends := match x.chain .src with | some k => k.bindOffAt i || (k.known && i + 1 == k.tiles) | none => true
      let b := reencode (s.ctx x.ctx).keyed ends t.block data
      match u with
      | none => .out { outTile .dst none i tileNo (l.placedAt b.1 0 b.2.length) b.2 countA 1 with tally := 4096 } none none e.found
      | some v =>
        if v.fmt.layout == .variableL then match oneTileBlock x .dst c i tileNo l b countA 1 e.found with
          | .out o a k f => .out { o with tally := 4096 } a k f
          | w => w
        else .out { outTile .dst c i tileNo { l with fmt := Fmt.pass.code, slotFmt := Fmt.pass.code, blockTile := 0, blockOffset := 0, storedLen := 0 }
          data countA 1 with tally := 4096 } none none e.found

/-- A CONTOUR tile of a version 4 block into a variable page: its block, moved with the block's first tile, takes the next
place; the tiles behind the first take its place (R55, R174, R271). -/
def State.moveBlockTile (s : State) (x : Step) (h : Share) (c : Option Chain) (i tileNo countA : Nat) (t : SlotTile) (l : Legend) : Moved :=
  let k := l.blockTile
  let block := if k == 0 || !t.block.isEmpty then t.block else (h.moveBlock.map (·.2)).getD []
  match blockFate (s.ctx x.ctx).keyed block with
  | .illegal =>
    if t.badFrame then
      oneTileBlock x .dst c i tileNo { l with occupancy := 0, crc := crc32c (zeros 4096), scaleValid := false, tileScale := 0 }
        (.pass, zeros 4096) countA 0 0
    else .fail 0x30 0x03
  | .tiles ts =>
    let data := ts.getD k []
    match oneTileBlock x .dst c i tileNo l (.pass, data) countA 0 0 with
    | .out o a _ f => .out o a (if k == 0 then some (i, block) else h.moveBlock) f
    | r => r
  | .keep b =>
    match c.bind (fun q => x.placeAt .dst q i) with
    | none => .wait
    | some next =>
      let off := if k == 0 then next else ((assoc (placeKey .dst (i - 1)) x.placed).map (·.1)).getD next
      let stop := if k == 0 then off + roundUp b.length 64 else next
      .out (outTile .dst c i tileNo { l with slotFmt := 0, blockOffset := off / 64, storedLen := b.length } (if k == 0 then b else []) countA 0)
        (some (off, stop)) (if k == 0 then some (i, block) else h.moveBlock) 0

/-- The stitch of a gauge or PASS tile as it leaves: the stitch of its format, or the whole slot of slot_fmt over a link
in a keyed context (R129, R413). -/
def movedStitch (whole : Bool) (l : Legend) (st : Bytes) : Bytes :=
  match Fmt.ofCode l.fmt with
  | some .contour => if l.blockTile == 0 then st.take l.storedLen else []
  | some .absent | none => []
  | some f =>
    let own := fitTo (stitchSize f) (st.take (stitchSize f))
    if whole then fitTo (((Fmt.ofCode l.slotFmt).map slotSize).getD own.length) own else own

/-- Moves a tile of chain index `i` into a destination, or over a link when there is none. An old CONTOUR tile that is known
to be poisoned and cannot be expanded is moved as poisoned zeros (DEDUCED, assumption 60). -/
def State.moveTile (s : State) (n : Fin 132) (x : Step) (h : Share) (r : Role) (st : StreamFmt) (u : Option Use) (c : Option Chain)
    (i tileNo countA : Nat) (t : SlotTile) : Moved :=
  let variablePage : Bool := match u with | some v => v.fmt.layout == .variableL | none => false
  let go := fun (t : SlotTile) =>
    let l := movedLegend t
    if l.fmt == Fmt.absent.code then s.moveAbsent x u c i tileNo countA
    else if oldContour (Legend.ofBytes t.legend) then s.moveOld n x h st u c i tileNo countA t
    else match t.stitchOf (s.ctx x.ctx).keyed st with
      | none => .fail 0x30 0x03
      | some p =>
        if variablePage then
          if l.fmt == Fmt.pass.code then oneTileBlock x .dst c i tileNo l (.pass, fitTo 4096 p.1) countA 0 0
          else s.moveBlockTile x h c i tileNo countA t l
        else .out (outTile .dst c i tileNo l (movedStitch (u.isNone && (s.ctx x.ctx).keyed) l p.1) countA 0) none none 0
  match s.checkTile x r st false t with
    | some e => if t.badFrame then go (blankTile st t) else .fail e.1 e.2
    | none => if t.zeroed then go (blankTile st t) else match go t with
      | .fail a b => if t.poison && oldContour (Legend.ofBytes t.legend) then go (blankTile st t) else .fail a b
      | m => m

/-- Puts a moved tile in the output round. -/
def State.putMoved (s : State) (n : Fin 132) (slot i : Nat) (o : OutTile) (at_ : Option (Nat × Nat)) (block : Option (Nat × Bytes))
    (found : Nat) : State :=
  let s1 := match at_ with | some p => s.place slot o.role i p.1 p.2 | none => s
  let s2 := match block with | some b => s1.modShare n slot (fun g => { g with moveBlock := some b }) | none => s1
  (s2.countIntegrity found).emit n slot [o]

/-! ### RECV (R206, R260, R415) -/

/-- The next held tile of a RECV share that can be written: its verdict is in, and it has a place. -/
def State.recvStep (s : State) (n : Fin 132) (slot : Nat) : Option State :=
  match s.step? slot, (s.slice n).share slot with
  | some x, some h =>
    match h.recvHeld with
    | [] => none
    | (i, l, t) :: rest =>
      let s0 := s.modShare n slot (fun g => { g with recvHeld := rest })
      if t.waitVerdict.isSome || !s.atWork n x.ctx then none
      else match x.chain .dst, s.use x .dst with
        | some c, some u => match c.tileAt i with
          | none => if c.known then some ((s0.post (.slice n) (.ls l) (.ack slot .dst i))) else none
          | some tile =>
            let stopped : Bool := match h.stop with | some k => decide (k ≤ i) | none => false
            if stopped then some (s0.post (.slice n) (.ls l) (.ack slot .dst i))
            else
              let bit := x.maskBit .dst tile
              let t1 : SlotTile := { t with tileNo := tile, remote := true, mapBit := bit.word?.map (fun w => bitAt w (tile % 16)) }
              match bit.asks with
              | some a => s.askNew x a
              | none =>
              let m := if bit == .bad then Moved.fail 0x30 0x01
                else if bit.absent then (s.moveAbsent x (some u) (some c) i tile 0).pass
                else s.moveTile n x h .dst u.fmt (some u) (some c) i tile 1 t1
              let s1 := if bit.absent then s0.progress n slot (fun r => { r with flags := { discarded := true } }) else s0
              match m with
              | .wait => none
              | .fail st cause => some (((s0.stopHere n slot st cause i).post (.slice n) (.ls l) (.ack slot .dst i)).settleShares slot)
              | .skip => some ((s1.post (.slice n) (.ls l) (.ack slot .dst i)).settleShare n slot)
              | .out o p b f => some (s1.putMoved n slot i { o with link := some l } p b f)
        | _, _ => none
  | _, _ => none

/-- Writes the held tiles of a RECV step that can be written, over its slices, until none is left; `k` bounds them. -/
def State.recvPass (s : State) (slot : Nat) (ns : List (Fin 132)) : Nat → State
  | 0 => s
  | k + 1 => match ns.findSome? (fun n => s.recvStep n slot) with
    | some t => t.recvPass slot ns k
    | none => s

/-- Tiles a RECV step holds. -/
def State.recvCount (s : State) (slot : Nat) : Nat := sumNat ((s.sharesOf slot).map (fun h => h.recvHeld.length))

/-- Writes what a RECV step can write of the tiles its slices hold. -/
def State.drainRecv (s : State) (slot : Nat) : State :=
  match s.step? slot with
  | none => s
  | some x => s.recvPass slot (s.phys x.slices) (s.recvCount slot)

/-- A tile from the L-port reaches a slice of its RECV step: it is held until its frame's verdict (R260). -/
def State.takeRecv (s : State) (n : Fin 132) (l : Fin 16) (slot i : Nat) (t : SlotTile) : State :=
  match s.step? slot, (s.slice n).share slot with
  | some x, some h =>
    let fresh : Bool := match sharePlace x.head.interleave x.slices.length h.j i with | some p => decide (h.inPos ≤ p) | none => false
    (s.modShare n slot (fun g => { g with recvHeld := g.recvHeld ++ [(i, l, t)], inPos := if fresh then g.inPos + 1 else g.inPos })).drainRecv slot
  | _, _ => s

/-- STITCH: a tile reaches its granted slot, or a slice of its RECV step (R243, R260). -/
def execStitch (sl : Fin 132) (src : UnitId) (s : State) : Host.Outcome State Fault Refusal :=
  match s.recvTxn src (.slice sl) 0x21 with
  | some (.stitch slot r pos t, s1) => .next (s1.fillSlot sl slot r pos t)
  | some (.recvTile slot i t, s1) => match src with
    | .ls l => .next (s1.takeRecv sl l slot i t)
    | _ => .next s1
  | _ => .next s

/-! ### Verdicts (R260) -/

/-- Tiles a slice holds that wait for the verdict of a frame. -/
def Slice.heldFor (x : Slice) (key : Fin 16 × Nat) : Nat :=
  let waits := fun (t : SlotTile) => b2n (t.waitVerdict == some key)
  sumNat (x.shares.map (fun h => sumNat (h.recvHeld.map (fun e => waits e.2.2))
    + sumNat (h.rounds.map (fun r => sumNat (r.slots.map (fun e => match e.content with | .tile t => waits t | _ => 0))))))

/-- A unit that holds tiles of a frame takes its verdict: tiles of a bad frame are poisoned and each is one integrity
failure (R476, R479), and all of them proceed. -/
def State.takeVerdict (s : State) (n : Fin 132) (l : Fin 16) (frame : Nat) (bad : Bool) : State :=
  let key := some (l, frame)
  let settled := fun (t : SlotTile) => if t.waitVerdict == key then { t with waitVerdict := none, badFrame := bad, poison := t.poison || bad } else t
  let slotOf := fun (e : RoundSlot) => match e.content with | .tile t => { e with content := .tile (settled t) } | _ => e
  let s0 := if bad then s.countIntegrity ((s.slice n).heldFor (l, frame)) else s
  let s1 := s0.modSlice n (fun x => { x with shares := x.shares.map (fun h =>
    { h with recvHeld := h.recvHeld.map (fun e => (e.1, e.2.1, settled e.2.2))
             rounds := h.rounds.map (fun r => { r with slots := r.slots.map slotOf }) }) })
  s1.each ((s1.slice n).shares.filter (fun h => h.kind == .recv)) (fun t h => t.drainRecv h.slot)

/-- VERDICT: a link station's verdict on a frame reaches a unit that holds its tiles (R260). -/
def execVerdict (dst : UnitId) (src : Fin 16) (s : State) : Host.Outcome State Fault Refusal :=
  match s.recvTxn (.ls src) dst 0x25 with
  | some (.verdict frame bad, s1) =>
    match dst with
    | .slice n => .next (s1.takeVerdict n src frame bad)
    | _ => .next s1
  | _ => .next s

/-! ### Near-store data (R182, R511) -/

/-- What the hub read for a step has come: a 4 KiB batch of a chain, or a granule of a mask (R182, R227). -/
def Step.nearCame (x : Step) (addr : Nat) (data : Bytes) (bad : List Nat) : Step :=
  if data.length == 4096 then
    { x with batches := x.batches.map (fun b => if b.1 == addr && b.2.isNone then (addr, some (data, bad)) else b) }
  else
    { x with asked := x.asked.filter (· != addr)
             granules := if x.asked.contains addr then (addr, data, !bad.isEmpty) :: x.granules else x.granules }

/-- NDATA: a descriptor batch, map granule or mask descriptor reaches the hub, and the step that asked for it keeps it (R182,
R227, R511); data that a station asked for let go on what waits for them (R348, R511). -/
def execNdata (dst : UnitId) (src : Fin 132) (s : State) : Host.Outcome State Fault Refusal :=
  match s.recvTxn (.slice src) dst 0x23 with
  | some (.ndata step addr data bad, s1) =>
    match dst with
    | .ms m => .next ((s1.nearCame m addr data.length).wake [m])
    | _ =>
      let s2 := s1.modStep step (fun x => x.nearCame addr data bad)
      .next (if (s2.step? step).any (fun x => x.op == some .recv) then s2.drainRecv step else s2)
  | _ => .next s

/-! ### Descriptor batches (R226 to R232) -/

/-- A batch's bytes with its uncorrectable granules as descriptors no check passes (R511). -/
def spoil (data : Bytes) (errs : List Nat) : Bytes :=
  errs.foldl (fun bs g => if g < 64 then overwrite bs (64 * g) (List.replicate 64 0xFF#8) else bs) data

/-- A dispatched step's chain, cut where it leaves its mask; a descriptor error stops the step at that tile (R181, R228). -/
def State.growChain (s : State) (x : Step) (r : Role) (c : Chain) : State :=
  let c2 := match (x.masks.find? (fun p => p.1 == r)).map (·.2) with
    | some m => c.within m
    | none => c
  let s1 := s.modStep x.slot (fun y => y.setChain r c2)
  let s2 := if c2.failed && r != .ref then s1.failTile x.slot 0x30 0x01 c2.tiles else s1
  (if x.op == some .recv then s2.drainRecv x.slot else s2).settleShares x.slot

/-- The chain index the walk of a step's chain has come to: the furthest of its slices' (R226, R231). -/
def State.reached (s : State) (x : Step) (r : Role) : Nat :=
  ((s.sharesOf x.slot).map (fun h => match h.round r, h.round .src with
    | some q, _ => placeIndex x h r q.walk
    | none, some q => placeIndex x h .src q.walk
    | none, none => nextInput x h)).foldl Nat.max 0

/-- The hub has requested the next batch of a chain: its walk wants it, or the step's checks need the whole chain (R231). -/
def State.batchAsked (s : State) (x : Step) (r : Role) (c : Chain) : Bool :=
  !c.known && (needsWholeChain x r || c.wantsBatch (s.reached x r))

/-- Asks for a batch of a chain over NACC (R392, R511). -/
def State.askBatch (s : State) (x : Step) (base : Nat) : State :=
  match s.readSlice x with
  | none => s
  | some n => (s.post .hub (.slice n) (.nacc x.slot false base 4096 [])).modStep x.slot (fun y => { y with batches := (base, none) :: y.batches })

/-- A batch that has come is taken into the chain; its uncorrectable granules are descriptors that no check passes (R393). -/
def State.takeBatch (s : State) (x : Step) (role : Role) (c : Chain) (base : Nat) (d : Bytes × List Nat) : State :=
  let s1 := s.modStep x.slot (fun y => { y with batches := y.batches.filter (fun b => b.1 != base) })
  let c2 := c.batch base (spoil d.1 (d.2.map (fun g => (g - base) / 64)))
  if x.running then s1.growChain x role c2 else s1.modStep x.slot (fun y => y.setChain role c2)

/-- DESCRIPTOR_BATCH: the next 4 KiB batch of a step's chain that its walk or its checks want: the hub asks for it over NACC, and
once it has come the walk goes on through it (R227, R231, R392, R511; DESIGN CHOICE, assumption 94). The row's
`base`, `data` and `errs` repeat what the NDATA brought; the walk takes the bytes of the NDATA. -/
def execDescriptorBatch (slot : Nat) (role : Role) (_base : Nat) (_data : Bytes) (_errs : List Nat) (s : State) : Host.Outcome State Fault Refusal :=
  match s.step? slot with
  | none => .next s
  | some x =>
    let wanted := x.phase == .held || x.running
    match s.chainOf x role with
    | none => .next s
    | some c =>
      if !s.live || !wanted || !(s.roles x).contains role || !s.batchAsked x role c then .next s
      else
        let base := c.next / 4096 * 4096
        match x.batches.find? (fun b => b.1 == base) with
        | none => .next (s.askBatch x base)
        | some (_, none) => .next s
        | some (_, some d) => .next (s.takeBatch x role c base d)

end Sys2Proof.Machine
end

