-- ==== Sys2Proof/Machine/Feed.lean ====
section
/-! DEFINITION. Round heads inside a slice: reference rows, tiles on their way to the gauge or contour compressor, and
moved tiles (R64, R139, R148, R161, R168, R206, R243, R244, R271). -/
namespace Sys2Proof.Machine

/-- The head of a round: the next position in order, when its tile is whole and no frame verdict is awaited (R243, R260). -/
def Round.head? (r : Round) : Option RoundSlot :=
  match r.at? r.h with
  | none => none
  | some q => match q.content with
    | .waiting => none
    | .fill => some q
    | .tile t => if t.waitVerdict.isSome then none else some q

/-- A share goes no further than its stop (R202, R203). -/
def Share.stoppedAt (h : Share) (i : Nat) : Bool :=
  match h.stop with
  | some k => decide (k ≤ i)
  | none => false

/-- The head of a round is used and its slot free: a round without marks. -/
def Round.use (r : Round) : Round :=
  { r with h := r.h + 1, done := Nat.max r.done (r.h + 1), slots := r.slots.filter (fun q => r.h < q.pos) }

/-- Uses the head of a role's round. -/
def State.useHead (s : State) (n : Fin 132) (slot : Nat) (r : Role) : State :=
  s.modShare n slot (fun h => (if r == .src then h.noteBlock else h).modRound r Round.use)

/-! ### The contour reference window (R148) -/

/-- Tiles of the reference a step has in the window of a slice. -/
def Slice.windowTiles (y : Slice) (slot : Nat) : Nat := (y.windowRows slot).length / 16

/-- The reference rows that tile `i` may use are in the window: 1,023 rows beyond its last, or all there are. -/
def State.refReady (s : State) (n : Fin 132) (x : Step) (h : Share) (i : Nat) : Bool :=
  match x.chain .ref with
  | none => true
  | some c =>
    let have_ := (s.slice n).windowTiles x.slot
    (h.round .ref).isNone || i + 65 ≤ have_ || (c.known && c.tiles ≤ have_)

/-- Adds 16 rows to a step's window. -/
def State.addRows (s : State) (n : Fin 132) (x : Step) (data : Bytes) (poison : Bool) : State :=
  let rows := (pieces 256 data).map (fun r => (r, poison))
  s.modSlice n (fun y => { y with window := some (x.ctx, x.slot, y.windowRows x.slot ++ rows) })

/-- A reference tile that fails stops the step at the tile the slice comes to next. -/
def State.failRef (s : State) (n : Fin 132) (x : Step) (h : Share) (status cause i : Nat) : State :=
  ((s.progress n x.slot (fun r => { r with conds := [{ status := status, cause := cause, tile := some i }] })).stopStep x.slot
    (srcNext x h)).settleShares x.slot

/-- The expander takes the head of a share's reference round into the window. -/
def State.startRef (s : State) (n : Fin 132) (x : Step) (h : Share) : Option State :=
  match (h.round .ref).bind Round.head?, s.use x .ref with
  | some q, some u =>
    let taken : Bool := match (s.slice n).window with | some w => w.2.1 != x.slot | none => false
    if taken || h.stoppedAt (srcNext x h) then none
    else
      let s1 := s.useHead n x.slot .ref
      match q.content with
      | .waiting => none
      | .fill => some (s1.addRows n x (zeros 4096) false)
      | .tile t => match s.expand n x h .ref u.fmt false q.chainIdx t with
        | .fail a b => some (s.failRef n x h a b q.chainIdx)
        | .tile e => some (((s1.addRows n x e.data e.poison).countIntegrity e.found).spendCodec false e.legend.fmt 1)
  | _, _ => none

/-! ### Input of the compressors (R139, R161) -/

/-- A tile decoded by the contour decoder, which leaves with its last row (R168). -/
def contourWork (t : SlotTile) : Bool :=
  (Legend.ofBytes t.legend).asVersion4.fmt == Fmt.contour.code || t.demotedLen != 0

/-- A tile of a weight load (R364). -/
def State.loadTile (s : State) (x : Step) (t : SlotTile) : Bool := s.isLoad x && (Legend.ofBytes t.legend).keyClass == 2

/-- The scale a source tile brings to its compressor, with whether it is one (R161, R172): of a T2 tile in a contour
compressor its stitch's, in a decompression its legend's; poisoned zeros count as T2 zeros. -/
def State.inputScale (s : State) (x : Step) (h : Share) (st : StreamFmt) (e : Expanded) : Nat × Bool :=
  if h.kind == .contour then (if st.base.ternary then (e.scale, true) else (0, false))
  else if e.zeros then (0, match s.use x .dst with | some u => u.fmt.base.ternary | none => false)
  else (if e.legend.scaleValid then e.legend.tileScale else 0, e.legend.scaleValid)

/-- A source tile as compressor input. -/
def inputTile (x : Step) (i : Nat) (load : Bool) (scale : Nat × Bool) (data : Bytes) (absent poison : Bool) : InTile :=
  { chainIdx := i, load := load, data := data, pos := [], beats := 4, scale := scale.1, scaleValid := scale.2
    absent := absent, poison := poison, bindOff := match x.chain .src with | some c => c.bindOffAt i | none => false }

/-- An absent source tile as compressor input: a tile of zeros, since no mask of the step declares it absent (R126); as T2
input of scale 0 where the source, or in a decompression the destination, is ternary. -/
def State.absentInput (s : State) (x : Step) (h : Share) (st : StreamFmt) (i : Nat) (load poison : Bool) : InTile :=
  let ternary := if h.kind == .contour then st.base.ternary
    else match s.use x .dst with | some u => u.fmt.base.ternary | none => false
  inputTile x i load (0, ternary) (zeros 4096) false poison

/-- The tile after chain index `i` is the next one of its page and this slice's own, so a block may go on to it (R138). -/
def goesOn (x : Step) (h : Share) (i : Nat) : Bool :=
  match x.chain .dst with
  | none => false
  | some c => (sharePlace x.head.interleave x.slices.length h.j (i + 1)).isSome && (match c.tileAt i, c.tileAt (i + 1) with
    | some a, some b => b == a + 1
    | _, none => !c.known
    | _, _ => false)

/-- The block in the contour compressor takes a tile; it closes when R139 ends it there. -/
def State.addToBlock (s : State) (x : Step) (b : Option OpenBlock) (t : InTile) : OpenBlock :=
  let ts := (match b with | some o => o.tiles | none => []) ++ [t]
  let pageEnd := ((x.chain .dst).bind (fun c => c.tileAt t.chainIdx)).any (fun d => d % 16 == 15)
  { firstIdx := match b with | some o => o.firstIdx | none => t.chainIdx
    tiles := ts, closed := ts.length ≥ s.hub.dict.blockTiles.toNat || pageEnd || t.bindOff }

/-- A block takes no further tile: it is closed, or the next tile of the chain is not its page's next on this slice, or
there is none (R138, R139). -/
def blockOver (x : Step) (h : Share) (b : OpenBlock) : Bool :=
  b.closed || (match b.tiles.getLast? with | some t => !goesOn x h t.chainIdx | none => false)

/-- Puts an input tile before its compressor. -/
def State.enqueue (s : State) (n : Fin 132) (x : Step) (t : InTile) : State :=
  s.modShare n x.slot (fun h =>
    if h.kind == .contour then { h with block := some (s.addToBlock x h.block t) } else { h with queue := h.queue ++ [t] })

/-- The compressor of a share can take an input tile. -/
def takesTile (x : Step) (h : Share) : Bool :=
  match h.kind with
  | .contour => match h.block with | some b => !blockOver x h b | none => true
  | _ => h.queue.isEmpty

/-- The expander takes the head of a share that feeds a compressor: a contour tile passes through the decoder, any
other is input at once. -/
def State.startFeed (s : State) (n : Fin 132) (x : Step) (h : Share) : Option State :=
  match (h.round .src).bind Round.head?, s.use x .src with
  | some q, some u =>
    if h.stoppedAt q.chainIdx || !takesTile x h || (s.slice n).decoding.isSome || !(h.kind == .contour || s.refReady n x h (neededIndex x h .src q)) then none
    else
      let s1 := s.useHead n x.slot .src
      let done := fun (t : State) => (t.settlePass x.slot).settleShare n x.slot
      match q.content with
      | .waiting => none
      | .fill => some (done (s1.enqueue n x (s.absentInput x h u.fmt q.chainIdx false false)))
      | .tile t => match s.expand n x h .src u.fmt false q.chainIdx t with
        | .fail a b => some ((s.stopHere n x.slot a b q.chainIdx).settleShares x.slot)
        | .tile e =>
          let s2 := s1.countIntegrity e.found
          let s2 := if t.frog.isSome then s2.progress n x.slot (fun rep => { rep with flags := { frogged := true } }) else s2
          if e.absent then some (done (s2.enqueue n x (s.absentInput x h u.fmt q.chainIdx (s.loadTile x t) e.poison)))
          else if contourWork t && !e.zeros then
            some (s2.modSlice n (fun y => { y with decoding := some { slot := x.slot, chainIdx := q.chainIdx, pos := q.pos, data := e.data
                                                                      legend := e.legend, scale := e.scale, poison := e.poison } }))
          else some (done ((s2.spendCodec false e.legend.fmt 1).enqueue n x (inputTile x q.chainIdx (s.loadTile x t) (s.inputScale x h u.fmt e) e.data false e.poison)))
  | _, _ => none

/-! ### Moved tiles (R68, R271, R413) -/

/-- What a moved tile's visibility adds to count_a (Table 08-12): tiles moved, and tiles multicast. -/
def ShareKind.moveCount : ShareKind → Nat
  | .move | .multicast => 1
  | _ => 0

/-- The source's effective mask marks the head present; where the source has no mask, its legend says it (R180, R271). -/
def sourcePresent (x : Step) (srcTile : Nat) (q : RoundSlot) : Bool :=
  match x.maskBit .src srcTile with
  | .bit b _ => b
  | _ => match q.content with
    | .tile t => (Legend.ofBytes t.legend).fmt != Fmt.absent.code
    | _ => false

/-- The head of a share that moves tiles goes to the output round. -/
def State.startMove (s : State) (n : Fin 132) (x : Step) (h : Share) : Option State :=
  match (h.round .src).bind Round.head?, s.use x .src with
  | some q, some su =>
    if h.stoppedAt q.chainIdx || h.stalled then none
    else
      let i := q.chainIdx
      let u := s.use x .dst
      let c := x.chain .dst
      let srcTile := ((x.chain .src).bind (fun k => k.tileAt i)).getD 0
      let tileNo : Option Nat := match u with | some _ => c.bind (fun k => k.tileAt i) | none => some srcTile
      let count := h.kind.moveCount
      match tileNo with
      | none => none
      | some d =>
        let bit := if u.isSome then x.maskBit .dst d else .free
        match bit.asks with
        | some a => s.askNew x a
        | none =>
        let m := if bit == .bad then Moved.fail 0x30 0x01
          else if x.op == some .move && bit.word?.isSome && sourcePresent x srcTile q == bit.absent then .fail 0x30 0x01
          else if bit.absent then (s.moveAbsent x u c i d 0).pass
          else match q.content with
            | .tile t => s.moveTile n x h .src su.fmt u c i d count t
            | _ => s.moveAbsent x u c i d count
        let done := fun (t : State) => (t.settlePass x.slot).settleShare n x.slot
        let frog : Bool := match q.content with | .tile t => t.frog.isSome | _ => false
        let s := if frog then s.progress n x.slot (fun rep => { rep with flags := { frogged := true } }) else s
        match m with
        | .wait => none
        | .fail a b => some ((s.stopHere n x.slot a b i).settleShares x.slot)
        | .skip => some (done (s.useHead n x.slot .src))
        | .out o p b f => some (done ((s.useHead n x.slot .src).putMoved n x.slot i o p b f))
  | _, _ => none

end Sys2Proof.Machine
end

