-- ==== Sys2Proof/Machine/DPort.lean ====
section
/-! DEFINITION. Delivery through the D-port: tiles, pairs, frogged markers, holder queues and rewind marks (R100, R101,
R168, R185 to R204, R243 to R249, R252, R255, R313, R396 to R401, R477, R499). -/
namespace Sys2Proof.Machine

/-! ### Who holds the D-port -/

/-- The share that holds the D-port: the first of the bound context's delivering shares, in dispatch order, that has not
ended at the hub (R101, R245, R249). -/
def Slice.dHolder (y : Slice) : Option Share :=
  y.shares.find? (fun h => h.kind.toDPort && y.bound == some h.ctx && !h.paused && !h.reported)

/-- Share `slot` holds the D-port. -/
def Slice.holds (y : Slice) (slot : Nat) : Bool := (y.dHolder.map (·.slot)) == some slot

/-- The D-port can begin a tile: it sends none, and a buffer handle waits in D-free (R252, R401). -/
def Slice.mayOffer (y : Slice) : Bool := y.sending.isNone && !y.dFree.isEmpty

/-- No frogged marker of the step is due before chain index `i` (R399). -/
def Slice.markersGone (y : Slice) (slot i : Nat) : Bool := y.frogQ.all (fun f => f.slot != slot || i < f.index)

/-- The delivery fields of a step. -/
def Step.delivery (x : Step) : DeliverFields := deliverFields (x.op.getD .nop) x.words

/-- Moves the read index of a delivering share's rounds past the head; its slots stay for marks (R243). -/
def Share.takeHeads (h0 : Share) : Share :=
  let h := h0.noteBlock
  { h with rounds := h.rounds.map (fun r => if r.role == .ref then r else { r with h := r.h + 1 }) }

/-- Positions below `k` are delivered; slots below the retain index are free. -/
def Share.delivered (h : Share) (k : Nat) : Share :=
  let g : Share := { h with rounds := h.rounds.map (fun r => if r.role == .ref then r else { r with done := Nat.max r.done k }) }
  { g with rounds := g.rounds.map (fun r => if r.role == .ref then r else
      { r with slots := r.slots.filter (fun q => retain g r ≤ q.pos) }) }

/-! ### Offering a tile -/

/-- Begins a tile on the D-port with the oldest D-free handle (R252, R401). -/
def State.offer (s : State) (n : Fin 132) (x : Step) (h : Share) (i pos mode scale pairs : Nat) (poison : Bool)
    (beats : List (Nat × Bytes × Bytes)) : State :=
  let done := ((h.round .src).map (·.done)).getD 0
  s.modSlice n (fun y => match y.dFree with
    | [] => y
    | f :: fs =>
      { y with
        dFree := fs
        sending := some { slot := x.slot, ctx := x.ctx, tag := x.head.tag, chainIdx := i, pos := pos, mode := mode, scale := scale, poison := poison
                          buf := f.handle, replay := pos < done, pairs := pairs, sent := 0, beats := beats } })

/-- Begins an expanded tile in the form its step's mode gives it (R186 to R188, R97). -/
def State.offerTile (s : State) (n : Fin 132) (x : Step) (h : Share) (i pos : Nat) (st : StreamFmt) (e : Expanded) : State :=
  let d := x.delivery
  let ternary : Bool := match Fmt.ofCode e.legend.fmt with | some f => f.ternary | none => false
  let data := orient d.orientation ternary e.data
  let form := tileForm d.mode s.hub.dict.autoDensity.toNat st d.orientation { e with data := data }
  s.offer n x h i pos form e.scale 0 e.poison (beatsOf form data)

/-- The integrity failures found in a tile, once: a replay does not count them again (R479). -/
def State.countFound (s : State) (r : Round) (pos found : Nat) : State := if pos < r.done then s else s.countIntegrity found

/-- The expander starts the head of the share that holds the D-port: its checks fail and the step stops there, or it is
absent and passes under SKIP, or, once D-free holds a handle, it goes through the contour decoder or its first beat is
offered (R252). -/
def State.startDeliver (s : State) (n : Fin 132) (x : Step) (h : Share) : Option State :=
  let y := s.slice n
  match h.round .src, s.use x .src with
  | some r, some u => match r.head? with
    | none => none
    | some q =>
      if !y.holds x.slot || h.stoppedAt q.chainIdx || !y.markersGone x.slot q.chainIdx || y.sending.isSome || y.decoding.isSome
          || !s.refReady n x h (neededIndex x h .src q) then none
      else
        let took := fun (t : State) => t.modShare n x.slot Share.takeHeads
        let i := q.chainIdx
        match q.content with
        | .waiting => none
        | .fill => if !y.mayOffer then none
          else some (took (s.offerTile n x h i q.pos u.fmt (absentExpansion u.fmt (Legend.ofBytes (zeros 32)))))
        | .tile t => match t.frog with
          | some cookie => some ((((s.dropHeads n h).meetFrog n x h .src i t.tileNo cookie).settlePass x.slot).settleShare n x.slot)
          | none => match s.expand n x h .src u.fmt x.delivery.orientation i t with
          | .fail a b => some ((s.stopHere n x.slot a b i).settleShares x.slot)
          | .tile e =>
            let counted := fun (w : State) => w.countFound r q.pos e.found
            if e.absent && x.skipsAbsent then
              some (((counted (s.dropHeads n h)).settlePass x.slot).settleShare n x.slot)
            else if !y.mayOffer then none
            else if contourWork t && !e.absent && !e.zeros then
              some ((counted (took s)).modSlice n (fun z =>
                { z with decoding := some { slot := x.slot, chainIdx := i, pos := q.pos, data := e.data, legend := e.legend
                                            scale := e.scale, poison := e.poison } }))
            else some ((counted (took (s.offerTile n x h i q.pos u.fmt e))).spendCodec false e.legend.fmt 1)
  | _, _ => none

/-- What the expander can start for one share: its reference first, then its source. -/
def State.startShare (s : State) (n : Fin 132) (slot : Nat) : Option State :=
  match s.liveShare n slot with
  | none => none
  | some (x, h) => match s.startRef n x h with
    | some t => some t
    | none => match h.kind with
      | .deliver => s.startDeliver n x h
      | .decompress | .contour => s.startFeed n x h
      | .move | .sendOut | .multicast => s.startMove n x h
      | _ => none

/-- EXPAND_START: the slice's expander starts the first whole tile, in dispatch order of its steps, whose datapath is
free, with every check done before its first beat (R64, R100, R243). -/
def execExpandStart (sl : Fin 132) (s : State) : Host.Outcome State Fault Refusal :=
  match (s.slice sl).shares.findSome? (fun h => s.startShare sl h.slot) with
  | some t => .next (t.modSlice sl Slice.touch)
  | none => .next s

/-- CONTOUR_TILE_DECODED: the contour decoder's last row is out: the tile leaves for its D-port, when a buffer waits, or
for the compressor behind it (R161, R168). -/
def execContourTileDecoded (sl : Fin 132) (s : State) : Host.Outcome State Fault Refusal :=
  match (s.slice sl).decoding with
  | none => .next s
  | some d => match s.liveShare sl d.slot with
    | none => .next s
    | some (x, h) =>
      let s1 := (s.modSlice sl (fun y => { y with decoding := none })).spendCodec false d.legend.fmt 1
      let e : Expanded := { legend := d.legend, data := d.data, scale := d.scale, absent := false, zeros := false, poison := d.poison, found := 0 }
      if h.kind.toDPort then
        match s.use x .src with
        | none => .next s
        | some u => if (s.slice sl).mayOffer then .next (s1.offerTile sl x h d.chainIdx d.pos u.fmt e) else .next s
      else if takesTile x h then
        let load := s.isLoad x && d.legend.keyClass == 2
        match s.use x .src with
        | none => .next s
        | some u =>
          .next (((s1.enqueue sl x (inputTile x d.chainIdx load (s.inputScale x h u.fmt e) d.data false d.poison)).settlePass d.slot).settleShare
            sl d.slot)
      else .next s

/-! ### Pairs (R197 to R200) -/

/-- One tile of a pair, expanded; a FILL position stands for an absent tile. -/
def State.pairTile (s : State) (n : Fin 132) (x : Step) (h : Share) (r : Role) (u : Use) (q : RoundSlot) : Expansion :=
  match q.content with
  | .tile t => s.expand n x h r u.fmt (r == .src && x.delivery.orientation) q.chainIdx t
  | _ => .tile (absentExpansion u.fmt (Legend.ofBytes (zeros 32)))

/-- The page of a tile that was FROGGED when its fetch was accepted: role, tile and cookie (R313). -/
def SlotContent.frog (r : Role) : SlotContent → Option (Role × Nat × Nat)
  | .tile t => t.frog.map (fun c => (r, t.tileNo, c))
  | _ => none

/-- Starts the pair at the heads of both rounds. -/
def State.startPair (s : State) (n : Fin 132) (x : Step) (h : Share) : Option State :=
  let y := s.slice n
  match h.round .src, h.round .act, s.use x .src, s.use x .act with
  | some rw, some ra, some uw, some ua => match rw.head?, ra.head? with
    | some qw, some qa =>
      let i := qw.chainIdx
      if !y.holds x.slot || h.stoppedAt i || !y.markersGone x.slot i || y.sending.isSome then none
      else
        let fail := fun (a b : Nat) => some ((s.stopHere n x.slot a b i).settleShares x.slot)
        let passed := fun (t : State) => some ((t.settlePass x.slot).settleShare n x.slot)
        let frogs := (qw.content.frog .src).toList ++ (qa.content.frog .act).toList
        if !frogs.isEmpty then passed ((s.dropHeads n h).meetFrogs n x i frogs)
        else match s.pairTile n x h .src uw qw, s.pairTile n x h .act ua qa with
        | .fail a b, _ => fail a b
        | .tile _, .fail a b => fail a b
        | .tile w, .tile a =>
          let s1 := (s.modShare n x.slot Share.takeHeads).countFound rw qw.pos (w.found + a.found)
          if (w.absent || a.absent) && x.skipsAbsent then passed ((s.dropHeads n h).countFound rw qw.pos (w.found + a.found))
          else if !y.mayOffer then none
          else
            let b := if w.absent || a.absent then pairsBeats (zeros 4096) (zeros 4096)
              else pairsBeats (orient x.delivery.orientation true w.data) a.data
            some (((s1.offer n x h i qw.pos 3 w.scale b.2 (w.poison || a.poison) b.1).spendCodec false w.legend.fmt 1).spendCodec false a.legend.fmt 1)
    | _, _ => none
  | _, _, _, _ => none

/-- PAIR_START: the gather-and-merge unit starts a pair whose two stitches are whole (R198 to R200). -/
def execPairStart (sl : Fin 132) (s : State) : Host.Outcome State Fault Refusal :=
  match (s.slice sl).shares.findSome? (fun h => if h.kind == .gatherMerge then (s.liveShare sl h.slot).bind (fun p =>
      s.startPair sl p.1 p.2) else none) with
  | some t => .next (t.modSlice sl Slice.touch)
  | none => .next s

/-! ### Beats (R380, R396, R397, R401) -/

/-- Entries of D-free, D-full and A-done (Table 07-5). -/
def holderDepth : Nat := 16

/-- The last beat of a tile has transferred: the tile is delivered, its handle enters D-full, and its bytes and counts
are sent (R37, R243, R290, R401, R499). A tile whose step has been dropped counts for its context as well (assumption 62). -/
def State.finishTile (s : State) (n : Fin 132) (d : DTile) : State :=
  let counted := fun (t : State) => t.tallyAdd (.slice n) d.ctx 0 (if d.mode == 3 then 8192 else 4096)
  let entry := fun (last : Bool) => ({ poisoned := d.poison, tag := d.tag, handle := d.buf, last := last } : QEntry)
  let s1 := s.modSlice n (fun y => { y with sending := none })
  let push := fun (t : State) (last : Bool) => t.modSlice n (fun y => { y with dFull := y.dFull ++ [entry last] })
  match s1.step? d.slot, (s1.slice n).share d.slot with
  | some x, some h =>
    let g := { h.delivered (d.pos + 1) with last := some (Nat.max (h.last.getD 0) d.chainIdx) }
    let s2 := s1.modShare n d.slot (fun _ => g)
    let s3 := push s2 (shareOver x (s2.slice n) g && g.marks.all (fun m => !m.hard))
    let s4 := s3.progress n d.slot (fun r =>
      { r with
        tiles := b2n (!d.replay), countA := b2n (!d.replay)
        countB := if d.mode == 3 then (if d.replay then 0 else d.pairs) else b2n (d.replay && x.op == some .deliver)
        conds := if d.poison then [{ status := 0x03, cause := 0, tile := some d.chainIdx }] else []
        flags := { poisoned := d.poison } })
    ((counted s4).settlePass d.slot).settleShare n d.slot
  | _, _ => counted (push (s1.modSlice n (fun y => { y with dEnd := some (BitVec.ofNat 16 d.tag) })) true)

/-- D_BEAT: a D-port beat transfers; after the last the tile is delivered, and with the step's last d_end is raised. The
last beat waits while D-full has no place for the handle. -/
def execDBeat (sl : Fin 132) (s : State) : Host.Outcome State Fault Refusal :=
  match (s.slice sl).sending with
  | none => .next s
  | some d =>
    if !s.live || !(s.slice sl).awake then .next s
    else if d.sent + 1 < d.beats.length then
      .next ((s.modSlice sl (fun y => { y with sending := some { d with sent := d.sent + 1 } })).spend 0 1)
    else if (s.slice sl).dFull.length ≥ holderDepth then .next s
    else .next ((s.finishTile sl d).spend 0 1)

/-- FROG_MARKER: the oldest frogged marker transfers (R313, R399). -/
def execFrogMarker (sl : Fin 132) (s : State) : Host.Outcome State Fault Refusal :=
  match (s.slice sl).frogQ with
  | [] => .next s
  | f :: fs =>
    if s.live && (s.slice sl).awake then .next ((s.modSlice sl (fun y => { y with frogQ := fs })).settleShare sl f.slot)
    else .next s

/-! ### Holder queues (R252, R255, R401) -/

/-- D_FREE_PUSH: the consumer pushes a buffer handle; a full queue refuses it (R255). -/
def execDFreePush (sl : Fin 132) (entry : BitVec 64) (s : State) : Host.Outcome State Fault Refusal :=
  if s.live && (s.slice sl).awake && (s.slice sl).dFree.length < holderDepth then
    .next (s.modSlice sl (fun y => { y with dFree := y.dFree ++ [QEntry.ofWord entry.toNat] }))
  else .next s

/-- D_FULL_POP: the consumer pops the oldest filled handle; an empty queue returns nothing (R255). -/
def execDFullPop (sl : Fin 132) (s : State) : Host.Outcome State Fault Refusal :=
  if s.live && (s.slice sl).awake then .next (s.modSlice sl (fun y => { y with dFull := y.dFull.drop 1 })) else .next s

/-! ### Marks (R245 to R249, R400) -/

/-- The share a mark operation acts on; without one the operation is ignored (R400). -/
def State.markShare (s : State) (n : Fin 132) : Option Share :=
  if s.live && (s.slice n).awake then (s.slice n).dHolder else none

/-- Read index of a delivering share: positions taken by its expander. -/
def Share.readIndex (h : Share) : Nat := ((h.round .src).map (·.h)).getD 0

/-- Sets a mark at the read index; an earlier mark of the number is replaced (R245, R400). -/
def State.setMark (s : State) (n : Fin 132) (slot : Nat) (id : Fin 2) (hard : Bool) : State :=
  s.modShare n slot (fun g =>
    { g with marks := g.marks.filter (fun m => m.id != id) ++ [{ id := id, hard := hard, pos := g.readIndex }] })

/-- The read index of a share's rounds goes back to a position; the tile being delivered, in the contour decoder or on the
D-port, finishes (R246). -/
def State.goBack (s : State) (n : Fin 132) (slot pos : Nat) : State :=
  s.modShare n slot (fun g => { g with rounds := g.rounds.map (fun r => if r.role == .ref then r else { r with h := pos }) })

/-- A rewind: delivery continues at the mark's tile after the tile being delivered; without the mark it is refused and the
step will complete MARK_LOST (R246, R248, R400). -/
def State.rewindTo (s : State) (n : Fin 132) (slot : Nat) (id : Fin 2) : State :=
  match ((s.slice n).share slot).bind (fun h => h.marks.find? (fun m => m.id == id)) with
  | some m => s.goBack n slot m.pos
  | none =>
    (s.modSlice n (fun y => { y with markRefused := some id })).progress n slot (fun r =>
      { r with conds := [{ status := 0x24, cause := 0, tile := none }], flags := { markLost := true } })

/-- A release: the mark is gone and the retain index may move (R243, R246, R249). -/
def State.dropMark (s : State) (n : Fin 132) (slot : Nat) (id : Fin 2) : State :=
  s.modShare n slot (fun g => { g with marks := g.marks.filter (fun m => m.id != id) }.delivered 0)

/-- The effect of one lane's operation on the share that holds the D-port. -/
def State.markOp (s : State) (n : Fin 132) (slot : Nat) (o : MarkOp) : State :=
  match o.kind with
  | .setHard => s.setMark n slot o.id true
  | .setSoft => s.setMark n slot o.id false
  | .rewind => s.rewindTo n slot o.id
  | .release => s.dropMark n slot o.id

/-- The operations of one cycle in the order in which they take effect: releases, then rewinds, then sets, lane 0 before lane 1
(R246, R400): of a set and a release of one mark the set stands, of two sets lane 1's. -/
def markOrder (lane0 : MarkOp) (lane1 : Option MarkOp) : List MarkOp :=
  let ops := lane0 :: lane1.toList
  ops.filter (fun o => o.kind == .release) ++ ops.filter (fun o => o.kind == .rewind)
    ++ ops.filter (fun o => o.kind == .setHard || o.kind == .setSoft)

/-- The mark operations of one cycle; its share may end on them (R249). Without a share that holds the D-port they are
ignored (R400). -/
def State.markCycle (s : State) (n : Fin 132) (lane0 : MarkOp) (lane1 : Option MarkOp) : State :=
  match s.markShare n with
  | none => s
  | some h => (s.each (markOrder lane0 lane1) (fun t o => t.markOp n h.slot o)).settleShare n h.slot

/-- SET_HARD on lane 0, with what lane 1 carries in the cycle (R245, R400). -/
def execSetHard (sl : Fin 132) (lanes : MarkLanes) (s : State) : Host.Outcome State Fault Refusal :=
  .next (s.markCycle sl { kind := .setHard, id := lanes.id } lanes.lane1)

/-- SET_SOFT on lane 0, with what lane 1 carries in the cycle (R245, R400). -/
def execSetSoft (sl : Fin 132) (lanes : MarkLanes) (s : State) : Host.Outcome State Fault Refusal :=
  .next (s.markCycle sl { kind := .setSoft, id := lanes.id } lanes.lane1)

/-- REWIND on lane 0, with what lane 1 carries in the cycle (R246, R248, R400). -/
def execRewind (sl : Fin 132) (lanes : MarkLanes) (s : State) : Host.Outcome State Fault Refusal :=
  .next (s.markCycle sl { kind := .rewind, id := lanes.id } lanes.lane1)

/-- RELEASE on lane 0, with what lane 1 carries in the cycle (R243, R246, R249, R400). -/
def execRelease (sl : Fin 132) (lanes : MarkLanes) (s : State) : Host.Outcome State Fault Refusal :=
  .next (s.markCycle sl { kind := .release, id := lanes.id } lanes.lane1)

end Sys2Proof.Machine
end

