-- ==== Sys2Proof/Machine/Compress.lean ====
section
/-! DEFINITION. The A-port and the compressors: input of compress, contour compress and scatter steps, the gauge compressor
and the contour compressor (R54, R57, R58, R86 to R95, R121 to R126, R134 to R136, R138 to R143, R155 to R161, R172, R203,
R206 to R208, R212, R244, R316, R402 to R404). -/
namespace Sys2Proof.Machine

/-! ### Which step takes A-port input (R403) -/

/-- Records a scatter step has accepted over its slices. -/
def State.recordsIn (s : State) (slot : Nat) : Nat := sumNat ((s.sharesOf slot).map (·.inPos))

/-- A share still wants A-port input. -/
def State.wantsInput (s : State) (x : Step) (h : Share) : Bool :=
  h.takesInput && !h.inDone && (if h.kind == .scatter then decide (s.recordsIn x.slot < recordsOf x.words)
    else match x.chain .dst with
      | some c => !c.known || h.inPos < shareTiles x.head.interleave x.slices.length h.j c.tiles
      | none => false)

/-- The share whose input the slice takes: the first, in dispatch order, that still wants input (R403). -/
def State.inputShare (s : State) (n : Fin 132) : Option (Step × Share) :=
  let y := s.slice n
  match y.shares.find? (fun h => y.bound == some h.ctx && !h.reported && (match s.step? h.slot with
      | some x => s.wantsInput x h
      | none => false)) with
  | none => none
  | some h => s.liveShare n h.slot

/-- Input form of a step: 0 dense, 1 ternarise, 2 LIST; contour input is dense (Table 08-5). -/
def Step.inputForm (x : Step) : Nat := if x.op == some .compress then wordField x.words 6 0 2 else 0

/-- The consumer sends present tiles only, with their indices: the step's policy, or that of a share handed to a
replacement slice (R206, Table 14-5). -/
def presentOnly (x : Step) (h : Share) : Bool :=
  h.resumeFrom.isSome || (x.op == some .compress && wordBit x.words 6 2)

/-! ### LIST input (R208) -/

/-- Values and position codes of a LIST tile's beats, in order. -/
def listEntries (bs : List ABeat) : List (Nat × Nat) :=
  bs.flatMap (fun b => (bfValues (fitTo 1024 b.data)).zip (bfValues (fitTo 1024 b.pos)))

/-- The named positions with their values; none when a code is out of range or not strictly above the one before it. -/
def listNamed : Option Nat → List (Nat × Nat) → Option (List (Nat × Nat))
  | _, [] => some []
  | low, (v, code) :: rest =>
    if !bitAt code 15 then listNamed low rest
    else
      let p := field code 0 12
      if p ≥ 2048 || (match low with | some q => p ≤ q | none => false) then none
      else (listNamed (some p) rest).map (fun l => (p, v) :: l)

/-- The dense tile a LIST tile stands for; none when R208 refuses it. -/
def listTile (bs : List ABeat) : Option Bytes :=
  if bs.length > 4 then none
  else (listNamed none (listEntries bs)).map (fun l => bfTile ((List.range 2048).map (fun p => (assoc p l).getD 0)))

/-! ### Taking a tile (R203, R206, R404) -/

/-- Bytes of an input tile. -/
def Step.tileBytes (x : Step) : Nat := if x.inputForm == 1 then 32768 else 4096

/-- The tile an A-port group carries; none when the input form refuses it. A T2 or BF16 group of another number of beats than
its tile's is cut, or filled with zeros, to the tile's size and coded (DESIGN CHOICE, assumption 117). -/
def tileOf (x : Step) (i : Nat) (bs : List ABeat) : Option InTile :=
  let data := if x.inputForm == 2 then listTile bs else some (fitTo x.tileBytes (bs.flatMap (·.data)))
  match data, bs.getLast? with
  | some d, some l => some
    { chainIdx := i, load := false, data := d, pos := [], beats := bs.length, scale := l.scale.toNat
      scaleValid := x.op == some .compress || wordBit x.words 6 13, absent := false, poison := bs.any (·.poison)
      bindOff := l.bindOff }
  | _, _ => none

/-- A tile that the destination mask marks absent: an ABSENT legend to be written, nothing in a packed page (R206). -/
def State.discardAbsent (s : State) (n : Fin 132) (x : Step) (i : Nat) : State :=
  match s.use x .dst with
  | none => s
  | some u =>
    if u.fmt.layout == .packed then s
    else s.modShare n x.slot (fun h => { h with queue := h.queue ++ [inputTile x i false (0, false) [] true false] })

/-- The destination mask's bit at a chain index. -/
def Step.maskAt (x : Step) (i : Nat) : MaskBit :=
  match (x.chain .dst).bind (fun c => c.tileAt i) with
  | some t => x.maskBit .dst t
  | none => .free

/-- Passes the absent tiles that a share which takes present tiles only comes to next, as far as the map has been read; `k`
bounds them. -/
def State.passAbsent (s : State) (n : Fin 132) (slot : Nat) : Nat → State
  | 0 => s
  | k + 1 => match s.step? slot, (s.slice n).share slot with
    | some x, some h =>
      let i := nextInput x h
      if !presentOnly x h then s
      else if (x.maskAt i).absent then
        ((if h.stoppedAt i then s else s.discardAbsent n x i).modShare n slot (fun g => { g with inPos := g.inPos + 1 })).passAbsent n slot k
      else s
    | _, _ => s

/-- Tiles of a share's destination chain as far as it is known. -/
def shareLength (x : Step) (h : Option Share) : Nat :=
  match h, x.chain .dst with
  | some g, some c => shareTiles x.head.interleave x.slices.length g.j c.tiles
  | _, _ => 0

/-- A share's A-port tile is refused, named at `i`, and its input from place `k` on is discarded (R203). -/
def State.refuseInput (s : State) (n : Fin 132) (slot i k cause : Nat) : State :=
  (s.progress n slot (fun r => { r with conds := [{ status := 0x30, cause := cause, tile := some i }] })).stopStep slot (Nat.min i k)

/-- A bind-off falls before the last tile of a REFUSE step, which must be one block (R159). -/
def Step.bindsEarly (x : Step) (t : InTile) : Bool :=
  x.op == some .cCompress && !wordBit x.words 6 12 && t.bindOff && (x.chain .dst).any (fun c => t.chainIdx + 1 < c.tiles)

/-- What becomes of a whole A-port tile that names chain index `i`. A tile the destination mask marks absent is refused
at its own index, any other index that is not the next one of the share at the index expected (R201, R206). -/
def State.takeTile (s : State) (n : Fin 132) (x : Step) (h : Share) (i : Nat) (bs : List ABeat) : State :=
  let next := nextInput x h
  let counted := fun (t : State) => t.modShare n x.slot (fun g => { g with inPos := g.inPos + 1 })
  let refuse := fun (at_ cause : Nat) => counted (s.refuseInput n x.slot at_ next cause)
  let bit := x.maskAt i
  let before : Bool := match h.resumeFrom with | some k => decide (i ≤ k) | none => false
  if before then s
  else if h.stoppedAt next then counted s
  else if bit == .bad then refuse i 0x01
  else if bit.absent && presentOnly x h then refuse i 0x06
  else if i != next then refuse next 0x06
  else if bit.absent then counted ((s.discardAbsent n x i).progress n x.slot (fun r => { r with flags := { discarded := true } }))
  else match tileOf x i bs with
    | none => refuse i 0x06
    | some t => if x.bindsEarly t then refuse i 0x01 else counted (s.enqueue n x t)

/-- The A-done entry of an input tile or group (R404, Table 07-4). -/
def State.pushDone (s : State) (n : Fin 132) (x : Step) (bs : List ABeat) (last : Bool) : State :=
  let e : QEntry :=
    { poisoned := bs.any (·.poison), tag := x.head.tag, handle := match bs.getLast? with | some b => b.buf.toNat | none => 0
      last := last }
  s.modSlice n (fun y => { y with aIn := [], aDone := y.aDone ++ [e] })

/-- A share of a compress step has taken its last input tile. -/
def State.inputTaken (s : State) (n : Fin 132) (x : Step) : Bool :=
  match (s.slice n).share x.slot, x.chain .dst with
  | some h, some c => c.known && decide (shareTiles x.head.interleave x.slices.length h.j c.tiles ≤ h.inPos)
  | _, _ => false

/-- A whole input tile of a compress or contour compress step. -/
def State.takeInput (s : State) (n : Fin 132) (x : Step) (bs : List ABeat) : State :=
  let s1 := s.passAbsent n x.slot (shareLength x ((s.slice n).share x.slot))
  match (s1.slice n).share x.slot with
  | none => s1.pushDone n x bs false
  | some g =>
    let i := if presentOnly x g then (match bs.getLast? with | some b => b.index.toNat | none => 0) else nextInput x g
    let s2 := (s1.takeTile n x g i bs).passAbsent n x.slot (shareLength x (some g))
    ((s2.pushDone n x bs (s2.inputTaken n x)).settlePass x.slot).settleShares x.slot

/-! ### Scatter input (R212, R213) -/

/-- One valid record slot of a beat: key word, values and whether the record is poisoned. -/
def beatRecords (b : ABeat) : List (Nat × List Nat × Bool) :=
  (List.range 16).filterMap (fun k =>
    let key := leAt (fitTo 128 b.pos) (8 * k) 8
    if bitAt key 63 then some (key, bfValues (cut (fitTo 1024 b.data) (64 * k) 64), bitAt key 62 || b.poison) else none)

/-- The table tile, by chain index, and the chunk's place in it, of a key (R210). -/
def chunkPlace (rowChunks row chunk : Nat) : Nat × Nat :=
  let v := 32 * rowChunks * row + 32 * chunk
  (v / 2048, v % 2048 / 32)

/-- Rows and chunks a SCATTER or MERGE_OUT declares. -/
def Step.tableShape (x : Step) : Nat × Nat := (wordField x.words 9 0 32 + 1, wordField x.words 8 2 12 + 1)

/-- What becomes of a record: outside the table, discarded under the table mask, behind an uncorrectable map or a faulty
extent descriptor (R181, R228), a map granule still to be read, or held. -/
inductive RecordFate where
  | outside | discard | badMask | ask (addr : Nat) | hold
deriving DecidableEq, Repr

/-- The fate of a key under a step's table (Table 06-7, R213 item 1). -/
def Step.recordFate (x : Step) (key : Nat) : RecordFate :=
  let row := field key 0 32
  let chunk := field key 32 12
  let k := (chunkPlace x.tableShape.2 row chunk).1
  if x.tableShape.1 ≤ row || x.tableShape.2 ≤ chunk then .outside
  else match (x.chain .table).bind (fun c => c.tileAt k) with
    | none => if (x.chain .table).any (·.failed) then .badMask else .outside
    | some t => match x.maskBit .table t with
      | .ask a => .ask a
      | .bad => .badMask
      | .bit false _ => .discard
      | _ => .hold

/-- The first map granule still to be read before the fate of these keys is known. -/
def Step.keysAsk (x : Step) (keys : List Nat) : Option Nat :=
  keys.findSome? (fun k => match x.recordFate k with | .ask a => some a | _ => none)

/-- Takes one record of a scatter beat; the step's records beyond those it declares are left alone, and after a failure
records are accepted and discarded. -/
def State.takeRecord (s : State) (n : Fin 132) (slot : Nat) (r : Nat × List Nat × Bool) : State :=
  match s.step? slot, (s.slice n).share slot with
  | some x, some h =>
    if s.recordsIn slot ≥ recordsOf x.words then s
    else
      let s1 := s.modShare n slot (fun g => { g with inPos := g.inPos + 1 })
      let counted := fun (t : State) (discarded : Nat) =>
        (t.progress n slot (fun rep => { rep with countA := 1, countB := discarded, flags := { discarded := discarded != 0 } })).tallyAdd (.slice n) x.ctx 1 64
      if h.stop.isSome then s1
      else match x.recordFate r.1 with
        | .outside => s1.stopHere n slot 0x30 0x08 h.inPos
        | .badMask => s1.stopHere n slot 0x30 0x01 h.inPos
        | .discard => counted s1 1
        | _ => counted (s1.modSlice n (fun y => { y with records := y.records ++ [(slot, r)] })) 0
  | _, _ => s

/-! ### A_BEAT -/

/-- The map granule a beat of a share waits for: that of the tile it names, or of the tile the share comes to next, or of a
record's table tile (R182). -/
def Step.beatAsks (x : Step) (h : Share) (b : ABeat) : Option Nat :=
  if h.kind == .scatter then x.keysAsk ((beatRecords b).map (·.1))
  else (x.maskAt (nextInput x h)).asks.or (if presentOnly x h then (x.maskAt b.index.toNat).asks else none)

/-- Records in a slice's spill buffer, of whichever scatter step (R218). -/
def Slice.spillsHeld (y : Slice) : Nat := sumNat ((y.shares.filter (fun h => h.kind == .scatter)).map (·.spillHeld.length))

/-- The slice can take a beat of a share now: in a scatter step the 64 places for records, not yet hashed or spilled, hold
what the beat may bring, whichever step's records fill them (R218, R244, R316). -/
def State.aReady (s : State) (n : Fin 132) (x : Step) (h : Share) (b : ABeat) : Bool :=
  let y := s.slice n
  let room := !b.last || y.aDone.length < holderDepth
  let i := if presentOnly x h then b.index.toNat else nextInput x h
  let held : Bool := match x.miss with | some m => decide (m.tile ≤ i) | none => false
  if h.kind == .scatter then room && x.miss.isNone && y.records.length + y.spillsHeld + 16 ≤ 64
  else room && (!b.last || ((takesTile x h || h.stoppedAt i) && !held && ((x.chain .dst).any (fun c => c.known || i < c.tiles))))

/-- A_BEAT: a beat of the announced step transfers. The last beat of a tile completes it: its handle enters A-done and the
tile goes to its compressor, is discarded, or is refused; a scatter beat's records are taken one by one (R203, R206,
R208, R212, R403, R404). -/
def execABeat (sl : Fin 132) (b : ABeat) (s : State) : Host.Outcome State Fault Refusal :=
  match s.inputShare sl with
  | none => .next s
  | some (x, h0) =>
    let s := s.passAbsent sl x.slot (shareLength x (some h0))
    let h := ((s.slice sl).share x.slot).getD h0
    match x.beatAsks h b with
    | some a => .next (s.ask x.slot a)
    | none =>
    if !s.aReady sl x h b then .next s
    else
      let s0 := (s.modSlice sl Slice.touch).spend 1 1
      if h.kind == .scatter then
        let s1 := s0.each (beatRecords b) (fun t r => t.takeRecord sl x.slot r)
        let mark := { b with data := [], pos := [] }
        let bs := (s.slice sl).aIn ++ [mark]
        if b.last then .next (s1.pushDone sl x bs (decide (s1.recordsIn x.slot ≥ recordsOf x.words))) else .next (s1.modSlice sl (fun y => { y with aIn := bs }))
      else
        let bs := (s.slice sl).aIn ++ [b]
        if b.last then .next (s0.takeInput sl x bs) else .next (s0.modSlice sl (fun y => { y with aIn := bs }))

/-- A_DONE_POP: the consumer pops the oldest result handle; an empty queue returns nothing (R255, R404). -/
def execADonePop (sl : Fin 132) (s : State) : Host.Outcome State Fault Refusal :=
  if s.live && (s.slice sl).awake then .next (s.modSlice sl (fun y => { y with aDone := y.aDone.drop 1 })) else .next s

/-! ### The gauge compressor (R86 to R95, R121 to R126) -/

/-- Codes an input tile for a stream; none when R86 refuses it. -/
def codeInput (form threshold : Nat) (f : StreamFmt) (t : InTile) : Option Coded :=
  if f.base.ternary then
    if form == 1 then some (codeTernarise f.base (bfValues t.data))
    else if t.scaleValid then codeT2 f.base t.data t.scale else none
  else if f.bytesStream then
    some { fmt := .pass, stitch := t.data, expanded := t.data, clipped := false, occupancy := (t.data.filter (· != 0#8)).length }
  else some (codeTile threshold (bfValues t.data) ((escPath f.base f.ceiling).getD [.pass]))

/-- A fresh legend of a context (Table 02-6). -/
def State.legendFor (s : State) (c : Fin 64) (slotFmt : Nat) (f : Fmt) : Legend :=
  let x := s.ctx c
  freshLegend x.tag.toNat (b2n x.keyed) (if x.keyed then x.cur.gen.toNat else 0) slotFmt f.code

/-- The legend of a coded tile (R58, R88, R124). -/
def State.codedLegend (s : State) (x : Step) (f : StreamFmt) (c : Coded) (poison : Bool) (summary : Option Nat) : Legend :=
  { s.legendFor x.ctx (if f.layout == .variableL then 0 else f.ceiling.code) c.fmt with
    occupancy := c.occupancy, transposable := c.fmt.ternary, poisoned := poison, clipped := c.clipped
    escalated := c.fmt != f.base, crc := crc32c c.expanded
    summaryPtr := if c.fmt.mx then summary.getD 0xFFFFFFFF else 0xFFFFFFFF }

/-- A tile of a step with page summaries whose entry lies outside the context's gazetteer (R135, R323). -/
def State.entryOutside (s : State) (x : Step) (tileNo : Nat) : Bool :=
  match x.op.bind (fun op => summaryFields op x.words) with
  | none => false
  | some f => f.firstEntry + tileNo / 16 < f.firstPage || (s.ctx x.ctx).atlas.gazEntries.toNat + f.firstPage ≤ f.firstEntry + tileNo / 16

/-- The summary a compress step's tile contributes (R135, R136). Of a ternary destination's tile, for which R136 gives no
values, the T2 bytes are read as BF16 values (DESIGN CHOICE, assumption 118). -/
def summaryOf (x : Step) (tileNo : Nat) (poison : Bool) (c : Coded) : Option SummaryRec :=
  (x.op.bind (fun op => summaryFields op x.words)).map (fun f =>
    let n := 128 * 2 ^ f.span
    { entry := f.firstEntry + tileNo / 16 - f.firstPage, page := tileNo / 16, tile := tileNo % 16, y := f.y, n := n
      bounds := tileBounds n f.y poison (bfValues c.expanded) })

/-- A coded tile placed for a role: in a variable page as a one-tile block at its place. -/
def placeCoded (x : Step) (r : Role) (f : StreamFmt) (c : Option Chain) (i tileNo : Nat) (l : Legend) (k : Coded) (countA countB : Nat) : Moved :=
  if f.layout == .variableL then oneTileBlock x r c i tileNo l (k.fmt, k.stitch) countA countB 0
  else .out (outTile r c i tileNo l k.stitch countA countB) none none 0

/-- The gauge compressor finishes the oldest tile of a share, when its output round has a slot and the tile its place. -/
def State.codeNext (s : State) (n : Fin 132) (x : Step) (h : Share) : Option State :=
  match h.queue, s.use x .dst, x.chain .dst with
  | t :: rest, some u, some c =>
    let s0 := s.modShare n x.slot (fun g => { g with queue := rest })
    let done := fun (w : State) => (w.settlePass x.slot).settleShare n x.slot
    if h.stoppedAt t.chainIdx then some (done s0)
    else if h.stalled then none
    else match c.tileAt t.chainIdx with
      | none => some (done s0)
      | some d =>
        if t.absent then match (s.moveAbsent x (some u) (some c) t.chainIdx d 0).pass with
          | .out o p b f => some (done (s0.putMoved n x.slot t.chainIdx { o with legend := { o.legend with poisoned := t.poison } } p b f))
          | .wait => none
          | _ => some (done s0)
        else if s.entryOutside x d then some ((s0.refuseInput n x.slot t.chainIdx t.chainIdx 0x01).settleShares x.slot)
        else match codeInput x.inputForm s.hub.dict.escThreshold.toNat u.fmt t with
          | none => some ((s0.refuseInput n x.slot t.chainIdx t.chainIdx 0x06).settleShares x.slot)
          | some k =>
            let q := (summaryOf x d t.poison k).filter (fun q => (s.gazOwner q.entry).isSome)
            let l0 := s.codedLegend x u.fmt k t.poison (q.map (·.entry))
            let l := if x.op == some .cDecompress && u.fmt.base == .pass then { l0 with scaleValid := t.scaleValid, tileScale := t.scale } else l0
            match placeCoded x .dst u.fmt (some c) t.chainIdx d l k 1 (b2n (l.escalated && x.op == some .compress)) with
            | .out o p b f =>
              some (done ((s0.putMoved n x.slot t.chainIdx
                { o with load := t.load, tally := 4096, summary := q, wantAcks := 1 + b2n q.isSome } p b f).spendCodec true l.fmt 1))
            | _ => none
  | _, _, _ => none

/-- The next tile any share's gauge compressor can finish, with the absent tiles passed first. -/
def State.codeShare (s : State) (n : Fin 132) (slot : Nat) : Option State :=
  match s.liveShare n slot with
  | none => none
  | some (x, h) =>
    if h.kind == .compress then
      let s1 := s.passAbsent n slot (shareLength x (some h))
      match (s1.slice n).share slot with
      | none => none
      | some g => match s1.codeNext n x g with
        | some t => some t
        | none => if g.inPos == h.inPos then none else some (s1.settleShare n slot)
    else if h.kind == .decompress then s.codeNext n x h
    else none

/-- TILE_COMPRESSED: the gauge compressor completes a tile's stitch and legend, chooses its format by escalation and
clipping, and queues its write; a T2 tile that R86 refuses stops the step (R86, R88, R121 to R125). -/
def execTileCompressed (sl : Fin 132) (s : State) : Host.Outcome State Fault Refusal :=
  match (s.slice sl).shares.findSome? (fun h => s.codeShare sl h.slot) with
  | some t => .next t
  | none => .next s

/-! ### The contour compressor (R138 to R143, R155 to R160, R172) -/

/-- Legend of a tile of a contour block, or of one stored as PASS (R172). -/
def State.contourLegend (s : State) (x : Step) (f : StreamFmt) (k : Fmt) (t : InTile) : Legend :=
  { s.legendFor x.ctx 0 k with
    occupancy := if f.bytesStream then (t.data.filter (· != 0#8)).length else bfOccupancy (bfValues t.data)
    crc := crc32c t.data, poisoned := t.poison, scaleValid := t.scaleValid, tileScale := if t.scaleValid then t.scale else 0 }

/-- Places of a block's tiles: the first carries the block (R55). -/
def blockPlaces (off len first count : Nat) : List (Nat × Nat × Nat) :=
  (List.range count).map (fun k => (first + k, off, off + roundUp len 64))

/-- Places of one-tile PASS blocks one after another. -/
def passPlaces (off first count : Nat) : List (Nat × Nat × Nat) :=
  (List.range count).map (fun k => (first + k, off + 4096 * k, off + 4096 * (k + 1)))

/-- ABSENT legends for the tiles of the step's last page beyond its end (R141). -/
def State.padTiles (s : State) (x : Step) (u : Use) (c : Chain) (lastIdx d : Nat) : List OutTile :=
  if !(c.known && lastIdx + 1 == c.tiles) then []
  else (List.range (15 - d % 16)).map (fun k =>
    { outTile .dst none (c.tiles + k) (d + 1 + k) (s.absentFor x (some u)) [] 0 0 with pageLast := k + 1 == 15 - d % 16 })

/-- The coded tiles of a finished block, and the place each takes. -/
def State.blockTiles (s : State) (x : Step) (u : Use) (c : Chain) (ts : List InTile) (first off : Nat) (b : ContourBlock) (store : Bool) :
    List OutTile × List (Nat × Nat × Nat) :=
  let places := if store then passPlaces off first ts.length else blockPlaces off b.storedLen first ts.length
  let tiles := ((List.range ts.length).zip ts).filterMap (fun p =>
    let i := first + p.1
    match c.tileAt i, places[p.1]? with
    | some d, some (_, o, _) =>
      let l0 := s.contourLegend x u.fmt (if store then .pass else .contour) p.2
      let l := { l0 with blockTile := if store then 0 else p.1, blockOffset := o / 64, storedLen := if store then 4096 else b.storedLen }
      let ends := c.known && i + 1 == c.tiles && d % 16 != 15
      some { outTile .dst (some c) i d l (if store then p.2.data else if p.1 == 0 then b.stored else []) (b2n (store || p.1 == 0)) (b2n store) with
             tally := 4096, pageLast := c.pageLast i && !ends }
    | _, _ => none)
  (tiles, places)

/-- The contour compressor finishes a share's block: written, stored as PASS, or without gain and the step refused
(R157 to R160); a block that a stop has cut off is dropped. bound_off is 1 when the last tile has a bind-off or is the
step's last, even where the block is full or its page ends there too (DESIGN CHOICE, assumption 99). -/
def State.codeBlock (s : State) (n : Fin 132) (x : Step) (h : Share) : Option State :=
  match h.block, s.use x .dst, x.chain .dst with
  | some b, some u, some c =>
    let s0 := s.modShare n x.slot (fun g => { g with block := none })
    let lastIdx := b.firstIdx + (b.tiles.length - 1)
    let done := fun (w : State) => (w.settlePass x.slot).settleShare n x.slot
    if h.stoppedAt lastIdx || (h.stop.isSome && !blockOver x h b) then some (done s0)
    else if !blockOver x h b || h.stalled || !s.refReady n x h lastIdx then none
    else match x.placeAt .dst c b.firstIdx with
      | none => none
      | some off =>
        let p : ContourParams := { elemType := wordField x.words 6 0 3, distance := wordField x.words 6 8 4 + 1
                                   effort := effortOf x.words s.hub.dict.effortDefault.toNat }
        let ends := (b.tiles.getLast?.map (·.bindOff)).getD false || (c.known && lastIdx + 1 == c.tiles)
        let k := encodeContour p (s.ctx x.ctx).keyed ends ((s.slice n).windowRows x.slot) (16 * b.firstIdx) (b.tiles.flatMap (·.data))
        let store := wordBit x.words 6 12
        if k.noGain && !store then
          some (done (s0.progress n x.slot (fun r =>
            { r with conds := [{ status := 0x10, cause := 0, tile := none }], result := k.storedLen })))
        else
          let w := s.blockTiles x u c b.tiles b.firstIdx off k k.noGain
          let pad := match c.tileAt lastIdx with | some d => s.padTiles x u c lastIdx d | none => []
          let s1 := s0.each w.2 (fun t q => t.place x.slot .dst q.1 q.2.1 q.2.2)
          let s2 := if k.noGain then s1.progress n x.slot (fun r => { r with flags := { storePass := true } }) else s1
          some (done ((s2.emit n x.slot (w.1 ++ pad)).spendCodec true Fmt.contour.code b.tiles.length))
  | _, _, _ => none

/-- CONTOUR_BLOCK_CODED: the contour compressor finishes coding a block, chooses its class or outcome, and writes the
block and its legends (R157 to R160). -/
def execContourBlockCoded (sl : Fin 132) (s : State) : Host.Outcome State Fault Refusal :=
  match (s.slice sl).shares.findSome? (fun h => if h.kind == .contour then (s.liveShare sl h.slot).bind (fun p =>
      s.codeBlock sl p.1 p.2) else none) with
  | some t => .next t
  | none => .next s

end Sys2Proof.Machine
end

