-- ==== Sys2Proof/Machine/Accum.lean ====
section
/-! DEFINITION. The merge accumulator: FP32 sums, hashing and spills of scatter records, and the rounds of merge-out
(R209 to R222). -/
namespace Sys2Proof.Machine

/-! ### FP32 (R214, R220) -/

/-- An FP32 NaN. -/
def f32Nan (x : Nat) : Bool := field x 23 8 == 255 && field x 0 23 != 0

/-- An FP32 infinity. -/
def f32Inf (x : Nat) : Bool := field x 23 8 == 255 && field x 0 23 == 0

/-- Magnitude of a finite FP32 value in units of 2^-149. -/
def f32Mag (x : Nat) : Nat := if field x 23 8 == 0 then field x 0 23 else (2 ^ 23 + field x 0 23) <<< (field x 23 8 - 1)

/-- A finite FP32 value in units of 2^-149. -/
def f32Int (x : Nat) : Int := if bitAt x 31 then -(Int.ofNat (f32Mag x)) else Int.ofNat (f32Mag x)

/-- The FP32 result of an exact sum in units of 2^-149: round to nearest, ties to even; below 2^-126 it is +0. -/
def f32Round (v : Int) : Nat :=
  let m := v.natAbs
  let sign := if v < 0 then 2 ^ 31 else 0
  if m < 2 ^ 23 then 0
  else
    let sh := Nat.log2 m - 23
    let q := m >>> sh
    let rest := m - (q <<< sh)
    let half := 2 ^ sh
    let up := 2 * rest > half || (2 * rest == half && q % 2 == 1)
    let r := if up then q + 1 else q
    let e := if r == 2 ^ 24 then sh + 2 else sh + 1
    let frac := if r == 2 ^ 24 then 0 else r - 2 ^ 23
    if e ≥ 255 then sign + 0x7F800000 else sign + (e <<< 23) + frac

/-- One FP32 addition (R214). -/
def f32Add (a b : Nat) : Nat :=
  if f32Nan a || f32Nan b then 0x7FC00000
  else if f32Inf a then (if f32Inf b && bitAt a 31 != bitAt b 31 then 0x7FC00000 else a)
  else if f32Inf b then b
  else f32Round (f32Int a + f32Int b)

/-- FP32 of a BF16 value, exactly. -/
def f32OfBf (v : Nat) : Nat := v <<< 16

/-- BF16 of an FP32 value: to nearest, ties to even (R220). -/
def bfOfF32 (x : Nat) : Nat :=
  if f32Nan x then (if x % 65536 == 0 then x >>> 16 else 0x7FC0)
  else (x + 0x7FFF + (x >>> 16) % 2) >>> 16

/-- Sums of two rows of values. -/
def addValues (a b : List Nat) : List Nat := (a.zip b).map (fun p => f32Add p.1 p.2)

/-! ### Sets and ways (R213) -/

/-- The set of a key. -/
def setOf (row chunk : Nat) : Nat :=
  (Nat.xor (Nat.xor row (row >>> 11)) (Nat.xor (row >>> 22) (33 * chunk))) % 2048

/-- The ways of a set, least recently used first. -/
def Bank.ways (b : Bank) (k : Nat) : List AccEntry := (assoc k b.sets).getD []

/-- Replaces the ways of a set. -/
def Bank.setWays (b : Bank) (k : Nat) (ws : List AccEntry) : Bank :=
  { b with sets := (k, ws) :: b.sets.filter (fun e => e.1 != k) }

/-- The entry of a key among ways. -/
def findWay (row chunk : Nat) (ws : List AccEntry) : Option AccEntry := ws.find? (fun e => e.row == row && e.chunk == chunk)

/-- The other ways. -/
def otherWays (row chunk : Nat) (ws : List AccEntry) : List AccEntry := ws.filter (fun e => !(e.row == row && e.chunk == chunk))

/-- A scatter record enters a bank: added on a hit, filled on a miss, with the least recently used way spilled when the
set is full; the way touched becomes the most recently used. -/
def Bank.put (b : Bank) (e : AccEntry) : Bank × Option AccEntry :=
  let k := setOf e.row e.chunk
  let ws := b.ways k
  match findWay e.row e.chunk ws with
  | some w => (b.setWays k (otherWays e.row e.chunk ws ++ [{ w with values := addValues w.values e.values, poison := w.poison || e.poison }]), none)
  | none =>
    if ws.length < 4 then (b.setWays k (ws ++ [e]), none)
    else (b.setWays k (ws.drop 1 ++ [e]), ws.head?)

/-- A spill record enters a bank in merge-out: a full set refuses it (R219 item 1). -/
def Bank.mergeIn (b : Bank) (e : AccEntry) : Bank × Option AccEntry :=
  let k := setOf e.row e.chunk
  let ws := b.ways k
  if (findWay e.row e.chunk ws).isSome || ws.length < 4 then b.put e else (b, some e)

/-- Every entry of a bank. -/
def Bank.entries (b : Bank) : List AccEntry := b.sets.flatMap (·.2)

/-! ### Spill tiles (Table 06-10) -/

/-- The key word of a record (Table 06-9). -/
def keyWord (e : AccEntry) : Nat := 2 ^ 63 + place (b2n e.poison) 62 1 + place e.chunk 32 12 + place e.row 0 32

/-- A spill tile of at most 30 records. -/
def spillTile (es : List AccEntry) : Bytes :=
  fitTo 256 ([byteOf es.length] ++ zeros 15 ++ es.flatMap (fun e => leBytes 8 (keyWord e)))
    ++ fitTo 3840 (es.flatMap (fun e => e.values.flatMap (leBytes 4)))

/-- The records of a spill tile. -/
def spillRecords (bs : Bytes) (poison : Bool) : List AccEntry :=
  (List.range (Nat.min (byteAt bs 0) 30)).map (fun k =>
    let key := leAt bs (16 + 8 * k) 8
    { row := field key 0 32, chunk := field key 32 12, values := (pieces 4 (cut bs (256 + 128 * k) 128)).map leNat
      poison := bitAt key 62 || poison })

/-- A held spill record as an entry. -/
def heldEntry (h : Nat × List Nat × Bool) : AccEntry :=
  { row := field h.1 0 32, chunk := field h.1 32 12, values := h.2.1, poison := h.2.2 }

/-! ### The accumulation set (R211, R216) -/

/-- Changes the banks of a set, one on each of its slices. -/
def State.modSet (s : State) (o : AccSet) (f : Bank → Bank) : State :=
  s.each (s.phys o.slices) (fun t n => t.modSlice n (fun y => { y with banks := vmod y.banks o.bank (fun b => match b.owner with
    | some p => if p.same o then f b else b
    | none => b) }))

/-- The open set of a step on a slice. -/
def State.ownerOf (s : State) (n : Fin 132) (x : Step) : Option AccSet := (s.bank n x).owner

/-- Changes what a set records of its spill streams. -/
def State.modFills (s : State) (o : AccSet) (f : AccSet → AccSet) : State :=
  s.modSet o (fun k => { k with owner := k.owner.map f })

/-- Offset of a spill tile in a variable page: the chain's tiles before it on the page are spill tiles of 4,096 B (R55, R216). -/
def spillPlace (c : Chain) (i : Nat) : Nat :=
  4096 * ((List.range i).filter (fun k => (c.tileAt k).map (· / 16) == (c.tileAt i).map (· / 16))).length

/-- Writes one spill tile of a share's held records at its stream's fill count (R215, R216). A stream without a free tile
ends the step OUTPUT_LIMIT, one whose next tile lies behind a faulty extent descriptor stops there (R228). -/
def State.spillOut (s : State) (n : Fin 132) (x : Step) (second : Bool) : State :=
  match (s.slice n).share x.slot, s.ownerOf n x with
  | some h, some o =>
    let r := o.spillRole second
    let fill := if second then o.fillB else o.fillA
    let s1 := s.modShare n x.slot (fun g => { g with spillHeld := g.spillHeld.drop 30 })
    match s.use x r, x.chain r with
    | some u, some c => match c.tileAt fill with
      | none =>
        if c.failed then (s1.stopHere n x.slot 0x30 0x01 fill).settleShares x.slot
        else s1.progress n x.slot (fun rep => { rep with conds := [{ status := 0x11, cause := 0, tile := none }] })
      | some d =>
        let data := spillTile ((h.spillHeld.take 30).map heldEntry)
        let l := { s.legendFor x.ctx (if u.fmt.layout == .variableL then 0 else Fmt.pass.code) .pass with
                   occupancy := (data.filter (· != 0#8)).length, crc := crc32c data }
        let l2 := if u.fmt.layout == .variableL then l.placedAt .pass (spillPlace c fill) 4096 else l
        (s1.modFills o (fun p => if second then { p with fillB := fill + 1 } else { p with fillA := fill + 1 })).emit n x.slot
          [outTile r (some c) fill d l2 data 0 0]
    | _, _ => s1
  | _, _ => s

/-- Writes a spill tile when 30 records are held, or any at the end of the step or round, and the output round has a slot
(R215, R244). -/
def State.spillNext (s : State) (n : Fin 132) (slot : Nat) (second final : Bool) : State :=
  match s.step? slot, (s.slice n).share slot with
  | some x, some h =>
    if !h.stalled && (h.spillHeld.length ≥ 30 || (final && !h.spillHeld.isEmpty)) then s.spillOut n x second else s
  | _, _ => s

/-- A spilled entry waits for its tile. -/
def State.holdSpill (s : State) (n : Fin 132) (slot : Nat) (e : AccEntry) : State :=
  s.modShare n slot (fun g => { g with spillHeld := g.spillHeld ++ [(keyWord e, e.values, e.poison)] })

/-! ### SCATTER_RECORD (R213 to R215, R218) -/

/-- A slice's share of a scatter step has its last record hashed: the rest of its spills is written, and then its input is
over. -/
def State.finishScatter (s : State) (n : Fin 132) (slot : Nat) : State :=
  match s.step? slot, (s.slice n).share slot with
  | some x, some h =>
    if h.kind == .scatter && !h.inDone && s.recordsIn slot ≥ recordsOf x.words && !(s.slice n).records.any (fun r => r.1 == slot) then
      if h.spillHeld.isEmpty then (s.modShare n slot (fun g => { g with inDone := true })).settleShare n slot
      else s.spillNext n slot false true
    else s
  | _, _ => s

/-- Every slice of a scatter step whose records are all hashed goes on to its end. -/
def State.finishScatters (s : State) (slot : Nat) : State :=
  match s.step? slot with
  | none => s
  | some x => s.each (s.phys x.slices) (fun t n => t.finishScatter n slot)

/-- The oldest record of a slice is hashed into the bank of its step (R213). -/
def State.hashRecord (s : State) (n : Fin 132) (x : Step) (r : Nat × List Nat × Bool) : State :=
  let e : AccEntry := { row := field r.1 0 32, chunk := field r.1 32 12, values := r.2.1.map f32OfBf, poison := r.2.2 }
  let p := (s.bank n x).put e
  let s1 := s.modSlice n (fun y => { y with banks := vmod y.banks (bankOf x.words) (fun _ => p.1) })
  match p.2 with
  | none => s1
  | some w => s1.holdSpill n x.slot w

/-- The scatter share that spills next: the first, in dispatch order, that is not over. -/
def Slice.spiller (y : Slice) : Option Nat :=
  (y.shares.find? (fun h => h.kind == .scatter && !h.reported && !h.inDone)).map (·.slot)

/-- A scatter step's spills go on, and every slice whose records are all hashed goes on to its end. -/
def State.goSpilling (s : State) (n : Fin 132) : State :=
  match (s.slice n).spiller with
  | none => s
  | some slot => match s.liveShare n slot with
    | none => s
    | some _ => (s.spillNext n slot false false).finishScatters slot

/-- SCATTER_RECORD: the next record is hashed to its set in its own step's bank and added, fills a way, or makes the least
recently used way spill into the buffer of 64 records; a spill tile is written when one is due (R213 to R215, R218, R222). A
record whose step is gone is dropped. -/
def execScatterRecord (sl : Fin 132) (s : State) : Host.Outcome State Fault Refusal :=
  match (s.slice sl).records with
  | [] => .next (s.goSpilling sl)
  | (slot, r) :: rest =>
    let taken := s.modSlice sl (fun y => { y with records := rest })
    if ((s.slice sl).share slot).isNone then .next (taken.goSpilling sl)
    else match s.liveShare sl slot with
      | none => .next s
      | some (x, _) => .next ((if (s.slice sl).spillsHeld ≥ 64 then s else taken.hashRecord sl x r).goSpilling sl)

/-! ### Reading the tiles of a merge-out round (R219, R220, R223, R283) -/

/-- What a merge-out finds wrong with the page of a table or spill tile, as far as its legends have been read: check 7 goes over
every legend of a dense or variable page, and over the recorded word of a packed one (R183). -/
def State.mergeCause (s : State) (x : Step) (r : Role) (i d : Nat) (word : Option Nat) : Option Nat :=
  match (s.use x r).map (fun u => s.peek x false u.fmt word i d) with
  | some (.bad cause) => some cause
  | _ => none

/-- A slice asks for the tile of chain index `i` of a role: the hub reads its map granule first (R182), and the fetch goes to
the page's home station like that of any source tile, after check 7 over the page's legends (R183). -/
def State.mergeFetch (s : State) (n : Fin 132) (x : Step) (r : Role) (i : Nat) : State :=
  match x.chain r with
  | none => s
  | some c => match c.tileAt i with
    | none => if c.known then (s.stopHere n x.slot 0x30 0x01 i).settleShares x.slot else s
    | some d => match x.maskBit r d with
      | .ask a => s.ask x.slot a
      | .bad => (s.stopHere n x.slot 0x30 0x01 i).settleShares x.slot
      | b =>
        if !s.stationUp (homeOf x.ctx (d / 16)) then s.failTile x.slot 0x23 0x02 i
        else match s.need (.step x.slot) x.ctx (s.viewLooks x r d) with
        | some t => t
        | none => match s.mergeCause x r i d b.word? with
        | some cause => (s.stopHere n x.slot 0x30 cause i).settleShares x.slot
        | none => match ((s.slice n).share x.slot).bind (fun h => h.round r) with
          | none => s
          | some q => (s.giveSlot n x.slot r i .waiting).fetchTile n x r i d q.granted b.word?

/-- Goes on with the tile of chain index `i` of a role once it has come and is expanded: `go` gets the state as it was, the
one in which the tile has left its slot, the expanded tile and the tile. -/
def State.withTile (s : State) (n : Fin 132) (x : Step) (h : Share) (r : Role) (i : Nat)
    (go : State → State → Expanded → SlotTile → State) : State :=
  match h.round r, s.use x r with
  | some q, some u => match q.at? q.h with
    | none => s.mergeFetch n x r i
    | some e => match e.content with
      | .tile t =>
        let used := s.useHead n x.slot r
        let s1 := if t.frog.isSome then used.progress n x.slot (fun rep =>
          { rep with flags := { frogged := true }, conds := [{ status := 0x04, cause := 0, tile := some i }] }) else used
        if t.waitVerdict.isSome then s
        else match s.expand n x h r u.fmt false i t with
          | .fail a b => (s1.stopHere n x.slot a b i).settleShares x.slot
          | .tile k => go s ((s1.countIntegrity k.found).spendCodec false k.legend.fmt 1) k t
      | _ => s
  | _, _ => s

/-! ### MERGE_OUT_ROUND (R219, R220) -/

/-- One record of spill_a enters the bank, is refused, discarded, or lies outside the table: then the cause of the failure. -/
def MergeWork.take (w : MergeWork) (x : Step) (e : AccEntry) : MergeWork × Option Nat :=
  match x.recordFate (keyWord e) with
  | .outside => (w, some 0x08)
  | .badMask => (w, some 0x01)
  | .discard => ({ w with discarded := w.discarded + 1 }, none)
  | _ =>
    let p := w.bank.mergeIn e
    match p.2 with
    | some q => ({ w with bank := p.1, refused := w.refused ++ [q] }, none)
    | none => ({ w with bank := p.1 }, none)

/-- All records of one tile, in order, up to the first that fails. -/
def MergeWork.takeAll (x : Step) : List AccEntry → MergeWork → MergeWork × Option Nat
  | [], w => (w, none)
  | e :: es, w => match w.take x e with
    | (v, none) => MergeWork.takeAll x es v
    | (v, some c) => (v, some c)

/-- Chunk `k` of a tile's values. -/
def chunkOf (vs : List Nat) (k : Nat) : List Nat := (vs.drop (32 * k)).take 32

/-- A table tile's new values: each written chunk set to its sum, or to old value plus sum (R220). -/
def mergedValues (add : Bool) (rowChunks : Nat) (old : List Nat) (es : List AccEntry) : List Nat :=
  (List.range 64).flatMap (fun k => match es.find? (fun e => (chunkPlace rowChunks e.row e.chunk).2 == k) with
    | none => fitList 32 (chunkOf old k)
    | some e => if add then ((fitList 32 (chunkOf old k)).zip e.values).map (fun p => bfOfF32 (f32Add (f32OfBf p.1) p.2))
                else e.values.map bfOfF32)
where
  /-- A list cut or filled with zeros to a length. -/
  fitList (n : Nat) (xs : List Nat) : List Nat := xs.take n ++ List.replicate (n - xs.length) 0

/-- Offset of a table tile's block in a variable page: where the tile already lies, else immediately after the block of the
page's tile before it, 0 without one; `before` are the page's legends below it (R55). -/
def tablePlace (old : Legend) (before : List Legend) : Nat :=
  if old.fmt != Fmt.absent.code then 64 * old.blockOffset
  else before.foldl (fun a l => if l.fmt == Fmt.absent.code then a
    else 64 * l.blockOffset + roundUp (if l.fmt == Fmt.pass.code then 4096 else l.storedLen) 64) 0

/-- The table tiles of a bank's entries, ascending (R219 item 2). -/
def tableTiles (rowChunks : Nat) (es : List AccEntry) : List Nat :=
  ((es.map (fun e => (chunkPlace rowChunks e.row e.chunk).1)).mergeSort (· ≤ ·)).eraseDups

/-- The entries of a bank that table tile `k` takes, and the bank without them. -/
def Bank.splitTile (b : Bank) (rowChunks k : Nat) : List AccEntry × Bank :=
  let mine := fun (e : AccEntry) => (chunkPlace rowChunks e.row e.chunk).1 == k
  (b.entries.filter mine, { b with sets := b.sets.map (fun p => (p.1, p.2.filter (fun e => !mine e))) })

/-- Changes the work of a round. -/
def State.modMerge (s : State) (n : Fin 132) (slot : Nat) (f : MergeWork → MergeWork) : State :=
  s.modShare n slot (fun g => { g with merge := g.merge.map f })

/-- A merge-out step that has stopped ends on this slice. -/
def State.endMerge (s : State) (n : Fin 132) (slot : Nat) : State :=
  (s.modShare n slot (fun g => { g with inDone := true, merge := none, spillHeld := [] })).settleShare n slot

/-- The last slice of a round: the spill streams exchange when spill_b holds records, else the set closes on the step's slices,
which are its slices no longer, and the step's shares end (R211, R216, R219 item 3). -/
def State.endRound (s : State) (n : Fin 132) (x : Step) (o : AccSet) : State :=
  let s1 := s.progress n x.slot (fun r => { r with countA := 1 })
  let fillB := match s.ownerOf n x with | some p => p.fillB | none => 0
  if fillB != 0 then s1.modFills o (fun p => { p with fillA := fillB, fillB := 0, swapped := !p.swapped })
  else
    let closed := s1.each (s1.phys x.slices) (fun t m => t.modSlice m (fun y => { y with banks := vmod y.banks o.bank (fun _ => Bank.empty) }))
    ((closed.modFills o (fun p => { p with fillA := 0, slices := p.slices.filter (fun l => !x.slices.contains l) })).modShares x.slot (fun g => { g with inDone := true })).settleShares x.slot

/-- Records that a round discards are reported as they are (R287, R290). -/
def State.reportDiscards (s : State) (n : Fin 132) (slot k : Nat) : State :=
  if k == 0 then s else s.progress n slot (fun r => { r with result := k, flags := { discarded := true } })

/-- The reading half of a round (R219 item 1): the next spill tile of this slice's share of spill_a, or, when none is left,
the bank takes what the round has summed and its table tiles are due. -/
def State.mergeRead (s : State) (n : Fin 132) (x : Step) (h : Share) (o : AccSet) (w : MergeWork) : State :=
  let i := shareIndex x.head.interleave x.slices.length h.j w.pos
  if i ≥ o.fillA then
    (s.modSlice n (fun y => { y with banks := vmod y.banks (bankOf x.words) (fun b => { b with sets := w.bank.sets }) })).modShare n x.slot (fun g =>
      { g with merge := some { w with refused := [], tiles := some (tableTiles x.tableShape.2 w.bank.entries) }
               spillHeld := w.refused.map (fun e => (keyWord e, e.values, e.poison)) })
  else s.withTile n x h (o.spillRole false) i (fun t used e _ =>
    let es := spillRecords e.data e.poison
    match x.keysAsk (es.map keyWord) with
    | some a => t.ask x.slot a
    | none =>
      let v := MergeWork.takeAll x es { w with pos := w.pos + 1 }
      let told := used.reportDiscards n x.slot (v.1.discarded - w.discarded)
      match v.2 with
      | some cause => (told.stopHere n x.slot 0x30 cause i).settleShares x.slot
      | none => told.modMerge n x.slot (fun _ => v.1))

/-- A table tile with its entries merged in goes to the output round, and the entries leave the bank (R219 item 2, R220). -/
def State.mergeStore (s : State) (n : Fin 132) (x : Step) (u : Use) (k d : Nat) (es : List AccEntry) (vs : List Nat) (hurt : Bool)
    (place : Nat) : State :=
  let poison := hurt || es.any (·.poison)
  let t : InTile := { chainIdx := k, load := false, data := bfTile (mergedValues (wordBit x.words 8 1) x.tableShape.2 vs es), pos := [], beats := 4
                      scale := 0, scaleValid := false, absent := false, poison := poison, bindOff := false }
  match codeInput 0 s.hub.dict.escThreshold.toNat u.fmt t with
  | none => s
  | some c =>
    let l := s.codedLegend x u.fmt c poison none
    let l2 := if u.fmt.layout == .variableL then l.placedAt c.fmt place c.stitch.length else l
    ((s.modSlice n (fun y => { y with banks := vmod y.banks (bankOf x.words) (fun b => (b.splitTile x.tableShape.2 k).2) })).modMerge n x.slot
      (fun w => { w with tiles := w.tiles.map (·.drop 1) })).emit n x.slot
      [{ outTile .table (x.chain .table) k d l2 c.stitch 0 1 with tally := 4096 }] |>.spendCodec true l2.fmt 1

/-- Where a table tile that is overwritten whole goes in a variable page, by the legends of the page as its home station has read
them (R55, R183). -/
def State.wholePlace (s : State) (x : Step) (i d : Nat) : Nat :=
  let ls := match s.walk x.ctx (d / 16) with
    | .leaf l _ _ => match Layout.ofCode l.layout with
      | some lay => s.clearLegends x false i d l lay
      | none => []
    | _ => []
  let old := ((ls.find? (fun p => p.1 == d % 16)).map (·.2)).getD (absentLegend 0 0 0 0)
  tablePlace old ((ls.filter (fun p => p.1 < d % 16)).map (·.2))

/-- The writing half of a round: table tile `k`. It is read unless every chunk is overwritten: then, in a variable page, only
the page's legends are read, which give its place; there the tiles before it must be visible (R55, R220). Entries of a tile
that the table mask marks absent are discarded. -/
def State.mergeWrite (s : State) (n : Fin 132) (x : Step) (h : Share) (k : Nat) : State :=
  let es := ((s.bank n x).splitTile x.tableShape.2 k).1
  match s.use x .table, (x.chain .table).bind (fun c => c.tileAt k) with
  | some u, some d => match x.maskBit .table d with
    | .ask a => s.ask x.slot a
    | .bad => (s.stopHere n x.slot 0x30 0x01 k).settleShares x.slot
    | .bit false _ =>
      (s.modSlice n (fun y => { y with banks := vmod y.banks (bankOf x.words) (fun b => (b.splitTile x.tableShape.2 k).2) })).modMerge n x.slot
        (fun w => { w with tiles := w.tiles.map (·.drop 1), discarded := w.discarded + es.length }) |>.reportDiscards n x.slot es.length
    | _ =>
      let variablePage := u.fmt.layout == .variableL
      let whole := !wordBit x.words 8 1 && es.length == 64
      if h.stalled || (variablePage && !h.out.isEmpty) then s
      else if whole then
        if !variablePage then s.mergeStore n x u k d es (List.replicate 2048 0) false 0
        else match s.need (.step x.slot) x.ctx (s.viewLooks x .table d) with
          | some t => t
          | none => s.mergeStore n x u k d es (List.replicate 2048 0) false (s.wholePlace x k d)
      else s.withTile n x h .table k (fun _ used e q =>
        let at_ := tablePlace (Legend.ofBytes q.legend).asVersion4 ((q.pageLegends.take (d % 16)).map (fun b => (Legend.ofBytes b).asVersion4))
        used.mergeStore n x u k d es (bfValues e.data) e.poison at_)
  | _, _ => (s.stopHere n x.slot 0x30 0x01 k).settleShares x.slot

/-- A slice has written its round back: the last slice of the step ends the round.
When the set has lost a slice there is no further round: the spill streams keep what they hold (Table 14-5; assumption 104). -/
def State.mergeEnd (s : State) (n : Fin 132) (x : Step) (h : Share) (o : AccSet) : State :=
  let s2 := s.modShare n x.slot (fun g => { g with inPos := g.inPos + 1, merge := none })
  if x.setLost then s2.endMerge n x.slot
  else if (s2.sharesOf x.slot).all (fun g => g.inPos == h.inPos + 1) then s2.endRound n x o
  else s2

/-- A slice may begin its round: every slice of the step has ended the round before, the slices before it in order j have
ended this one, and all they wrote is visible (R219, R222). -/
def State.mergeMayBegin (s : State) (x : Step) (h : Share) : Bool :=
  let hs := s.sharesOf x.slot
  hs.length + (x.doneShares.filter (fun j => !hs.any (fun g => g.j == j))).length == x.slices.length
    && hs.all (fun g => (if g.j < h.j then h.inPos + 1 else h.inPos) ≤ g.inPos && g.out.isEmpty && g.spillHeld.isEmpty)

/-- MERGE_OUT_ROUND: a merge-out step takes its round on a slice one tile further: it reads spill_a, then writes the refused
records to spill_b and the entries back into the table, and at the round's end exchanges the spill streams when records
remain (R216, R219 to R223). -/
def execMergeOutRound (sl : Fin 132) (s : State) : Host.Outcome State Fault Refusal :=
  match (s.slice sl).shares.find? (fun h => h.kind == .mergeOut && !h.reported && !h.inDone) with
  | none => .next s
  | some h0 => match s.liveShare sl h0.slot with
    | none => .next s
    | some (x, h) =>
      if h.stop.isSome && x.miss.isNone then .next (s.endMerge sl x.slot)
      else if x.miss.isSome then .next (s.settleShares x.slot)
      else match s.ownerOf sl x, h.merge with
        | none, _ => .next (s.endMerge sl x.slot)
        | some _, none =>
          if x.setLost && h.inPos != 0 then .next (s.endMerge sl x.slot)
          else if s.mergeMayBegin x h then
            .next (s.modShare sl x.slot (fun g =>
              { g with merge := some { bank := s.bank sl x, pos := 0, refused := [], discarded := 0, tiles := none } }))
          else .next s
        | some o, some w => match w.tiles with
          | none => .next (s.mergeRead sl x h o w)
          | some ks =>
            if !h.spillHeld.isEmpty then .next (s.spillNext sl x.slot true true)
            else match ks with
              | k :: _ => .next (s.mergeWrite sl x h k)
              | [] => .next (s.mergeEnd sl x h o)

end Sys2Proof.Machine
end

