-- ==== Sys2Proof/Machine/DictRows.lean ====
section
/-! DEFINITION. The commands that come as H-port frames, each one use of the one frame path, and the hub's timed
dictionary events: counter ticks, lifetime checkpoints and swatch ends (R433 to R451, R494 to R498). -/
namespace Sys2Proof.Machine

/-- DICTIONARY_WRITE: any H-port frame of an object without a row of its own, reads included (R433 to R437). -/
def execDictionaryWrite (frame : BitVec 128) (rot : Bool) (s : State) : Host.Outcome State Fault Refusal :=
  .next (s.hFrame (HReq.ofBits frame.toNat) rot)

/-- RING_ENABLE: a write of sq_log2 (R509, Table 08-1). -/
def execRingEnable (c : Fin 64) (ring : Fin 4) (log2 seq : BitVec 8) (rot : Bool) (s : State) : Host.Outcome State Fault Refusal :=
  .next (s.hFrame (writeFrame seq (0x3100 + c.1) (5 + ring.1) 1 log2.toNat) rot)

/-- RING_DISABLE: a write of 0 to sq_log2 (R509). -/
def execRingDisable (c : Fin 64) (ring : Fin 4) (seq : BitVec 8) (rot : Bool) (s : State) : Host.Outcome State Fault Refusal :=
  .next (s.hFrame (writeFrame seq (0x3100 + c.1) (5 + ring.1) 1 0) rot)

/-- OPEN_UNKEYED: ctx_command 1 (R335, Table 10-2). -/
def execOpenUnkeyed (c : Fin 64) (seq : BitVec 8) (rot : Bool) (s : State) : Host.Outcome State Fault Refusal :=
  .next (s.hFrame (writeFrame seq (0x3300 + c.1) 2 1 1) rot)

/-- OPEN_KEYED: ctx_command 2 (R335, Table 10-1). -/
def execOpenKeyed (c : Fin 64) (seq : BitVec 8) (rot : Bool) (s : State) : Host.Outcome State Fault Refusal :=
  .next (s.hFrame (writeFrame seq (0x3300 + c.1) 2 1 2) rot)

/-- CLOSE: ctx_command 3 (R336). -/
def execClose (c : Fin 64) (seq : BitVec 8) (rot : Bool) (s : State) : Host.Outcome State Fault Refusal :=
  .next (s.hFrame (writeFrame seq (0x3300 + c.1) 2 1 3) rot)

/-- ABORT: ctx_command 4 (R335, R491). -/
def execAbort (c : Fin 64) (seq : BitVec 8) (rot : Bool) (s : State) : Host.Outcome State Fault Refusal :=
  .next (s.hFrame (writeFrame seq (0x3300 + c.1) 2 1 4) rot)

/-- The value of a key command (Table 10-4). -/
def keyCommandValue (op c w : Nat) : Nat := place op 24 8 + place c 16 6 + place w 8 4

/-- LOAD_CONTEXT (Table 10-5, R353, R354). -/
def execLoadContext (c : Fin 64) (seq : BitVec 8) (rot : Bool) (s : State) : Host.Outcome State Fault Refusal :=
  .next (s.hFrame (writeFrame seq 0x6000 0x0B 4 (keyCommandValue 1 c.1 0)) rot)

/-- ROTATE (Table 10-5, R359, R361). -/
def execRotate (c : Fin 64) (seq : BitVec 8) (rot : Bool) (s : State) : Host.Outcome State Fault Refusal :=
  .next (s.hFrame (writeFrame seq 0x6000 0x0B 4 (keyCommandValue 2 c.1 0)) rot)

/-- LOAD_WEIGHT (Table 10-5, R362). -/
def execLoadWeight (w : Fin 16) (seq : BitVec 8) (rot : Bool) (s : State) : Host.Outcome State Fault Refusal :=
  .next (s.hFrame (writeFrame seq 0x6000 0x0B 4 (keyCommandValue 3 0 w.1)) rot)

/-- SEAL_WEIGHT (Table 10-5). -/
def execSealWeight (w : Fin 16) (seq : BitVec 8) (rot : Bool) (s : State) : Host.Outcome State Fault Refusal :=
  .next (s.hFrame (writeFrame seq 0x6000 0x0B 4 (keyCommandValue 4 0 w.1)) rot)

/-- ZEROISE_CONTEXT (Table 10-5, R347). -/
def execZeroiseContext (c : Fin 64) (seq : BitVec 8) (rot : Bool) (s : State) : Host.Outcome State Fault Refusal :=
  .next (s.hFrame (writeFrame seq 0x6000 0x0B 4 (keyCommandValue 5 c.1 0)) rot)

/-- ZEROISE_WEIGHT (Table 10-5). -/
def execZeroiseWeight (w : Fin 16) (seq : BitVec 8) (rot : Bool) (s : State) : Host.Outcome State Fault Refusal :=
  .next (s.hFrame (writeFrame seq 0x6000 0x0B 4 (keyCommandValue 6 0 w.1)) rot)

/-- MEASURE (Table 10-5, R376). -/
def execMeasure (seq : BitVec 8) (rot : Bool) (s : State) : Host.Outcome State Fault Refusal :=
  .next (s.hFrame (writeFrame seq 0x6000 0x0B 4 (keyCommandValue 7 0 0)) rot)

/-- BIND_MASK_WRITE (Table 10-6, R362). -/
def execBindMaskWrite (w : Fin 16) (mask : BitVec 64) (seq : BitVec 8) (rot : Bool) (s : State) :
    Host.Outcome State Fault Refusal :=
  .next (s.hFrame (writeFrame seq (0x6200 + w.1) 2 8 mask.toNat) rot)

/-- DRAIN: quiesce_command 1 (Table 12-9). -/
def execDrain (seq : BitVec 8) (rot : Bool) (s : State) : Host.Outcome State Fault Refusal :=
  .next (s.hFrame (writeFrame seq 0x2000 1 1 1) rot)

/-- QUIESCE_RESUME: quiesce_command 2 (Table 12-9). -/
def execQuiesceResume (seq : BitVec 8) (rot : Bool) (s : State) : Host.Outcome State Fault Refusal :=
  .next (s.hFrame (writeFrame seq 0x2000 1 1 2) rot)

/-- HALT: quiesce_command 3 (R491, R492). -/
def execHalt (seq : BitVec 8) (rot : Bool) (s : State) : Host.Outcome State Fault Refusal :=
  .next (s.hFrame (writeFrame seq 0x2000 1 1 3) rot)

/-- STATION_ENABLE_WRITE (R443). -/
def execStationEnableWrite (v : BitVec 16) (seq : BitVec 8) (rot : Bool) (s : State) : Host.Outcome State Fault Refusal :=
  .next (s.hFrame (writeFrame seq 0x2000 0x10 2 v.toNat) rot)

/-- LINK_ENABLE_WRITE (R443). -/
def execLinkEnableWrite (v : BitVec 16) (seq : BitVec 8) (rot : Bool) (s : State) : Host.Outcome State Fault Refusal :=
  .next (s.hFrame (writeFrame seq 0x2000 0x11 2 v.toNat) rot)

/-- ACTIVATE: patch_command 1 (R508). -/
def execActivate (seq : BitVec 8) (rot : Bool) (s : State) : Host.Outcome State Fault Refusal :=
  .next (s.hFrame (writeFrame seq 0x2000 0x22 1 1) rot)

/-- CLEAR: patch_command 2 (R508). -/
def execClear (seq : BitVec 8) (rot : Bool) (s : State) : Host.Outcome State Fault Refusal :=
  .next (s.hFrame (writeFrame seq 0x2000 0x22 1 2) rot)

/-- CHECKPOINT_NOW (R495). -/
def execCheckpointNow (v seq : BitVec 8) (rot : Bool) (s : State) : Host.Outcome State Fault Refusal :=
  .next (s.hFrame (writeFrame seq 0x7000 7 1 v.toNat) rot)

/-- LIFETIME_RESTORE: the write of segment 8,191 of lifetime_restore (R497). -/
def execLifetimeRestore (v : BitVec 64) (len seq : BitVec 8) (rot : Bool) (s : State) : Host.Outcome State Fault Refusal :=
  .next (s.hFrame { op := 4, seq := seq.toNat, idx := 0x7000, sub := 8, seg := 8191, len := len.toNat, value := v.toNat } rot)

/-- SWATCH_CONTROL: a segment write of swatch_control (R176). -/
def execSwatchControl (seg : BitVec 16) (v : BitVec 64) (len seq : BitVec 8) (rot : Bool) (s : State) :
    Host.Outcome State Fault Refusal :=
  .next (s.hFrame { op := 4, seq := seq.toNat, idx := 0x7000, sub := 0x20, seg := seg.toNat, len := len.toNat, value := v.toNat } rot)

/-- EVENT_NEXT: READ_SEG of segment 1 of event_next (R449). -/
def execEventNext (seq : BitVec 8) (rot : Bool) (s : State) : Host.Outcome State Fault Refusal :=
  .next (s.hFrame { op := 3, seq := seq.toNat, idx := 0x9000, sub := 2, seg := 1, len := 0, value := 0 } rot)

/-- FENCE_SLICE (R450, R483). -/
def execFenceSlice (n seq : BitVec 8) (rot : Bool) (s : State) : Host.Outcome State Fault Refusal :=
  .next (s.hFrame (writeFrame seq 0xA000 0x10 1 n.toNat) rot)

/-- ZEROISE_ALL (R491). -/
def execZeroiseAll (v seq : BitVec 8) (rot : Bool) (s : State) : Host.Outcome State Fault Refusal :=
  .next (s.hFrame (writeFrame seq 0x6000 5 1 v.toNat) rot)

/-- Frames of the last-word path, which never wait for the sequencer or the scheduler (Table 12-5). -/
def lastWordAny (f : HReq) : Bool :=
  lastWordFrame f || (f.op == 2 &&
    (((within 0x3300 64 f.idx).isSome && f.sub == 2 && f.value % 2 ^ (8 * f.len) == 4)
      || (f.idx == 0xA000 && f.sub == 0x10) || (f.idx == 0x2000 && f.sub == 1 && f.value % 2 ^ (8 * f.len) == 3)))

/-- FRAME_SERVICE_TIMEOUT: a frame outside Table 12-5 that was not served within 500 µs is answered BUSY and has no effect
(R439); after a hub failure the wait does not apply. -/
def execFrameServiceTimeout (frame : BitVec 128) (_rot : Bool) (s : State) : Host.Outcome State Fault Refusal :=
  let f := HReq.ofBits frame.toNat
  if !s.live || lastWordAny f then .next s
  else .next ((s.modHub (fun h =>
    { h with response := some (f.response 0x49 0), logPeeked := if f.idx == 0x9000 then false else h.logPeeked })).spend 8 2)

/-- LIFETIME_CHECKPOINT: the record of every 10 min; one that falls due while a record is in production follows it (R495). -/
def execLifetimeCheckpoint (s : State) : Host.Outcome State Fault Refusal :=
  .next (if !s.live then s
    else if s.hub.building then s.modHub (fun h => { h with checkpointDue := true })
    else s.checkpoint)

/-- The record in production is whole; a checkpoint that fell due meanwhile follows at once (R495; assumption 29). -/
def State.endBuilding (s : State) : State :=
  if s.hub.checkpointDue then s.checkpoint else s.modHub (fun h => { h with building := false })

/-- COUNTER_TICK: 1 ms has passed; powered seconds and ACTIVE time advance, a lifetime record in production is whole, and
every counter's reading is latched (R368, R494, R495). -/
def execCounterTick (s : State) : Host.Outcome State Fault Refusal :=
  if !s.live then .next s
  else
    let s1 : State := { s with slices := s.slices.map (fun x => { x with activeMs := x.activeMs + b2n (x.power == .active) }) }
    let s2 := s1.modHub (fun h =>
      { h with ticks := h.ticks + 1
               counters := { h.counters with powerOnS := h.counters.powerOnS + b2n ((h.ticks + 1) % 1000 == 0) } })
    .next s2.endBuilding.latch

/-- The CRC-32C that the ROM holds for an effort: that of the block which an encoder computes from R150 to R155 (R176). -/
def swatchRom (effort : Nat) : Nat := crc32c (swatchBlock effort)

/-- Pass bit of one effort of the swatch test: the stored block's CRC-32C is the ROM's, and the block decodes against the
same reference to the swatch (R176). -/
def swatchPass (effort : Nat) : Bool :=
  let stored := swatchBlock effort
  let env : BlockEnv := { version := 4, keyed := false, storedLen := stored.length, legendTiles := 16, hasRef := true, hasWindow := true }
  match decodeContour env swatchReference 0 15 stored with
  | .ok tiles bad => crc32c stored == swatchRom effort && bad.all (!·) && crc32c tiles.flatten == crc32c swatchSample
  | _ => false

/-- Pass bits of the eight efforts. -/
def swatchBits : Nat := sumNat ((List.range 8).map (fun e => place (b2n (swatchPass e)) e 1))

/-- SWATCH_DONE: a running test ends; pass bits are reported and a failing effort raises 0x9016 (R176, R177). -/
def execSwatchDone (l : Fin 128) (s : State) : Host.Outcome State Fault Refusal :=
  match s.physOf l.1 with
  | none => .next s
  | some n =>
    let w := s.hub.swatch[l.1]
    if !s.live || !w.running || !(s.slice n).awake then .next s
    else
      let bits := if w.skipped then 0 else swatchBits
      let s1 := s.modHub (fun h => { h with swatch := vmod h.swatch l (fun k =>
        { k with pass := BitVec.ofNat 8 bits, done := true, running := false }) })
      .next (if w.skipped || bits == 255 then s1 else s1.raise 0x9016 none n.1 l.1 bits)

end Sys2Proof.Machine
end

