-- ==== Sys2Proof/Machine/Links.lean ====
section
/-! DEFINITION. Link stations: the ingress FIFO, frames received and sent, credits, remote reads, multicast and its
catch-ups (R256 to R261, R329, R330, R385, R410 to R423). -/
namespace Sys2Proof.Machine

/-! ### The ingress FIFO (R256 to R259) -/

/-- The frame being received. -/
def Link.openFrame (x : Link) : Option RxFrame := x.rx.find? (fun f => !f.whole)

/-- A bank that the read side has released (R256). -/
def Link.bankFree (x : Link) (b : Fin 2) : Bool := x.rx.all (fun f => f.bank != b || f.released)

/-- The bank of the next frame: they alternate (R256). -/
def Link.nextBank (x : Link) : Fin 2 := ⟨x.nextFrame % 2, Nat.mod_lt _ (by decide)⟩

/-- Valid bytes of a beat: 128, and on the last beat its byte count. A count that Table 11-12 does not allow (0, or more
than 128) leaves the beat at its 128 bytes (DESIGN CHOICE: assumption 12). -/
def beatValid (b : LBeat) : Nat := if b.last && 1 ≤ b.bytes && b.bytes ≤ 128 then b.bytes else 128

/-- Beat `j` of a frame written into its words: four to a word, the lanes that no valid byte fills zero (R257). -/
def packBeat (words : List IngressWord) (j : Nat) (b : LBeat) (last : Bool) : List IngressWord :=
  let lane := fitTo 128 (b.data.take (beatValid b))
  let at_ := 128 * (j % 4)
  let w := if j % 4 == 0 then { data := zeros 512, valid := 0, last := false } else words.getD (j / 4) { data := zeros 512, valid := 0, last := false }
  words.take (j / 4) ++ [{ data := overwrite w.data at_ lane, valid := BitVec.ofNat 10 (at_ + beatValid b), last := last }]

/-- A beat taken into a frame; a frame of 65,536 B that goes on is cut there (R257, R258). -/
def RxFrame.take (f : RxFrame) (b : LBeat) : RxFrame :=
  let cutHere : Bool := !b.last && decide (128 * (f.beats + 1) ≥ frameLimit)
  { f with
    words := packBeat f.words f.beats b (b.last || cutHere), beats := f.beats + 1
    whole := b.last || cutHere, cutShort := f.cutShort || cutHere }

/-- A frame of which nothing has come yet. -/
def Link.newFrame (x : Link) (src : BitVec 18) : RxFrame :=
  { number := x.nextFrame, bank := x.nextBank, src := src, words := [], beats := 0, whole := false, cutShort := false, struck := false, wordsRead := 0
    released := false, verdict := none, holders := [], matched := false, forwarded := 0, handled := false, announced := false
    parseBad := none }

/-- L_RX_BEAT: a received beat is packed into the frame's bank. While the bank the next frame takes is not free no first
beat is accepted; beats behind a cut are discarded until the next frame begins (R256 to R258, R410). The first mark of a
beat inside a frame says nothing, and a beat outside a frame without it is discarded as behind a cut (DESIGN CHOICE:
assumption 12). -/
def execLRxBeat (ls : Fin 16) (b : LBeat) (s : State) : Host.Outcome State Fault Refusal :=
  let x := s.link ls
  let count := fun (t : State) => t.spend 5 1
  if !s.live || !s.linkUp ls || !x.lVer.isOpen then .next s
  else match x.openFrame with
    | some f =>
      let g := f.take b
      .next (count (s.modLink ls (fun y =>
        { y with rx := y.rx.map (fun k => if k.number == f.number then g else k), dropping := g.whole && !b.last })))
    | none =>
      if !b.first then .next (s.modLink ls (fun y => { y with dropping := y.dropping && !b.last }))
      else if !x.bankFree x.nextBank then .next s
      else .next (count (s.modLink ls (fun y =>
        { y with nextFrame := y.nextFrame + 1, dropping := false, rx := y.rx ++ [(y.newFrame b.src).take b] })))

/-- Words of a frame that the write side has completed (R257, R259). -/
def RxFrame.wordsDone (f : RxFrame) : Nat := if f.whole then f.words.length else f.beats / 4

/-- The read side may read the frame's next word: it has begun it, or enough has been written (R259). -/
def RxFrame.readable (f : RxFrame) (threshold : Nat) : Bool :=
  f.wordsRead < f.wordsDone && (f.wordsRead != 0 || f.whole || threshold ≤ 128 * f.beats)

/-! ### Parsing (R412 to R414) -/

/-- The header parses (R411, R414); at version 2 only DATA frames exist (R385). -/
def RxFrame.headOk (f : RxFrame) (version : Nat) : Bool :=
  let h := f.header
  f.bytes.length ≥ 64 && h.ident == 0x5C && h.version == version && 1 ≤ h.kind && h.kind ≤ (if version == 2 then 1 else 5)
    && FrameHeader.reservedZero f.bytes && h.srcEngine == f.src.toNat

/-- A frame's records as far as they parse, and the number of the first that does not (R261, R414). -/
def RxFrame.parse (f : RxFrame) (version : Nat) : List Record × Option Nat :=
  let h := f.header
  let body := f.bytes.drop 64
  if !f.headOk version then ([], some 0)
  else if h.kind == 1 || h.kind == 3 then
    let p := parseRecords h.wholeSlot (h.kind == 3) h.records body []
    (p.1, if p.2 then none else some p.1.length)
  else ([], if h.records == 0 && body.isEmpty then none else some 0)

/-- The oldest frame that has not yet been dealt with, once some of it has been read. -/
def Link.parsed (x : Link) : Option RxFrame := (x.rx.find? (fun f => !f.handled)).filter (fun f => f.wordsRead != 0)

/-- The frame the link station is at, as far as it has been read, when it is of a kind that a predicate names (R260). -/
def State.frameNow (s : State) (l : Fin 16) (kind : Nat → Bool) : Option RxFrame :=
  if !s.live || !s.linkUp l then none else (s.link l).parsed.filter (fun f => kind f.header.kind)

/-- The frame the link station is at, once it has been read to its end. -/
def State.frameAt (s : State) (l : Fin 16) (kind : Nat → Bool) : Option RxFrame := (s.frameNow l kind).filter (·.released)

/-- Changes a received frame. -/
def State.modFrame (s : State) (l : Fin 16) (number : Nat) (f : RxFrame → RxFrame) : State :=
  s.modLink l (fun x => { x with rx := x.rx.map (fun k => if k.number == number then f k else k) })

/-- Forgets frames that nothing is left to do for. -/
def State.dropFrames (s : State) (l : Fin 16) : State :=
  s.modLink l (fun x => { x with rx := x.rx.filter (fun k => !(k.released && k.handled && k.announced && k.verdict.isSome)) })

/-- INGRESS_WORD_READ: the read side reads one completed word of the oldest frame not read to its end; the last word
releases the bank (R257, R259). -/
def execIngressWordRead (ls : Fin 16) (s : State) : Host.Outcome State Fault Refusal :=
  match (s.link ls).rx.find? (fun f => !f.released) with
  | none => .next s
  | some f =>
    if !s.live || !s.linkUp ls || !f.readable s.hub.dict.cutThrough.toNat then .next s
    else .next ((s.modFrame ls f.number (fun k =>
      { k with wordsRead := k.wordsRead + 1, released := (k.words.getD k.wordsRead { data := [], valid := 0, last := false }).last })).dropFrames ls)

/-- A frame is done with: it is discarded, or has had its effect. -/
def State.frameDone (s : State) (l : Fin 16) (number : Nat) : State :=
  (s.modFrame l number (fun k => { k with handled := true, announced := true })).dropFrames l

/-- Leading tile of the contour block a record belongs to, with its stitch: its own, or that of the last record before it
that begins a block (R413). -/
def blockOf (recs : List Record) (k : Nat) : Bytes :=
  ((recs.take (k + 1)).filter (fun r => !r.stitch.isEmpty)).getLast?.map (·.stitch) |>.getD []

/-- A tile as a record carries it, held until the frame's verdict (R260). The F-port carries the form that came, slot or stitch,
also into a context whose keyedness differs from the sender's (DESIGN CHOICE, assumption 119). -/
def linkTile (l : Fin 16) (number : Nat) (recs : List Record) (k : Nat) (r : Record) (mapBit : Option Bool) (tileNo : Nat) : SlotTile :=
  let g := Legend.ofBytes r.legend
  let body := if g.fmt == Fmt.contour.code then (if g.blockTile == 0 then r.stitch else blockOf recs k) else r.stitch
  { plainTile r.legend mapBit tileNo with stitch := body, block := body, remote := true, waitVerdict := some (l, number) }

/-- A tile of a bad frame that could not be parsed: zeros, poisoned (R204, R260). -/
def lostTile (st : StreamFmt) (mapBit : Option Bool) (tileNo : Nat) : SlotTile :=
  { blankTile st (plainTile (zeros 32) mapBit tileNo) with remote := true }

/-- Bytes of l_bytes for records sent or received (Table 14-9). -/
def recordsTally (recs : List Record) : Nat :=
  sumNat (recs.map (fun r => let g := Legend.ofBytes r.legend; 48 + countedSize g.slotFmt g))

/-! ### DATA frames (R260, R261, R414 to R416) -/

/-- Tiles a frame stands for in its step's chain: chain indices of the records its length has room for. -/
def frameTiles (h : FrameHeader) (len : Nat) : List Nat := (List.range (Nat.min h.records ((len - 64) / 48))).map (h.firstIndex + ·)

/-- The uncredited bytes of a frame of `bytes`, whose tiles are all visible (R416). -/
def Link.uncredit (x : Link) (c : Crediting) : Link :=
  let same := fun (u : Uncredited) => u.engine == c.engine && u.context == c.context && u.own == c.own && u.tag == c.tag
  { x with uncredited := if x.uncredited.any same then x.uncredited.map (fun u => if same u then { u with bytes := u.bytes + c.bytes } else u)
                         else x.uncredited ++ [{ engine := c.engine, context := c.context, own := c.own, tag := c.tag, bytes := c.bytes }] }

/-- Sends the tiles of a DATA frame to the slices of its step, tile `n` to the slice that handles chain index `n` (R415). -/
def State.forwardTiles (s : State) (l : Fin 16) (f : RxFrame) (x : Step) (ts : List (Nat × SlotTile)) : State :=
  s.each ts (fun t p => match t.handlerOf x p.1 with
    | none => t
    | some n => (t.post (.ls l) (.slice n) (.recvTile x.slot p.1 p.2)).modFrame l f.number (fun k =>
        { k with holders := if k.holders.contains (.slice n) then k.holders else k.holders ++ [.slice n] }))

/-- The chain indices of a frame's tiles that its step's chain reaches. -/
def Step.reached (x : Step) (ns : List Nat) : List Nat :=
  ns.filter (fun n => match x.chain .dst with | some c => !c.known || n < c.tiles | none => false)

/-- A RECV step takes a DATA frame: it counts it (R415, Table 11-16). -/
def State.matchData (s : State) (l : Fin 16) (f : RxFrame) (x : Step) : State :=
  if f.matched then s
  else (s.modStep x.slot (fun y => { y with countB := y.countB + 1 })).modFrame l f.number (fun k => { k with matched := true })

/-- The tiles of a matched DATA frame that have been parsed since go to the slices, held until the verdict (R260, R415). -/
def State.forwardData (s : State) (l : Fin 16) (f : RxFrame) (x : Step) : State :=
  let recs := (f.parse (s.link l).version).1
  let ks := (List.range recs.length).drop f.forwarded
  let n := f.header.firstIndex
  let ts := (ks.zip (recs.drop f.forwarded)).map (fun q => (n + q.1, linkTile l f.number recs q.1 q.2 none 0))
  let s1 := (s.modFrame l f.number (fun k => { k with forwarded := recs.length })).modStep x.slot (fun y =>
    { y with recvFrom := (l.1, n + recs.length) :: y.recvFrom.filter (fun e => e.1 != l.1) })
  let s2 := s1.forwardTiles l f x (ts.filter (fun q => (x.reached [q.1]).contains q.1))
  s2.tallyAdd (.ls l) x.ctx 3 (recordsTally (recs.drop f.forwarded))

/-- A matched DATA frame has been read to its end: its bytes are credited once its verdict is known and its tiles are visible
(R416). -/
def State.endData (s : State) (l : Fin 16) (f : RxFrame) (x : Step) : State :=
  let h := f.header
  let due := x.reached (frameTiles h f.bytes.length)
  let c : Crediting := { slot := x.slot, engine := h.srcEngine, context := h.srcContext, own := x.ctx, tag := h.tag
                         bytes := f.bytes.length, left := due, frame := f.number, judged := false }
  let bad := (f.parse (s.link l).version).2
  (s.modFrame l f.number (fun k => { k with handled := true, parseBad := bad })).modLink l (fun y =>
    { y with crediting := y.crediting ++ [c] })

/-- A DATA frame as far as it has been read, for the RECV step it matches. -/
def State.takeData (s : State) (l : Fin 16) (f : RxFrame) (x : Step) : State :=
  let s1 := (s.matchData l f x).forwardData l f x
  if f.released then s1.endData l f x else s1

/-- A frame of a RECV step that feeds a step link has its verdict: the entries of its tiles, poisoned for a bad frame or where the
tile's legend says so (R250), are pushed once the tile is visible too (R253; DESIGN CHOICE, assumption 120). -/
def State.dueEntries (s : State) (l : Fin 16) (f : RxFrame) (bad : Bool) (x : Step) : State :=
  match linkOut .recv x.words with
  | none => s
  | some tag =>
    let h := f.header
    let all := x.reached (frameTiles h f.bytes.length)
    let recs := (f.parse (s.link l).version).1
    let ns := match f.parseBad with | some k => if bad then all else all.filter (· < h.firstIndex + k) | none => all
    s.modLink l (fun y => { y with linkOut := y.linkOut ++ ns.map (fun n =>
      { slot := x.slot, ctx := x.ctx, tag := tag, visible := false
        entry := { poisoned := bad || (recs[n - h.firstIndex]?).any (fun r => (Legend.ofBytes r.legend).poisoned), tag := x.head.tag, handle := n, last := false } }) })

/-! ### Verdicts -/

/-- A bad DATA frame: its step counts it, and its tiles that did not parse are written as poisoned zeros (R260, Table
11-16). -/
def State.dataBad (s : State) (l : Fin 16) (f : RxFrame) : State :=
  match s.recvFor f.header with
  | none => s
  | some x =>
    let s1 := s.modStep x.slot (fun y => { y with result := y.result + 1 })
    match f.parseBad, s1.use x .dst with
    | some k, some u =>
      let lost := (x.reached (frameTiles f.header f.bytes.length)).filter (fun n => n ≥ f.header.firstIndex + k)
      (s1.forwardTiles l f x (lost.map (fun n => (n, lostTile u.fmt none 0)))).countIntegrity lost.length
    | _, _ => s1

/-- The remote read that a frame answers (R420). -/
def State.requestOf (s : State) (l : Fin 16) (h : FrameHeader) : Option RemoteRead :=
  if h.dstEngine != s.ident.engineId.toNat then none
  else (s.link l).requests.find? (fun r => r.number == h.tag && r.fetch.ctx.1 == h.dstContext)

/-- A remote read is over. -/
def State.endRequest (s : State) (l : Fin 16) (r : RemoteRead) : State :=
  s.modLink l (fun x => { x with requests := x.requests.filter (fun q => q.number != r.number) })

/-- An answer whose tile did not parse: a metadata failure at the tile, or in a bad frame poisoned zeros (R260, R261). -/
def State.answerBad (s : State) (l : Fin 16) (f : RxFrame) (bad : Bool) : State :=
  match f.parseBad, s.requestOf l f.header with
  | some _, some r =>
    let s1 := s.endRequest l r
    let g := r.fetch
    if bad then match (s1.step? g.slot).bind (fun x => s1.use x g.role) with
      | none => s1
      | some u => (s1.post (.ls l) (.slice g.slice) (.stitch g.slot g.role g.pos (lostTile u.fmt g.mapBit g.tileNo))).countIntegrity 1
    else s1.failFetch (.ls l) g 0x30 0x07
  | _, _ => s

/-- Bytes of frames that are judged and have no tile left to wait for are uncredited (R416). -/
def Link.settleCredits (x : Link) : Link :=
  let settled := fun (c : Crediting) => c.judged && c.left.isEmpty
  (x.crediting.filter settled).foldl Link.uncredit { x with crediting := x.crediting.filter (fun c => !settled c) }

/-- Uncredited bytes at which a CREDIT frame is sent at once (R416). -/
def creditAt : Nat := 262144

/-- Sends a CREDIT frame for each sender that a predicate names; its tag, which the receiving side is never told, is a free
value (R412, R416, assumption 3). At version 2 there are none (R385). -/
def State.sendCredits (s : State) (l : Fin 16) (due : Uncredited → Bool) : State :=
  if (s.link l).version < 3 then s
  else
    let us := (s.link l).uncredited.filter due
    let s1 := s.modLink l (fun x => { x with uncredited := x.uncredited.filter (fun u => !due u) })
    s1.each us (fun t u =>
      let d := t.draw
      d.2.queueFrame l
        { ident := 0x5C, version := (s.link l).version, kind := 5, srcEngine := s.ident.engineId.toNat, dstEngine := u.engine
          srcContext := u.own.1, dstContext := u.context, tag := d.1 % 65536, records := 0, firstIndex := 0, seq := 0, catchup := false
          wholeSlot := false, lastFrame := false, tiles := 0, page := 0, credit := u.bytes } [])

/-- A frame's verdict is known: with no tile to wait for, its bytes are uncredited, and enough of them credited at once (R416). -/
def State.judgeCredits (s : State) (l : Fin 16) (number : Nat) : State :=
  (s.modLink l (fun x =>
    Link.settleCredits { x with crediting := x.crediting.map (fun c => if c.frame == number then { c with judged := true } else c) })).sendCredits l
      (fun u => u.bytes ≥ creditAt)

/-- A frame whose tiles are forwarded and whose verdict is known: the verdict follows its tiles to their holders; in a good
frame the first tile that did not parse is a metadata failure (R260, R261). -/
def State.settleFrame (s : State) (l : Fin 16) (number : Nat) : State :=
  match (s.link l).rx.find? (fun f => f.number == number) with
  | none => s
  | some f =>
    match f.outcome with
    | none => s
    | some bad =>
      if !f.handled || f.announced then s.dropFrames l
      else
        let h := f.header
        let s0 := match (if h.kind == 1 then s.recvFor h else none) with | some x => s.dueEntries l f bad x | none => s
        let s1 := s0.each f.holders (fun t u => t.post (.ls l) u (.verdict f.number bad))
        let s2 := if h.kind == 3 then s1.answerBad l f bad
          else if bad then s1.dataBad l f
          else match f.parseBad, s1.recvFor h with
            | some k, some x => s1.lose (.ls l) x.slot 0x30 0x07 (h.firstIndex + k)
            | _, _ => s1
        (s2.judgeCredits l number).frameDone l number

/-- FRAME_VERDICT: the link controller's verdict on the oldest frame still without one (R260, R411). -/
def execFrameVerdict (ls : Fin 16) (bad : Bool) (s : State) : Host.Outcome State Fault Refusal :=
  if !s.live || !s.linkUp ls || !(s.link ls).lVer.isOpen then .next s
  else match (s.link ls).rx.find? (fun f => f.verdict.isNone) with
    | none => .fault .strayVerdict
    | some f =>
      if !f.whole then .fault .strayVerdict
      else .next ((s.modFrame ls f.number (fun k => { k with verdict := some bad })).settleFrame ls f.number)

/-- A frame that no step or request takes: a bad one, and one that does not parse, is discarded; a good one for another
engine raises event 0x900B; a good DATA frame that no step matches raises 0x900C, but for a context that is being
scrubbed (R375, R414). -/
def State.discardFrame (s : State) (l : Fin 16) (f : RxFrame) (bad : Bool) : State :=
  let h := f.header
  let scrubbing : Bool := match finOf 64 h.dstContext with | some c => (s.ctx c).state == .scrubbing | none => false
  let s1 := if bad || (f.parse (s.link l).version).2.isSome then s
    else if h.dstEngine != s.ident.engineId.toNat then s.raise 0x900B none (0xA0 + l.1) h.dstEngine h.srcEngine
    else if h.kind == 1 && !scrubbing then s.raise 0x900C none (0xA0 + l.1) h.tag h.srcEngine
    else s
  s1.frameDone l f.number

/-- Kinds that DATA_FRAME deals with: DATA, and what no other row names. -/
def isDataKind (k : Nat) : Bool := k < 2 || k > 5

/-- DATA_FRAME: a DATA frame is matched to its RECV step, and the tiles that have been parsed of it go on to the slices
while the rest of it arrives; one that waits for a step not yet dispatched waits with it; one that matches none is
discarded once it has been read and its verdict is known (R260, R261, R414, R415). -/
def execDataFrame (ls : Fin 16) (s : State) : Host.Outcome State Fault Refusal :=
  match s.frameNow ls isDataKind with
  | none => .next s
  | some f => match s.recvFor f.header with
    | some x => if x.phase == .held then .next s else .next ((s.takeData ls f x).settleFrame ls f.number)
    | none => match f.outcome with
      | none => .next s
      | some bad => if f.released then .next (s.discardFrame ls f (bad || f.matched)) else .next s

/-! ### Remote reads (R329, R330, R420) -/

/-- The context serves reads of an engine's context: a remote_grant entry names both (Table 09-1), remote serving is on,
and the context is open (R330, R375, Table 12-9). -/
def State.grantsRemote (s : State) (c : Fin 64) (engine context : Nat) : Bool :=
  s.hub.dict.remoteServe && ((s.ctx c).state == .opened || (s.ctx c).state == .closing)
    && (s.ctx c).atlas.grants.toList.any (fun g => g.getLsbD 31 && field g.toNat 6 18 == engine && field g.toNat 0 6 == context)

/-- Passes a good request to the page's home station, one fetch for each tile it names, or answers PEER_ABSENT (R330). -/
def State.serveRequest (s : State) (l : Fin 16) (h : FrameHeader) : State :=
  match finOf 64 h.dstContext with
  | none => s
  | some c =>
    let m := homeOf c h.page
    let ts := (List.range 16).filter (bitAt h.tiles)
    if !s.grantsRemote c h.srcEngine h.srcContext || ts.isEmpty || !s.stationUp m then s.answerAbsent l h
    else s.each ts (fun t k => t.post (.ls l) (.ms m) (.fetch
      { slot := 0, ctx := c, chainIdx := 0, tileNo := 16 * h.page + k, slice := 0, role := .src, pos := 0, mapWord := none, leaf := none
        remoteFor := some (l, h, s.hub.readEpoch.toNat) }))

/-- RREAD: a peer's read request goes to the page's home station (R330, R420). -/
def execRread (ls : Fin 16) (s : State) : Host.Outcome State Fault Refusal :=
  match s.frameAt ls (· == 2) with
  | none => .next s
  | some f => match f.outcome with
    | none => .next s
    | some bad =>
      if bad || (f.parse (s.link ls).version).2.isSome || f.header.dstEngine != s.ident.engineId.toNat then .next (s.discardFrame ls f bad)
      else .next ((s.serveRequest ls f.header).frameDone ls f.number)

/-- The tile an answer brings for a request fills the request's round slot, held until the verdict (R260, R329). -/
def State.takeAnswer (s : State) (l : Fin 16) (f : RxFrame) (r : RemoteRead) : State :=
  let p := f.parse (s.link l).version
  let g := r.fetch
  match p.1.findIdx? (fun q => q.tile == g.tileNo % 16) with
  | some k =>
    let q := p.1.getD k { tile := 0, legend := [], stitch := [] }
    let s1 := (s.endRequest l r).modFrame l f.number (fun y => { y with handled := true, holders := [.slice g.slice] })
    (s1.post (.ls l) (.slice g.slice) (.stitch g.slot g.role g.pos (linkTile l f.number p.1 k q g.mapBit g.tileNo))).tallyAdd (.ls l) g.ctx 3
      (recordsTally p.1)
  | none =>
    if !f.released then s
    else s.modFrame l f.number (fun y =>
      { y with handled := true, parseBad := if p.2.isSome || f.header.lastFrame then some p.1.length else none })

/-- RDATA: an answer's tile goes to the requesting slice as soon as it has been parsed; an answer to no request is
discarded (R260, R329, R420). -/
def execRdata (ls : Fin 16) (s : State) : Host.Outcome State Fault Refusal :=
  match s.frameNow ls (· == 3) with
  | none => .next s
  | some f => match s.requestOf ls f.header with
    | some r => .next ((s.takeAnswer ls f r).settleFrame ls f.number)
    | none => match f.outcome with
      | none => .next s
      | some bad => if f.released then .next (s.discardFrame ls f bad) else .next s

/-- ABSENT_FRAME: the requesting step misses with kind PEER_ABSENT (R420, Table 09-9); an ABSENT frame that does not parse
is a metadata failure of the tile (R261). -/
def execAbsentFrame (ls : Fin 16) (s : State) : Host.Outcome State Fault Refusal :=
  match s.frameAt ls (· == 4) with
  | none => .next s
  | some f => match f.outcome with
    | none => .next s
    | some bad => match s.requestOf ls f.header with
      | none => .next (s.discardFrame ls f bad)
      | some r =>
        let g := r.fetch
        let s1 := (s.endRequest ls r).frameDone ls f.number
        if bad then .next (s.discardFrame ls f bad)
        else if (f.parse (s.link ls).version).2.isSome then .next (s1.failFetch (.ls ls) g 0x30 0x07)
        else .next (s1.missFetch (.ls ls) g { tile := g.chainIdx, kind := 4, station := (homeOf g.ctx (g.tileNo / 16)).1, level := 0, page := g.tileNo / 16 })

/-! ### Credits (R416, R417) -/

/-- CREDIT_TIMER: 2 µs after the last CREDIT frame, what is still uncredited is credited (R416). -/
def execCreditTimer (ls : Fin 16) (s : State) : Host.Outcome State Fault Refusal :=
  if s.live && s.linkUp ls then .next (s.sendCredits ls (fun u => u.bytes != 0)) else .next s

/-- A tile acknowledged to a link station: its frame has one tile fewer to wait for; with the last, its bytes are
uncredited, and enough of them are credited at once (R416). -/
def State.tileVisible (s : State) (l : Fin 16) (slot i : Nat) : State :=
  let s1 := s.modLink l (fun x =>
    Link.settleCredits { x with crediting := x.crediting.map (fun c =>
      if c.slot == slot && c.left.contains i then { c with left := c.left.erase i } else c) })
  let s2 := s1.modLink l (fun x =>
    { x with linkOut := x.linkOut.map (fun p => if p.slot == slot && p.entry.handle == i then { p with visible := true } else p) })
  (s2.pushStation l).sendCredits l (fun u => u.bytes ≥ creditAt)

/-- The step no longer waits for a receiver (R423). -/
def State.receiverDone (s : State) (l : Fin 16) (slot number : Nat) : State :=
  (s.modLink l (fun x => { x with receivers := x.receivers.map (fun r =>
    if r.slot == slot && r.number == number then { r with done := true } else r) })).report (.ls l) { Report.of slot 0 with receivers := 1 }

/-- Receivers of a link whose last frame is sent: a SEND waits for no more, an MCAST for their credits (R423). -/
def State.settleReceivers (s : State) (l : Fin 16) : State :=
  s.each ((s.link l).receivers.filter (fun r => r.lastSent && !r.done)) (fun t r => match t.step? r.slot with
    | none => t
    | some x => if x.op == some .send || r.outBytes == 0 then t.receiverDone l r.slot r.number else t)

/-- Takes `n` credited bytes off the receivers that a predicate names, in their order. -/
def creditReceivers (mine : Receiver → Bool) : Nat → List Receiver → List Receiver
  | _, [] => []
  | n, r :: rs =>
    if mine r then
      let k := Nat.min n r.outBytes
      { r with outBytes := r.outBytes - k } :: creditReceivers mine (n - k) rs
    else r :: creditReceivers mine n rs

/-- CREDIT_FRAME: a CREDIT frame reduces the outstanding bytes of the receiver it comes from (R417, R423). -/
def execCreditFrame (ls : Fin 16) (s : State) : Host.Outcome State Fault Refusal :=
  match s.frameAt ls (· == 5) with
  | none => .next s
  | some f => match f.outcome with
    | none => .next s
    | some bad =>
      let h := f.header
      if bad || (f.parse (s.link ls).version).2.isSome || h.dstEngine != s.ident.engineId.toNat then .next (s.discardFrame ls f bad)
      else
        let mine := fun (r : Receiver) => r.engine == h.srcEngine && r.context == h.srcContext && (match s.step? r.slot with
          | some x => x.ctx.1 == h.dstContext && x.head.tag == h.tag
          | none => false)
        let s1 := s.modLink ls (fun x => { x with receivers := creditReceivers mine h.credit x.receivers })
        .next ((s1.settleReceivers ls).frameDone ls f.number)

/-! ### Records on their way into frames (R413, R421) -/

/-- Enters a record in chain order; one already there or already sent is dropped. -/
def insertRecord (r : TxRecord) : List TxRecord → List TxRecord
  | [] => [r]
  | q :: qs => if r.chainIdx < q.chainIdx then r :: q :: qs else if r.chainIdx == q.chainIdx then q :: qs else q :: insertRecord r qs

/-- A receiver takes a record that it has not been sent. -/
def Receiver.accept (v : Receiver) (r : TxRecord) : Receiver :=
  if r.chainIdx < v.first + v.sentTiles then v else { v with pending := insertRecord r v.pending }

/-- LSEND: a link station takes a record for its receivers of the step; the lead passes it to the other stations the step
names and acknowledges it to its slice (R413, R421). -/
def execLsend (ls : Fin 16) (src : UnitId) (s : State) : Host.Outcome State Fault Refusal :=
  match s.recvTxn src (.ls ls) 0x04 with
  | some (.lsend slot hop r last, s1) =>
    let s2 := s1.modLink ls (fun x => { x with receivers := x.receivers.map (fun v => if v.slot == slot then v.accept r else v) })
    match src with
    | .slice _ =>
      let others := match s2.step? slot with
        | some x => ((s2.receiversOf x).map (·.2.1)).eraseDups.filter (· != ls)
        | none => []
      let s3 := s2.each others (fun t l => t.post (.ls ls) (.ls l) (.lsend slot (hop + 1) r last))
      .next (s3.post (.ls ls) src (.ack slot .dst r.chainIdx))
    | _ => .next s2
  | _ => .next s

/-- The records that follow one another from chain index `n`. -/
def consecutive : Nat → List TxRecord → List TxRecord
  | _, [] => []
  | n, r :: rs => if r.chainIdx == n then r :: consecutive (n + 1) rs else if r.chainIdx < n then consecutive n rs else []

/-- No record of the step comes after `rs` for a receiver: its chain ends there, or its slices have ended and no record is
on its way. -/
def State.recordsOver (s : State) (x : Step) (v : Receiver) (rs : List TxRecord) : Bool :=
  (match x.chain .src with | some c => c.known && !c.failed && v.first + v.sentTiles + rs.length == c.tiles | none => false)
    || (x.doneShares.length == x.slices.length && !x.suspends
      && !s.net.any (fun t => match t.body with | .lsend k _ _ _ => k == x.slot | _ => false))

/-- The slack window (R417). -/
def slackWindow : Nat := 4194304

/-- The receivers of a step on every link station. -/
def State.receiversIn (s : State) (slot : Nat) : List Receiver :=
  s.links.toList.flatMap (fun l => l.receivers.filter (fun r => r.slot == slot))

/-- Frame k goes to every attached receiver before frame k + 1 to any (R421). -/
def State.frameTurn (s : State) (v : Receiver) : Bool := (s.receiversIn v.slot).all (fun r => r.frames ≥ v.frames)

/-- Another attached receiver has room for this receiver's next frame, of `b` bytes, or has been sent it (R422). -/
def State.othersHaveRoom (s : State) (v : Receiver) (b : Nat) : Bool :=
  (s.receiversIn v.slot).any (fun r => r.number != v.number
    && (r.frames > v.frames || (r.frames == v.frames && r.outBytes + b ≤ slackWindow)))

/-- Words of a catch-up: the MCAST's, as a SEND to the receiver (R422, Tables 08-3 and 11-15). -/
def catchupWords (words : Bytes) (l : Fin 16) (v : Receiver) : Bytes :=
  let w0 := leAt words 0 8
  overwrite (overwrite words 0 (leBytes 8 (field w0 0 56 + place 0x20 56 8))) 48
    (leBytes 8 (place v.engine 46 18 + place v.context 40 6 + place v.tag 24 16 + place l.1 0 4))

/-- Detaches a receiver: a catch-up sends it the rest of the chain from memory, from the first record of the frame that it
had no room for, its seq and outstanding bytes going on (R422). -/
def State.detach (s : State) (l : Fin 16) (x : Step) (v : Receiver) : State :=
  match s.freeSlot with
  | none => s
  | some slot =>
    let n := v.first + v.sentTiles
    let y : Step :=
      { x with slot := slot, words := catchupWords x.words l v, phase := .dispatched, epoch := some s.hub.readEpoch.toNat, conds := [], miss := none
               flags := {}, countA := 0, countB := 0, result := 0, tilesDone := 0, last := [], doneShares := [], toDo := 1, escalated := 0
               target := none, resumedBy := none, placed := [], asked := [], batches := [], parent := some (x.slot, v.number) }
    let s1 := s.modHub (fun h => { h with steps := h.steps ++ [y] })
    let s2 := s1.modLink l (fun k =>
      { k with receivers := k.receivers.filter (fun r => !(r.slot == v.slot && r.number == v.number)) ++
          [{ v with slot := slot, number := 0, pending := [], first := n, sentTiles := 0, frames := 0, sentBytes := 0 }] })
    let s3 := s2.modStep x.slot (fun z =>
      { z with countB := z.countB + 1, result := z.result + 2 ^ v.number, flags := { z.flags with detached := true } })
    s3.each ((List.range y.slices.length).zip y.slices) (fun t p =>
      match newShare t y p.1 (if n == 0 then none else some (n - 1)), t.physOf p.2 with
      | some h, some k => t.post .hub (.slice k) (.ctl (.dispatch { h with last := none }))
      | _, _ => t.modStep slot (fun z => { z with doneShares := p.1 :: z.doneShares }))

/-! ### Sending frames (R411 to R413, R417, R419, R421, R422) -/

/-- Puts a frame on the L-port. -/
def State.putFrame (s : State) (l : Fin 16) (bytes : Bytes) : State :=
  (s.modLink l (fun x => { x with sentFrames := bytes :: x.sentFrames })).spend 5 (ceilDiv bytes.length 128)

/-- The bytes of a frame. -/
def TxFrame.bytes (f : TxFrame) : Bytes := f.header.toBytes ++ f.body

/-- Sends a frame that no step's data is in: a request, an answer or a credit. -/
def State.sendQueued (s : State) (l : Fin 16) (f : TxFrame) (rest : List TxFrame) : State :=
  let s1 := (s.modLink l (fun x => { x with tx := rest })).putFrame l f.bytes
  match finOf 64 f.header.srcContext with
  | none => s1
  | some c => if f.header.kind == 3 then s1.tallyAdd (.ls l) c 3 (recordsTally (parseRecords f.header.wholeSlot true f.header.records f.body []).1) else s1

/-- Sends a receiver its next DATA frame: the records `rs`. -/
def State.sendData (s : State) (l : Fin 16) (x : Step) (v : Receiver) (rs : List TxRecord) (last : Bool) : State :=
  let h : FrameHeader :=
    { ident := 0x5C, version := (s.link l).version, kind := 1, srcEngine := s.ident.engineId.toNat, dstEngine := v.engine, srcContext := x.ctx.1
      dstContext := v.context, tag := v.tag, records := rs.length, firstIndex := v.first + v.sentTiles, seq := v.seq, catchup := x.parent.isSome
      wholeSlot := (s.ctx x.ctx).keyed, lastFrame := last, tiles := 0, page := 0, credit := 0 }
  let bytes := h.toBytes ++ rs.flatMap (fun r => r.record.toBytes)
  let s1 := (s.putFrame l bytes).modLink l (fun k => { k with receivers := k.receivers.map (fun r =>
    if r.slot == v.slot && r.number == v.number then
      { r with pending := r.pending.filter (fun q => q.chainIdx ≥ h.firstIndex + rs.length), seq := r.seq + 1, frames := r.frames + 1
               sentTiles := r.sentTiles + rs.length, sentBytes := r.sentBytes + bytes.length, outBytes := r.outBytes + bytes.length
               lastSent := last }
    else r) })
  let s2 := if x.op == some .send then s1.report (.ls l)
      { Report.of x.slot 0 with countA := rs.length, countB := 1, result := bytes.length, tiles := rs.length }
    else s1
  (s2.tallyAdd (.ls l) x.ctx 3 (recordsTally (rs.map (·.record)))).settleReceivers l

/-- A receiver gets no more frames. -/
def State.endReceiver (s : State) (l : Fin 16) (v : Receiver) : State :=
  (s.modLink l (fun k => { k with receivers := k.receivers.map (fun r =>
    if r.slot == v.slot && r.number == v.number then { r with lastSent := true, pending := [] } else r) })).settleReceivers l

/-- What a link station can do for a receiver: send its next frame, detach it, or find that nothing is left to send. -/
def State.serveReceiver (s : State) (l : Fin 16) (v : Receiver) : Option State :=
  match s.step? v.slot with
  | none => none
  | some x =>
    let rs := consecutive (v.first + v.sentTiles) v.pending
    let ends := s.recordsOver x v rs
    let p := packFrame (frameLimit - 64) (recordGroups rs)
    if v.lastSent || !x.open then none
    else if rs.isEmpty then (if ends then some (s.endReceiver l v) else none)
    else if !(p.2 || ends) then none
    else if p.1.isEmpty then some ((s.lose (.ls l) x.slot 0x30 0x07 (v.first + v.sentTiles)).endReceiver l v)
    else if !s.frameTurn v then none
    else
      let b := 64 + recordsBytes p.1
      if v.outBytes + b ≤ slackWindow then some (s.sendData l x v p.1 (ends && p.1.length == rs.length))
      else if x.op == some .mcast && s.othersHaveRoom v b then some (s.detach l x v)
      else none

/-- FRAME_SEND: the link station sends its next frame: a queued request, answer or credit, or the next DATA frame of a
receiver with room in its slack window; a receiver without room while another has it is detached (R411, R417, R421,
R422). -/
def execFrameSend (ls : Fin 16) (s : State) : Host.Outcome State Fault Refusal :=
  if !s.live || !s.linkUp ls || !(s.link ls).lVer.isOpen then .next s
  else match (s.link ls).tx with
    | f :: rest => .next (s.sendQueued ls f rest)
    | [] => .next (((s.link ls).receivers.findSome? (s.serveReceiver ls)).getD s)

end Sys2Proof.Machine
end

