-- ==== Sys2Proof/Machine/PowerRows.lean ====
section
/-! DEFINITION. Slice power states, wakes and power telemetry (R465 to R475). -/
namespace Sys2Proof.Machine

/-- A context is OPEN or CLOSING. -/
def State.inUse (s : State) : Bool := s.ctxs.toList.any (fun x => x.state == .opened || x.state == .closing)

/-- Mapped slices in ACTIVE or IDLE (R467). -/
def State.readySlices (s : State) : Nat :=
  (s.usable.filter (fun l => match s.physOf l.1 with
    | some n => (s.slice n).power == .active || (s.slice n).power == .idle
    | none => false)).length

/-- A dispatch to the slice is on its way. -/
def State.dispatching (s : State) (n : Fin 132) : Bool :=
  s.net.any (fun t => t.dst == .slice n && (match t.body with | .ctl (.dispatch _) => true | _ => false))

/-- A swatch test runs on the slice. -/
def State.swatching (s : State) (n : Fin 132) : Bool :=
  match s.logicalOf n with
  | some l => (s.hub.swatch[l.1]).running
  | none => false

/-- No tile in a datapath (R466). -/
def Slice.noTile (x : Slice) : Bool :=
  x.sending.isNone && x.decoding.isNone && x.aIn.isEmpty && x.shares.all (fun h => h.queue.isEmpty && h.block.isNone)

/-- IDLE_ENTRY (R466). -/
def execIdleEntry (sl : Fin 132) (s : State) : Host.Outcome State Fault Refusal :=
  let x := s.slice sl
  if s.live && x.power == .active && !x.waking && x.noTile then .next (s.modSlice sl (fun y => { y with power := .idle, idleSince := s.now }))
  else .next s

/-- The slice is IDLE and has no work: what R467 asks of the slice itself. -/
def State.unused (s : State) (n : Fin 132) : Bool :=
  (s.slice n).power == .idle && (s.slice n).shares.isEmpty && !s.dispatching n && !s.swatching n

/-- The governor takes slice `m` before slice `n`: IDLE longer, or as long with the higher logical number (R467). -/
def State.idlesBefore (s : State) (m n : Fin 132) : Bool :=
  let a := (s.slice m).idleSince
  let b := (s.slice n).idleSince
  a < b || (a == b && (match s.logicalOf m, s.logicalOf n with
    | some j, some k => k < j
    | _, _ => false))

/-- DORMANT_ENTRY: the governor's conditions of R467, the slice the first in its order of those that qualify. -/
def execDormantEntry (sl : Fin 132) (s : State) : Host.Outcome State Fault Refusal :=
  if s.live && s.unused sl && !s.hub.dict.governorPinned
      && !(allFin 132).any (fun m => (s.logicalOf m).isSome && s.unused m && s.idlesBefore m sl)
      && (!s.inUse || s.readySlices ≥ s.hub.dict.minReady.toNat + 1) then
    .next (s.modSlice sl (fun y => { y with power := .dormant }))
  else .next s

/-- The slice holds nothing of any context (R468). -/
def State.holdsNothing (s : State) (n : Fin 132) : Bool :=
  let x := s.slice n
  x.bound.isNone && x.shares.isEmpty && x.window.isNone && x.banks.toList.all (fun b => b.owner.isNone)
    && (match s.logicalOf n with
      | some l => s.ctxs.toList.all (fun c => c.streams.toList.all (fun p => p.state == .free || !p.slices.contains l.1))
      | none => true)

/-- OFF_ENTRY: a DORMANT slice that holds nothing is put OFF and its SRAM is lost (R468). -/
def execOffEntry (sl : Fin 132) (s : State) : Host.Outcome State Fault Refusal :=
  let x := s.slice sl
  if s.live && x.power == .dormant && !x.waking && s.hub.dict.offMs != 0 && !s.hub.dict.governorPinned && s.holdsNothing sl then
    .next (s.modSlice sl (fun y => { y with power := .off, dFree := [], dFull := [], aDone := [], zeroLater := [] }))
  else .next s

/-- A wake condition of R469 holds. -/
def State.wakes (s : State) (n : Fin 132) : WakeCause → Bool
  | .dispatch => s.dispatching n || !(s.slice n).shares.isEmpty
  | .transaction => s.net.any (fun t => t.dst == .slice n && !t.body.isProbe)
  | .port => true
  | .swatch => s.swatching n
  | .pinned => s.hub.dict.governorPinned
  | .minReady => s.inUse && s.readySlices < s.hub.dict.minReady.toNat
  | .mapped => (s.slice n).power == .off

/-- SLICE_WAKE: a mapped DORMANT or OFF slice starts its wake (R468 to R470). -/
def execSliceWake (sl : Fin 132) (cause : WakeCause) (s : State) : Host.Outcome State Fault Refusal :=
  let x := s.slice sl
  if s.live && (x.power == .dormant || x.power == .off) && !x.waking && (s.logicalOf sl).isSome && s.wakes sl cause then
    .next (s.modSlice sl (fun y => { y with waking := true }))
  else .next s

/-- WAKE_COMPLETE: the slice is ACTIVE, its SRAM zeroed if it was OFF and the zeroing a scrub recorded done (R469, R471). -/
def execWakeComplete (sl : Fin 132) (s : State) : Host.Outcome State Fault Refusal :=
  let x := s.slice sl
  if s.live && x.waking && x.alive then
    .next (s.modSlice sl (fun y => { y with power := .active, waking := false, zeroLater := [] }))
  else .next s

/-- POWER_WINDOW: sb_power_q and power_q take floor(E / 0.05 J), at most 255, and a new window begins (R475). -/
def execPowerWindow (s : State) : Host.Outcome State Fault Refusal :=
  if !s.live then .next s
  else .next { s with
    pins := { s.pins with powerQ := BitVec.ofNat 8 (Nat.min (s.hub.energy / 50000000000) 255) }
    hub := { s.hub with energy := 0 } }

end Sys2Proof.Machine
end

