-- ==== Sys2Proof/Machine/Startup.lean ====
section
/-! DEFINITION. Start-up, version negotiation, reset, supply loss, thermal trips and operating points (R30, R383, R384,
R390, R391, R428, R429, R455 to R463, R498). -/
namespace Sys2Proof.Machine

/-! ### The identity ROM (R428, R429, Table 11-20) -/

/-- Word `i` of the ROM as read; a word that was not supplied reads 0. -/
def romWord (rom : List (BitVec 32)) (i : Nat) : Nat := (rom.getD i 0).toNat

/-- Fields of the identity. -/
structure RomFields where
  wirLen : Nat
  idLen : Nat
  capPos : Nat
  capWidth : Nat
  ratePos : Nat
  rateWidth : Nat
deriving DecidableEq, Repr

/-- The stack profile of words 8 and 10. -/
def romFields (rom : List (BitVec 32)) : RomFields :=
  let w8 := romWord rom 8
  let w10 := romWord rom 10
  { wirLen := field w8 27 5 + 1, idLen := field w8 17 10 + 1, capPos := field w10 22 10, capWidth := field w10 18 4 + 1
    ratePos := field w10 8 10, rateWidth := field w10 4 4 + 1 }

/-- Both field positions lie inside the identity (R429). -/
def RomFields.ok (f : RomFields) : Bool := f.capPos + f.capWidth ≤ f.idLen && f.ratePos + f.rateWidth ≤ f.idLen

/-- A near store of 2^20 to 2^34 bytes (Table 11-20). -/
def nearLog2Ok (v : Nat) : Bool := 20 ≤ v && v ≤ 34

/-- Words that break Table 11-20: a reserved bit, near_log2, or a field position (R429). -/
def romBadWords (rom : List (BitVec 32)) : List Nat :=
  (List.range 16).filter (fun i =>
    let w := romWord rom i
    match i with
    | 0 => field w 18 14 != 0
    | 5 => field w 4 28 != 0
    | 6 => field w 28 4 != 0
    | 7 => field w 8 24 != 0 || !nearLog2Ok (field w 0 8)
    | 8 => field w 0 17 != 0
    | 10 => field w 0 4 != 0 || !(romFields rom).ok
    | 11 => field w 16 16 != 0
    | 12 | 13 | 14 | 15 => w != 0
    | _ => false)

/-- The identity of a ROM; `bad` stands for a near_log2 the spec gives no meaning (R429). -/
def identityOf (rom : List (BitVec 32)) (bad : Nat) : Identity :=
  let f := romFields rom
  let fused := sumNat ((List.range 5).map (fun i => romWord rom (1 + i) * 2 ^ (32 * i)))
  let w6 := romWord rom 6
  let near := field (romWord rom 7) 0 8
  { engineId := BitVec.ofNat 18 (romWord rom 0), fused := BitVec.ofNat 132 fused
    stations := BitVec.ofNat 12 (field w6 16 12), links := BitVec.ofNat 16 (field w6 0 16)
    nearLog2 := if nearLog2Ok near then near else bad, wirInstruction := BitVec.ofNat 32 (romWord rom 9)
    wirLen := f.wirLen, idLen := f.idLen, capPos := f.capPos, capWidth := f.capWidth, ratePos := f.ratePos
    rateWidth := f.rateWidth, rateScale := field (romWord rom 11) 0 16, profileOk := f.ok }

/-! ### The logical mapping (R30) -/

/-- The mapping and the spares left: fused-off logical slices in ascending order take the lowest remaining spare. -/
def mapSlices (fused : Nat) : List (Fin 128) → List (Fin 132) → List (Fin 128 × Option (Fin 132)) × List (Fin 132)
  | [], sp => ([], sp)
  | l :: ls, sp =>
    if !bitAt fused l.1 then
      let r := mapSlices fused ls sp
      ((l, some (l.castLE (by decide))) :: r.1, r.2)
    else match sp with
      | [] =>
        let r := mapSlices fused ls []
        ((l, none) :: r.1, r.2)
      | p :: ps =>
        let r := mapSlices fused ls ps
        ((l, some p) :: r.1, r.2)

/-- Unfused spares, ascending. -/
def unfusedSpares (fused : Nat) : List (Fin 132) := (allFin 132).filter (fun n => 128 ≤ n.1 && !bitAt fused n.1)

/-- The map as a vector. -/
def mapVector (fused : Nat) : Vector (Option (Fin 132)) 128 :=
  let ms := (mapSlices fused (allFin 128) (unfusedSpares fused)).1
  Vector.ofFn (fun l => ((ms.find? (fun p => p.1 == l)).bind (·.2)))

/-- Power state of a physical slice at the start (Table 13-3, R462). -/
def startPower (fused : Nat) (map : Vector (Option (Fin 132)) 128) (n : Fin 132) : Power :=
  if bitAt fused n.1 then .fused else if map.toList.contains (some n) then .active else .off

/-- START_INSTANT: the hub reads the identity ROM, applies the mapping and loads every default; identity-ROM events are
raised for bad words (R30, R428, R429, R440, R460, R461). -/
def execStartInstant (rom : List (BitVec 32)) (s : State) : Host.Outcome State Fault Refusal :=
  if s.phase != .held then .next s
  else
    let needFree := !nearLog2Ok (field (romWord rom 7) 0 8)
    let d := if needFree then s.draw else (0, s)
    let id := identityOf rom d.1
    let fused := id.fused.toNat
    let map := mapVector fused
    let s1 : State :=
      { d.2 with
        phase := .starting
        pins := { d.2.pins with supplyValid := true, opReq := 2 }
        ident := id
        hub := { d.2.hub with
          map := map, spares := (mapSlices fused (allFin 128) (unfusedSpares fused)).2
          dict := { d.2.hub.dict with stationEnable := BitVec.ofNat 16 id.stations.toNat, linkEnable := id.links } }
        slices := Vector.ofFn (fun n => { d.2.slices[n.1] with power := startPower fused map n })
        stations := Vector.ofFn (fun m => { d.2.stations[m.1] with present := bitAt id.stations.toNat m.1 })
        links := Vector.ofFn (fun l => { d.2.links[l.1] with present := bitAt id.links.toNat l.1 }) }
    .next (s1.each (romBadWords rom) (fun t i => t.raise 0x900D none 0xC0 i (romWord rom i)))

/-- The wrapper port's cycles of a stack's identity read: the reset, the instruction shifted in and taken over, the identity
captured and shifted out, and the last update (R390). -/
def wrapperCycles (id : Identity) : List WrapCycle :=
  let idle : WrapCycle := { wrst := false, selectwir := false, capturewr := false, shiftwr := false, updatewr := false, wsi := none }
  List.replicate 4 { idle with wrst := true }
    ++ (List.range id.wirLen).map (fun i => { idle with selectwir := true, shiftwr := true, wsi := some (bitAt id.wirInstruction.toNat i) })
    ++ [{ idle with selectwir := true, updatewr := true }, { idle with capturewr := true }]
    ++ List.replicate id.idLen { idle with shiftwr := true }
    ++ [{ idle with updatewr := true }]

/-- STACK_IDENTITY_READ: the station takes capacity and rate from its stack's identity, or is treated as failed
(R390, R391, R429). -/
def execStackIdentityRead (ms : Fin 12) (bits : Nat) (s : State) : Host.Outcome State Fault Refusal :=
  let x := s.station ms
  if s.phase != .starting || !x.present || x.idValid || x.failed then .next s
  else
    let id := s.ident
    let v := bits % 2 ^ id.idLen
    let cap := field v id.capPos id.capWidth
    let rate := field v id.ratePos id.rateWidth
    if !id.profileOk || rate * id.rateScale == 0 || cap == 2 ^ id.capWidth - 1 then
      .next (((s.modStation ms (fun m => { m with identity := BitVec.ofNat 1024 v, wrapper := wrapperCycles id })).raise 0x9009 none (0x90 + ms.1) cap rate).failStation ms)
    else
      .next (s.modStation ms (fun m =>
        { m with idValid := true, capacityLog2 := Nat.min cap 8, rate := rate * id.rateScale, identity := BitVec.ofNat 1024 v
                 wrapper := wrapperCycles id }))

/-- SB_READY: 20 µs after the start instant (R376, R461, R462): the first measurement is taken, sb_ready rises and the H-,
N-, D- and A-ports open. A station whose identity has not been read has failed its step of Table 13-3. The governor's first
request of R458 is made here: until then sb_op_req holds the 2 of R455 (DEDUCED, assumption 107). -/
def execSbReady (s : State) : Host.Outcome State Fault Refusal :=
  if s.phase != .starting then .next s
  else
    let s1 : State :=
      { s with
        phase := .ready
        pins := { s.pins with ready := true } }
    let s0 := s1.each ((allFin 12).filter (fun m => (s.station m).present && !(s.station m).idValid)) (fun t m => t.failStation m)
    let s2 := s0.measureNow.latch.settleOpReq
    .next (if s2.usable.length < 128 then s2.raise 0x9011 none 0xC0 s2.usable.length 0 else s2)

/-! ### Versions (R383, R384) -/

/-- What a sampled partner version gives. -/
def agree (peer : Nat) : PortVer := if peer < 2 then .disabled else .agreed (Nat.min 3 peer)

/-- A port of unit `u`: the F-port, or the unit's own port (M, L or C), with the letter of its event (Table 12-14). -/
def State.portOf (s : State) (u : UnitId) (own : Bool) : Option (PortVer × Nat) :=
  match u, own with
  | .slice n, false => if (s.slice n).alive then some ((s.slice n).fVer, 0x46) else none
  | .slice _, true => none
  | .ms m, false => if (s.station m).present && !(s.station m).failed then some ((s.station m).fVer, 0x46) else none
  | .ms m, true => if (s.station m).present && !(s.station m).failed then some ((s.station m).mVer, 0x4D) else none
  | .ls l, false => if (s.link l).present && !(s.link l).failed then some ((s.link l).fVer, 0x46) else none
  | .ls l, true => if (s.link l).present && !(s.link l).failed then some ((s.link l).lVer, 0x4C) else none
  | .hub, false => some (s.hub.fVer, 0x46)
  | .hub, true => some (s.hub.cVer, 0x43)

/-- Sets a port's version. -/
def State.setPort (s : State) (u : UnitId) (own : Bool) (v : PortVer) : State :=
  match u, own with
  | .slice n, _ => s.modSlice n (fun x => { x with fVer := v })
  | .ms m, false => s.modStation m (fun x => { x with fVer := v })
  | .ms m, true => s.modStation m (fun x => { x with mVer := v })
  | .ls l, false => s.modLink l (fun x => { x with fVer := v })
  | .ls l, true => s.modLink l (fun x => { x with lVer := v })
  | .hub, false => s.modHub (fun h => { h with fVer := v })
  | .hub, true => s.modHub (fun h => { h with cVer := v })

/-- VERSION_SAMPLE: the port opens at min(3, peer), or is disabled, with event 0x9008 and its unit treated as failed; a
disabled C-port leaves the hub without steps (R383, R384). -/
def execVersionSample (u : UnitId) (own : Bool) (peer : BitVec 4) (s : State) : Host.Outcome State Fault Refusal :=
  match s.portOf u own with
  | none => .next s
  | some p =>
    if !s.live || p.1 != .waiting then .next s
    else
      let v := agree peer.toNat
      let s1 := s.setPort u own v
      if v != .disabled then
        .next (if u == .hub && own then s1.each s1.hub.cOut (fun t _ => t.cIssue) else s1)
      else
        let s2 := s1.raise 0x9008 none (unitNo u) p.2 peer.toNat
        .next (if u == .hub && own then s2 else s2.failUnit u)

/-! ### Reset and supplies (R463, R500, R505) -/

/-- Every domain but the tally's in its reset state; what the engine holds (its stores, its input pins), the tally, the
mirrored tally values and the commands still to come stay. Counts still on their way to the tally are lost (R500). -/
def State.toReset (s : State) : State :=
  { State.reset with
    pins := { State.reset.pins with
      supplyValid := s.pins.supplyValid, tallySupply := s.pins.tallySupply, thermal := s.pins.thermal, opGrant := s.pins.opGrant }
    hub := { Hub.reset with mirrorEpoch := s.hub.mirrorEpoch, mirrorRecord := s.hub.mirrorRecord }
    near := s.near, nearBad := s.nearBad, stackMem := s.stackMem, stackBad := s.stackBad
    tally := s.tally, now := s.now, freeCtr := s.freeCtr, pending := s.pending }

/-- RESET: sb_reset rises (R463); the tally's epoch carries reset_seen and not_ready (Table 14-10). -/
def execReset (s : State) : Host.Outcome State Fault Refusal :=
  .next { s.toReset with tally := { s.tally with resetSeen := true, notReady := true } }

/-- SUPPLY_LOSS: sb_supply_valid falls (R463); the tally's epoch carries supply_lost and not_ready (Table 14-10). -/
def execSupplyLoss (s : State) : Host.Outcome State Fault Refusal :=
  let t := s.toReset
  .next { t with pins := { t.pins with supplyValid := false }, tally := { s.tally with supplyLost := true, notReady := true } }

/-! ### Thermal trips and operating points (R455 to R459, R498) -/

/-- The block runs from the start instant on: clk_core is up and events are raised (R460, R461). -/
def State.running (s : State) : Bool := s.live || s.phase == .starting

/-- THERMAL_TRIP: a rising edge is counted, raises 0x9015 and makes the governor request the lowest point (R458, R498). -/
def execThermalTrip (s : State) : Host.Outcome State Fault Refusal :=
  let s1 : State := { s with pins := { s.pins with thermal := true } }
  if !s.running || s.pins.thermal then .next s1
  else
    let s2 := (s1.count (fun c => { c with thermalTrips := c.thermalTrips + 1 })).raise 0x9015 none 0xC0 0 0
    .next s2.settleOpReq

/-- THERMAL_TRIP_CLEAR: the governor requests its normal point again (R458). -/
def execThermalTripClear (s : State) : Host.Outcome State Fault Refusal :=
  let s1 : State := { s with pins := { s.pins with thermal := false } }
  .next (if s.live then s1.settleOpReq else s1)

/-- OP_GRANT_CHANGE: clk_core moves to the granted point and event 0x9018 is raised (R456, R459). -/
def execOpGrantChange (g : BitVec 2) (s : State) : Host.Outcome State Fault Refusal :=
  let s1 : State := { s with pins := { s.pins with opGrant := g } }
  .next (if s.running && g != s.pins.opGrant then s1.raise 0x9018 none 0xC0 g.toNat s.pins.opGrant.toNat else s1)

/-- OP_REQUEST_IDLE: with no step unfinished for dormant_after_us the governor requests the lowest point (R458). -/
def execOpRequestIdle (s : State) : Host.Outcome State Fault Refusal :=
  if s.live && s.hub.steps.all (fun x => !x.open) then .next (s.modHub (fun h => { h with opIdle := true })).settleOpReq
  else .next s

end Sys2Proof.Machine
end

