-- ==== Sys2Proof/Machine/Switch.lean ====
section
/-! DEFINITION. Moving a slice between contexts (R170, R280, R281, R338 to R341). -/
namespace Sys2Proof.Machine

/-! ### Leaving and coming back (R338) -/

/-- A share of a context the slice is not bound to waits there with its context's state (R281). -/
def State.leave (s : State) (n : Fin 132) (c : Fin 64) : State :=
  if s.left n c || (s.slice n).bound == some c then s
  else s.modHub (fun h => { h with saved := h.saved ++ [(n, c, s.now)] })

/-- The slice has read the state of the context it is bound to: its shares go on (R338). -/
def State.loadContext (s : State) (n : Fin 132) (c : Fin 64) : State :=
  let s1 := s.modHub (fun h => { h with saved := h.saved.filter (fun e => !(e.1 == n && e.2.1 == c)) })
  s1.each ((s1.slice n).shares.filter (fun h => h.ctx == c)) (fun t h => (((t.flushOut n h.slot).flushLink n h.slot).drainRecv h.slot).settleShare n h.slot)

/-! ### When a slice is due to move (R281) -/

/-- Unfinished shares of a context on a slice. -/
def Slice.busyFor (y : Slice) (c : Fin 64) : Bool := y.shares.any (fun h => h.ctx == c && !h.reported)

/-- A ready step that may use logical slice `l` but for its binding. -/
def State.couldUse (s : State) (x : Step) (l : Fin 128) : Bool :=
  s.isReady x && !(x.op.getD .nop).noSlice && (match s.namedSlices x with
    | some ls => ls.contains l.1
    | none => (s.anyUsable x).contains l.1) && s.hasRoom x l.1

/-- Since when a context has waited for the slice: its oldest ready step that may use it, or its shares paused there. -/
def State.waitsSince (s : State) (n : Fin 132) (d : Fin 64) : Option Nat :=
  let ready := match s.logicalOf n with
    | none => none
    | some l => ((s.stepsOf d).filter (fun x => s.couldUse x l)).foldl (fun acc x => minOpt acc (some (x.readyAt.getD s.now))) none
  let paused := if (s.slice n).shares.any (fun h => h.ctx == d && !h.reported && !h.paused)
    then (s.hub.saved.find? (fun e => e.1 == n && e.2.1 == d)).map (·.2.2) else none
  minOpt ready paused

/-- The context that takes the slice: of those that wait for it, the one that has waited longest (R281); of two that have
waited equally long, the one with the lower number (DESIGN CHOICE: assumption 97). -/
def State.nextContext (s : State) (n : Fin 132) : Option (Fin 64) :=
  ((allFin 64).foldl (fun (acc : Option (Fin 64 × Nat)) d =>
    if (s.slice n).bound == some d then acc
    else match s.waitsSince n d, acc with
      | none, _ => acc
      | some t, none => some (d, t)
      | some t, some a => if t < a.2 then some (d, t) else acc) none).map (·.1)

/-- Marks the slice due to move to the context that takes it. -/
def State.makeDue (s : State) (n : Fin 132) : State :=
  match s.nextContext n with
  | none => s
  | some d => s.modSlice n (fun y => { y with moveDue := some d })

/-- SWITCH_IDLE_TIMEOUT: the slice has held no unfinished step of its context for switch_idle_ns, and another context has a
ready step that may use it (R281). -/
def execSwitchIdleTimeout (sl : Fin 132) (s : State) : Host.Outcome State Fault Refusal :=
  let idle : Bool := match (s.slice sl).bound with | some c => !(s.slice sl).busyFor c | none => true
  if s.live && (s.slice sl).alive && idle then .next (s.makeDue sl) else .next s

/-- QUANTUM_EXPIRY: a step of another context has waited for the slice for longer than context_quantum_us (R281). -/
def execQuantumExpiry (sl : Fin 132) (s : State) : Host.Outcome State Fault Refusal :=
  if s.live && (s.slice sl).alive && (s.slice sl).bound.isSome then .next (s.makeDue sl) else .next s

/-! ### The move -/

/-- A contour step is between two blocks (R170): no block of its input is open, and it has taken the last tile of the block
it decodes, or the next tile of its source begins another. -/
def Share.betweenBlocks (h : Share) : Bool :=
  h.block.isNone && (!h.inBlock || (match (h.round .src).bind (fun r => r.at? r.h) with
    | some q => match q.content with
      | .tile t =>
        let g := (Legend.ofBytes t.legend).asVersion4
        g.fmt != Fmt.contour.code || g.blockTile == 0
      | .fill => true
      | .waiting => false
    | none => false))

/-- The slice is at a tile boundary: nothing in its datapaths, no coded tile on its way out, contour steps between two
blocks (R170, R281, R338, R340). -/
def Slice.atBoundary (y : Slice) (c : Fin 64) : Bool :=
  y.sending.isNone && y.decoding.isNone && y.frogQ.isEmpty && y.aIn.isEmpty && y.records.isEmpty
    && (y.shares.filter (fun h => h.ctx == c)).all (fun h => h.betweenBlocks && h.out.all (fun o => !o.sent))

/-- SLICE_CONTEXT_MOVE: at its next tile or block boundary the slice saves its context's state to the hub, and the state of
the context it moves to is sent to it when the hub holds one (R281, R338). -/
def execSliceContextMove (sl : Fin 132) (s : State) : Host.Outcome State Fault Refusal :=
  let y := s.slice sl
  match y.moveDue with
  | none => .next s
  | some d =>
    let there : Bool := match y.bound with | some c => y.atBoundary c | none => true
    if !s.live || !y.awake || !there then .next s
    else
      let s1 := match y.bound with
        | some c => if y.busyFor c && c != d then s.modHub (fun h => { h with saved := h.saved ++ [(sl, c, s.now)] }) else s
        | none => s
      let s2 := s1.modSlice sl (fun z => { z with bound := some d, moveDue := none })
      .next (if s2.left sl d then s2.post .hub (.slice sl) (.ctl (.contextState d)) else s2)

end Sys2Proof.Machine
end

