-- ==== Sys2Proof/Machine/TallyRows.lean ====
section
/-! DEFINITION. The tally: usage counts, open messages, epochs, signed records and the T-port (R499 to R505). -/
namespace Sys2Proof.Machine

/-! ### Records (Tables 14-10 and 14-11) -/

/-- Some quantity of an entry is nonzero. -/
def TallyEntry.active (e : TallyEntry) : Bool :=
  e.expanded != 0 || e.compressed != 0 || e.mBytes != 0 || e.lBytes != 0 || e.steps != 0

/-- The 48 bytes of a context entry (Table 14-11). -/
def TallyEntry.toBytes (e : TallyEntry) : Bytes :=
  leBytes 2 e.tag.toNat ++ leBytes 1 (b2n e.opened + 2 * b2n e.active + 4 * b2n e.merged) ++ zeros 1 ++ leBytes 4 e.serial.toNat
    ++ leBytes 8 e.expanded.toNat ++ leBytes 8 e.compressed.toNat ++ leBytes 8 e.mBytes.toNat ++ leBytes 8 e.lBytes.toNat
    ++ leBytes 8 e.steps.toNat

/-- Bytes 0 to 3,135 of the open epoch's record (Table 14-10). -/
def Tally.body (t : Tally) : Bytes :=
  leBytes 1 0x12 ++ leBytes 1 (b2n t.first + 2 * b2n t.resetSeen + 4 * b2n t.supplyLost + 8 * b2n t.notReady) ++ leBytes 2 3232
    ++ zeros 4 ++ leBytes 8 t.epoch.toNat ++ (if t.first then zeros 48 else fitTo 48 t.prevHash)
    ++ t.entries.toList.flatMap TallyEntry.toBytes

/-- The sealed record: body and its ECDSA signature (R501, R502). -/
def Tally.record (t : Tally) : Bytes :=
  let sig := ecdsaSign Config.tallyPrivateKey t.body
  t.body ++ beBytes 48 sig.1 ++ beBytes 48 sig.2

/-- Seals the open epoch with its record and begins the next (R500, R501, R504). -/
def Tally.seal (t : Tally) (rec_ : Bytes) (ready : Bool) : Tally :=
  let kept := ((t.epoch, rec_) :: t.kept).take 16
  let held := fun (o : TallyOffer) => match o with
    | .record e => kept.any (fun k => k.1 == e)
    | .allOnes => true
  { t with
    epoch := t.epoch + 1, first := false, resetSeen := false, supplyLost := false, notReady := !ready
    prevHash := sha384 rec_
    entries := t.entries.map (fun e => { e with opened := false, merged := false, expanded := 0, compressed := 0, mBytes := 0, lBytes := 0, steps := 0 })
    kept := kept
    offers := (t.offers ++ [TallyOffer.record t.epoch]).filter held }

/-! ### Counts (R499, R503) -/

/-- Adds an amount to a quantity of an entry (Table 14-9). -/
def TallyEntry.add (e : TallyEntry) (quantity amount : Nat) : TallyEntry :=
  let n := BitVec.ofNat 64 amount
  match quantity with
  | 0 => { e with expanded := e.expanded + n }
  | 1 => { e with compressed := e.compressed + n }
  | 2 => { e with mBytes := e.mBytes + n }
  | 3 => { e with lBytes := e.lBytes + n }
  | _ => { e with steps := e.steps + n }

/-- The oldest message that satisfies a test, with the rest. -/
def takeMsg (p : TallyMsg → Bool) : List TallyMsg → Option (TallyMsg × List TallyMsg)
  | [] => none
  | m :: ms => if p m then some (m, ms) else (takeMsg p ms).map (fun r => (r.1, m :: r.2))

/-- A count from a unit. -/
def TallyMsg.isCountOf (src : UnitId) : TallyMsg → Bool
  | .count u _ _ _ => u == src
  | .opened _ _ => false

/-- An open message. -/
def TallyMsg.isOpened : TallyMsg → Bool
  | .opened _ _ => true
  | .count _ _ _ _ => false

/-- The tally takes a message; before the T-port is open no epoch runs and it counts nothing (R500). -/
def Tally.take (t : Tally) (m : TallyMsg) : Tally :=
  if !t.isOpen then t
  else match m with
    | .count _ c q a => { t with entries := vmod t.entries c (fun e => e.add q a) }
    | .opened c tag => { t with entries := vmod t.entries c (fun e =>
        { e with tag := tag, opened := true, merged := e.merged || e.active, serial := e.serial + 1 }) }

/-- TALLY_COUNT: a unit's oldest count reaches the tally and belongs to the current epoch (R499, R500). -/
def execTallyCount (src : UnitId) (s : State) : Host.Outcome State Fault Refusal :=
  match takeMsg (TallyMsg.isCountOf src) s.tallyWire with
  | none => .next s
  | some (m, rest) => .next { s with tallyWire := rest, tally := s.tally.take m }

/-- TALLY_OPEN_MESSAGE: the hub's oldest open message sets the entry's tag and serial, merging if it holds counts (R503). -/
def execTallyOpenMessage (s : State) : Host.Outcome State Fault Refusal :=
  match takeMsg TallyMsg.isOpened s.tallyWire with
  | none => .next s
  | some (m, rest) => .next { s with tallyWire := rest, tally := s.tally.take m }

/-- EPOCH_END: the record is sealed, signed, offered, mirrored and kept (R501). -/
def execEpochEnd (s : State) : Host.Outcome State Fault Refusal :=
  if !s.tally.isOpen then .next s
  else
    let r := s.tally.record
    .next { s with
      tally := s.tally.seal r s.pins.ready
      hub := { s.hub with mirrorEpoch := s.tally.epoch, mirrorRecord := r } }

/-- Beats of the T-port, which the hub's energy count takes while the block runs (R474, assumption 6). -/
def State.spendTally (s : State) (n : Nat) : State := if s.live then s.spend 9 n else s

/-- TALLY_REQUEST: a request on t_rq is answered, in order, with the record of that epoch or the all-ones word (R504). -/
def execTallyRequest (epoch : BitVec 64) (s : State) : Host.Outcome State Fault Refusal :=
  if !s.tally.isOpen then .next s
  else
    let o : TallyOffer := if s.tally.kept.any (fun k => k.1 == epoch) then .record epoch else .allOnes
    .next ((s.modTally (fun t => { t with offers := t.offers ++ [o] })).spendTally 1)

/-- TALLY_RECORD_OFFER: the oldest record or answer transfers on t_rd (R504). -/
def execTallyRecordOffer (s : State) : Host.Outcome State Fault Refusal :=
  match s.tally.offers with
  | [] => .next s
  | o :: os =>
    let bytes := match o with
      | .record e => ((s.tally.kept.find? (fun k => k.1 == e)).map (·.2)).getD []
      | .allOnes => List.replicate 8 0xFF#8
    .next ((s.modTally (fun t => { t with offers := os, lastOffered := bytes })).spendTally (ceilDiv bytes.length 8))

/-- T_PORT_OPEN: the T-port opens and epoch 0 begins (R426, R500). -/
def execTPortOpen (s : State) : Host.Outcome State Fault Refusal :=
  if s.pins.tallySupply && !s.tally.isOpen then
    .next { s with tally := { Tally.reset with isOpen := true, notReady := !s.pins.ready } }
  else .next s

/-- TALLY_SUPPLY_LOSS: the tally's state is lost (R505). -/
def execTallySupplyLoss (s : State) : Host.Outcome State Fault Refusal :=
  .next { s with pins := { s.pins with tallySupply := false }, tally := Tally.reset }

/-- TALLY_SUPPLY_RETURN: epochs will restart at 0 with first set, once the T-port opens (R426, R505). -/
def execTallySupplyReturn (s : State) : Host.Outcome State Fault Refusal :=
  if s.pins.tallySupply then .next s
  else .next { s with pins := { s.pins with tallySupply := true }, tally := Tally.reset }

end Sys2Proof.Machine
end

