-- ==== Sys2Proof/Machine/Txns.lean ====
section
/-! DEFINITION. F-port transactions at their receivers (Table 11-10): acknowledgements, step links, summaries, control,
status, verdicts and protocol errors (R137, R253, R254, R260, R300, R325, R326, R338, R405 to R409, R416, R481, R484). -/
namespace Sys2Proof.Machine

/-- ACK: a write, summary or record is acknowledged to its writer: a slice's coded tile comes nearer to visibility, an
entry of a GAZ_CLEAR is cleared, a frame's tile is credited (R69, R253, R326, R416). -/
def execAck (dst src : UnitId) (s : State) : Host.Outcome State Fault Refusal :=
  match s.recvTxn src dst 0x22 with
  | some (.ack slot r i, s1) =>
    match dst with
    | .slice n => .next (s1.ackOut n slot r i)
    | .hub => .next (s1.modStep slot (fun x =>
        if x.toDo == 0 then x
        else if x.op == some .gazClear then { x with toDo := x.toDo - 1, tilesDone := x.tilesDone + 1, countA := x.countA + 1, pos := x.pos + 1 }
        else { x with toDo := x.toDo - 1 }))
    | .ls l => .next (s1.tileVisible l slot i)
    | .ms _ => .next s1
  | _ => .next s

/-- QPUSH: a producer's entry enters the step-link queue of the consuming slice (R253, R254). -/
def execQpush (sl : Fin 132) (src : UnitId) (s : State) : Host.Outcome State Fault Refusal :=
  match s.recvTxn src (.slice sl) 0x07 with
  | some (.qpush slot e, s1) => .next (s1.modShare sl slot (fun h => { h with link := h.link ++ [(src, e)] }))
  | _ => .next s

/-- CREDIT: a consumer returns credits; the producer pushes what they allow (R254). -/
def execCredit (dst src : UnitId) (s : State) : Host.Outcome State Fault Refusal :=
  match s.recvTxn src dst 0x24 with
  | some (.credit _ _ _, s1) =>
    match dst with
    | .slice n => .next (s1.each ((s1.slice n).shares.filter (fun h => !h.linkOut.isEmpty && s1.atWork n h.ctx)) (fun t h => t.flushLink n h.slot))
    | .ls l => .next (s1.pushStation l)
    | _ => .next s1
  | _ => .next s

/-- SUMMARY: the owner slice reads the gazetteer entry of a contribution through its N-port, to merge it; it takes the
next one when the entry has been written (R137, R325). -/
def execSummary (sl src : Fin 132) (s : State) : Host.Outcome State Fault Refusal :=
  match s.recvTxn (.slice src) (.slice sl) 0x06 with
  | some (.summary c entry page tile y n bounds slot i, s1) =>
    if (s.slice sl).merging then .next s
    else .next (s1.nRange sl false ((s1.ctx c).gazAddr entry) (s1.ctx c).gazStride []
      (.gaz .merge (.slice src) c { entry := entry, page := page, tile := tile, y := y, n := n, bounds := bounds } slot i))
  | _ => .next s

/-- ATLAS: a station applies a leaf change at the leaf's home, once it has read what that needs and the writes accepted before it are
made, or takes a forwarded walk as a fetch (R299, R300, R304). -/
def execAtlas (ms src : Fin 12) (s : State) : Host.Outcome State Fault Refusal :=
  match s.recvTxn (.ms src) (.ms ms) 0x09 with
  | some (.atlas (.setLeaf c p l slot), s1) =>
    let who := if (s.step? slot).isSome then Asker.step slot else .own c
    match s.need who c (s.leafLooks (((s.step? slot).map (·.opened)).getD []) c p (s.dropLooks c ms)) with
    | some t => .next t
    | none => if s.pageHeld c p then .next s else .next (s1.leafCame c p l slot).wakeItems
  | some (.atlas (.walk f), s1) => match s1.walk f.ctx (f.tileNo / 16) with
    | .leaf l _ _ => .next (s1.resolved ms f l)
    | .miss level => .next (s1.missFetch (.ms ms) f { tile := f.chainIdx, kind := 1, station := ms.1, level := level, page := f.tileNo / 16 })
    | .integrity cause => .next (s1.failFetch (.ms ms) f 0x31 cause)
    | .stationDown => .next (s1.failFetch (.ms ms) f 0x23 0x02)
  | _ => .next s

/-- Round bytes that a step's share takes on a logical slice: its own, or, for a pass, those of a stream that has none there. -/
def State.shareRounds (s : State) (l : Nat) (x : Step) : Nat :=
  if !isPass x.words then s.roundBytes x else if (s.stream x).slices.contains l then 0 else (s.stream x).roundBytes

/-- The slice has no round space for a share that comes to it beyond the hub's check at dispatch: one that a fence moves, or a
catch-up's (R242). -/
def State.noRounds (s : State) (n : Fin 132) (x : Step) : Bool :=
  match s.logicalOf n with
  | none => false
  | some l =>
    let there := ((s.slice n).shares.filter (fun h => h.slot != x.slot)).filterMap (fun h => s.step? h.slot)
    sumNat (there.map (s.shareRounds l.1)) + sumNat (s.ctxs.toList.flatMap (fun c =>
      (c.streams.toList.filter (fun p => p.slices.contains l.1)).map PStream.roundBytes)) + s.shareRounds l.1 x > 3 * 2 ^ 20

/-- A share reaches its slice. It waits on the network while the slice has no round space for it (R242). Two shares of one step on a slice (R485) take turns: the later one waits on the network
until the first has reported its end, and one that only a miss holds back goes behind it. -/
def State.takeShare (s : State) (n : Fin 132) (x : Step) (h : Share) : State :=
  let send := fun (t : State) (g : Share) => t.post .hub (.slice n) (.ctl (.dispatch g))
  let add := fun (t : State) =>
    ((t.modSlice n (fun y => { y with shares := y.shares ++ [{ h with paused := x.phase == .suspended }] })).leave n h.ctx).settleShare n h.slot
  match (s.slice n).share h.slot with
  | none => if s.noRounds n x then send s h else add s
  | some g =>
    if !g.reported then send s h
    else
      let s1 := s.modSlice n (fun y => { y with shares := y.shares.filter (fun k => k.slot != h.slot) })
      add (if x.miss.isSome then send s1 { g with reported := false } else s1)

/-- A control transaction at its unit. -/
def State.control (s : State) (u : UnitId) : Control → State
  | .dispatch h => match u with
    | .slice n =>
      match s.step? h.slot with
      | some x => if x.open then s.takeShare n x h else s
      | none => s
    | _ => s
  | .contextState c => match u with
    | .slice n => if (s.slice n).bound == some c then s.loadContext n c else s
    | _ => s
  | .probe => s.report u { Report.of 16384 0 with probeAnswer := true }

/-- CTL: dispatch, context state or control from the hub (R338, R481, Table 11-10). -/
def execCtl (dst : UnitId) (s : State) : Host.Outcome State Fault Refusal :=
  match s.recvTxn .hub dst 0x08 with
  | some (.ctl c, s1) => .next (s1.control dst c)
  | _ => .next s

/-- The hub takes a report into its step: its counts, and what a station met at a tile, for which the step stops there or misses;
the slices' shares end there at once (R484; DEDUCED, assumption 123). -/
def State.takeReport (s : State) (r : Report) : State :=
  let s1 := s.modStep r.slot (fun x => x.take r)
  let s2 := match r.lost with
    | some c => (s1.failTile r.slot c.1 c.2.1 c.2.2).settleShares r.slot
    | none => s1
  let s3 := match r.miss with
    | some m => (s2.missTile r.slot m).settleShares r.slot
    | none => s2
  s3.settlePass r.slot

/-- STATUS: a unit reports progress, what it met at a tile, a share's end or its answer to a probe to the hub (R481, R484, Table
11-10). -/
def execStatus (src : UnitId) (s : State) : Host.Outcome State Fault Refusal :=
  match s.recvTxn src .hub 0x26 with
  | some (.status r, s1) =>
    if r.probeAnswer then .next (s1.modHub (fun h => { h with probed := h.probed.filter (· != src) }))
    else .next (s1.takeReport r)
  | _ => .next s

/-- The transaction types of Table 11-10 with their class. -/
def typeLegal (code : Nat) (resp : Bool) : Bool :=
  ((1 ≤ code && code ≤ 9) || (0x21 ≤ code && code ≤ 0x27)) && bitAt code 5 == resp

/-- RESERVED_TRANSACTION: a unit receives a reserved type, or a type whose class bit disagrees with the class it came
in: the transaction is discarded and event 0x900A raised (R407). -/
def execReservedTransaction (dst : UnitId) (rxClass : Bool) (hdr : BitVec 128) (s : State) : Host.Outcome State Fault Refusal :=
  let code := field hdr.toNat 0 8
  if !s.live || !s.unitUp dst || !(s.fVer dst).isOpen || typeLegal code rxClass then .next s
  else .next (s.raise 0x900A none (unitNo dst) code (field hdr.toNat 16 8))

end Sys2Proof.Machine
end

