-- ==== Sys2Proof/Machine/Dispatch.lean ====
section
/-! DEFINITION. One arm per command: a direct call of its meaning. -/
namespace Sys2Proof.Machine

/-- The meaning of a command on everything but the queue. -/
def exec (i : Instr) (s : State) : Host.Outcome State Fault Refusal :=
  match i with
  | .startInstant rom => Sys2Proof.Machine.execStartInstant rom s
  | .stackIdentityRead ms bits => Sys2Proof.Machine.execStackIdentityRead ms bits s
  | .sbReady => Sys2Proof.Machine.execSbReady s
  | .versionSample u own peer => Sys2Proof.Machine.execVersionSample u own peer s
  | .reset => Sys2Proof.Machine.execReset s
  | .supplyLoss => Sys2Proof.Machine.execSupplyLoss s
  | .thermalTrip => Sys2Proof.Machine.execThermalTrip s
  | .thermalTripClear => Sys2Proof.Machine.execThermalTripClear s
  | .opGrantChange g => Sys2Proof.Machine.execOpGrantChange g s
  | .hLockedFall => Sys2Proof.Machine.execHLockedFall s
  | .hLockedRise => Sys2Proof.Machine.execHLockedRise s
  | .tallySupplyLoss => Sys2Proof.Machine.execTallySupplyLoss s
  | .tallySupplyReturn => Sys2Proof.Machine.execTallySupplyReturn s
  | .tPortOpen => Sys2Proof.Machine.execTPortOpen s
  | .submissionDoorbell c ring count => Sys2Proof.Machine.execSubmissionDoorbell c ring count s
  | .completionDoorbell c ring count => Sys2Proof.Machine.execCompletionDoorbell c ring count s
  | .ringEnable c ring log2 seq rot => Sys2Proof.Machine.execRingEnable c ring log2 seq rot s
  | .ringDisable c ring seq rot => Sys2Proof.Machine.execRingDisable c ring seq rot s
  | .entryRead c ring n data errs => Sys2Proof.Machine.execEntryRead c ring n data errs s
  | .deliver slot => Sys2Proof.Machine.execDeliver slot s
  | .compress slot => Sys2Proof.Machine.execCompress slot s
  | .cCompress slot => Sys2Proof.Machine.execCCompress slot s
  | .cDecompress slot => Sys2Proof.Machine.execCDecompress slot s
  | .gatherMerge slot => Sys2Proof.Machine.execGatherMerge slot s
  | .scatter slot => Sys2Proof.Machine.execScatter slot s
  | .mergeOut slot => Sys2Proof.Machine.execMergeOut slot s
  | .castOn slot => Sys2Proof.Machine.execCastOn slot s
  | .rebase slot => Sys2Proof.Machine.execRebase slot s
  | .rechain slot => Sys2Proof.Machine.execRechain slot s
  | .teardown slot => Sys2Proof.Machine.execTeardown slot s
  | .resume slot => Sys2Proof.Machine.execResume slot s
  | .nop slot => Sys2Proof.Machine.execNop slot s
  | .move slot => Sys2Proof.Machine.execMove slot s
  | .atlasWrite slot => Sys2Proof.Machine.execAtlasWrite slot s
  | .share slot => Sys2Proof.Machine.execShare slot s
  | .free slot => Sys2Proof.Machine.execFree slot s
  | .frog slot => Sys2Proof.Machine.execFrog slot s
  | .demote slot => Sys2Proof.Machine.execDemote slot s
  | .promote slot => Sys2Proof.Machine.execPromote slot s
  | .gather slot => Sys2Proof.Machine.execGather slot s
  | .deliverRows slot => Sys2Proof.Machine.execDeliverRows slot s
  | .gazClear slot => Sys2Proof.Machine.execGazClear slot s
  | .send slot => Sys2Proof.Machine.execSend slot s
  | .recv slot => Sys2Proof.Machine.execRecv slot s
  | .mcast slot => Sys2Proof.Machine.execMcast slot s
  | .descriptorBatch slot role base data errs => Sys2Proof.Machine.execDescriptorBatch slot role base data errs s
  | .slotGrant sl slot role => Sys2Proof.Machine.execSlotGrant sl slot role s
  | .grant dst src => Sys2Proof.Machine.execGrant dst src s
  | .fetch ms src => Sys2Proof.Machine.execFetch ms src s
  | .mRequestIssue ms cls wr => Sys2Proof.Machine.execMRequestIssue ms cls wr s
  | .mergeCloseTimeout ms cls wr => Sys2Proof.Machine.execMergeCloseTimeout ms cls wr s
  | .mReadBeat ms id data last err => Sys2Proof.Machine.execMReadBeat ms id data last err s
  | .mWriteAck ms id => Sys2Proof.Machine.execMWriteAck ms id s
  | .nReadBeat sl id data last err => Sys2Proof.Machine.execNReadBeat sl id data last err s
  | .nWriteAck sl id => Sys2Proof.Machine.execNWriteAck sl id s
  | .cReadBeat id data last err => Sys2Proof.Machine.execCReadBeat id data last err s
  | .cWriteAck id => Sys2Proof.Machine.execCWriteAck id s
  | .write ms src => Sys2Proof.Machine.execWrite ms src s
  | .copyOnWriteDone ms => Sys2Proof.Machine.execCopyOnWriteDone ms s
  | .stitch sl src => Sys2Proof.Machine.execStitch sl src s
  | .xlate sl src => Sys2Proof.Machine.execXlate sl src s
  | .expandStart sl => Sys2Proof.Machine.execExpandStart sl s
  | .contourTileDecoded sl => Sys2Proof.Machine.execContourTileDecoded sl s
  | .pairStart sl => Sys2Proof.Machine.execPairStart sl s
  | .dBeat sl => Sys2Proof.Machine.execDBeat sl s
  | .frogMarker sl => Sys2Proof.Machine.execFrogMarker sl s
  | .dFreePush sl entry => Sys2Proof.Machine.execDFreePush sl entry s
  | .dFullPop sl => Sys2Proof.Machine.execDFullPop sl s
  | .setHard sl lanes => Sys2Proof.Machine.execSetHard sl lanes s
  | .setSoft sl lanes => Sys2Proof.Machine.execSetSoft sl lanes s
  | .rewind sl lanes => Sys2Proof.Machine.execRewind sl lanes s
  | .release sl lanes => Sys2Proof.Machine.execRelease sl lanes s
  | .aBeat sl b => Sys2Proof.Machine.execABeat sl b s
  | .aDonePop sl => Sys2Proof.Machine.execADonePop sl s
  | .tileCompressed sl => Sys2Proof.Machine.execTileCompressed sl s
  | .contourBlockCoded sl => Sys2Proof.Machine.execContourBlockCoded sl s
  | .scatterRecord sl => Sys2Proof.Machine.execScatterRecord sl s
  | .mergeOutRound sl => Sys2Proof.Machine.execMergeOutRound sl s
  | .ack dst src => Sys2Proof.Machine.execAck dst src s
  | .qpush sl src => Sys2Proof.Machine.execQpush sl src s
  | .credit dst src => Sys2Proof.Machine.execCredit dst src s
  | .nacc sl src => Sys2Proof.Machine.execNacc sl src s
  | .ndata dst src => Sys2Proof.Machine.execNdata dst src s
  | .summary sl src => Sys2Proof.Machine.execSummary sl src s
  | .atlas ms src => Sys2Proof.Machine.execAtlas ms src s
  | .ctl dst => Sys2Proof.Machine.execCtl dst s
  | .status src => Sys2Proof.Machine.execStatus src s
  | .lsend ls src => Sys2Proof.Machine.execLsend ls src s
  | .verdict dst src => Sys2Proof.Machine.execVerdict dst src s
  | .reservedTransaction dst rxClass hdr => Sys2Proof.Machine.execReservedTransaction dst rxClass hdr s
  | .stepSuspend slot => Sys2Proof.Machine.execStepSuspend slot s
  | .stepCompletion slot => Sys2Proof.Machine.execStepCompletion slot s
  | .completionRecordWrite c ring => Sys2Proof.Machine.execCompletionRecordWrite c ring s
  | .switchIdleTimeout sl => Sys2Proof.Machine.execSwitchIdleTimeout sl s
  | .quantumExpiry sl => Sys2Proof.Machine.execQuantumExpiry sl s
  | .sliceContextMove sl => Sys2Proof.Machine.execSliceContextMove sl s
  | .itemRelease c => Sys2Proof.Machine.execItemRelease c s
  | .releaseRecord c => Sys2Proof.Machine.execReleaseRecord c s
  | .releaseRingPoll c => Sys2Proof.Machine.execReleaseRingPoll c s
  | .prevSlotRelease c => Sys2Proof.Machine.execPrevSlotRelease c s
  | .sweepDone c => Sys2Proof.Machine.execSweepDone c s
  | .openUnkeyed c seq rot => Sys2Proof.Machine.execOpenUnkeyed c seq rot s
  | .openKeyed c seq rot => Sys2Proof.Machine.execOpenKeyed c seq rot s
  | .close c seq rot => Sys2Proof.Machine.execClose c seq rot s
  | .abort c seq rot => Sys2Proof.Machine.execAbort c seq rot s
  | .scrubPhase2 c => Sys2Proof.Machine.execScrubPhase2 c s
  | .scrubUnit c u => Sys2Proof.Machine.execScrubUnit c u s
  | .scrubEnd c => Sys2Proof.Machine.execScrubEnd c s
  | .loadContext c seq rot => Sys2Proof.Machine.execLoadContext c seq rot s
  | .rotate c seq rot => Sys2Proof.Machine.execRotate c seq rot s
  | .loadWeight w seq rot => Sys2Proof.Machine.execLoadWeight w seq rot s
  | .sealWeight w seq rot => Sys2Proof.Machine.execSealWeight w seq rot s
  | .zeroiseContext c seq rot => Sys2Proof.Machine.execZeroiseContext c seq rot s
  | .zeroiseWeight w seq rot => Sys2Proof.Machine.execZeroiseWeight w seq rot s
  | .measure seq rot => Sys2Proof.Machine.execMeasure seq rot s
  | .bindMaskWrite w mask seq rot => Sys2Proof.Machine.execBindMaskWrite w mask seq rot s
  | .lRxBeat ls b => Sys2Proof.Machine.execLRxBeat ls b s
  | .frameVerdict ls bad => Sys2Proof.Machine.execFrameVerdict ls bad s
  | .ingressWordRead ls => Sys2Proof.Machine.execIngressWordRead ls s
  | .dataFrame ls => Sys2Proof.Machine.execDataFrame ls s
  | .rread ls => Sys2Proof.Machine.execRread ls s
  | .rdata ls => Sys2Proof.Machine.execRdata ls s
  | .absentFrame ls => Sys2Proof.Machine.execAbsentFrame ls s
  | .creditFrame ls => Sys2Proof.Machine.execCreditFrame ls s
  | .frameSend ls => Sys2Proof.Machine.execFrameSend ls s
  | .creditTimer ls => Sys2Proof.Machine.execCreditTimer ls s
  | .dictionaryWrite frame rot => Sys2Proof.Machine.execDictionaryWrite frame rot s
  | .drain seq rot => Sys2Proof.Machine.execDrain seq rot s
  | .quiesceResume seq rot => Sys2Proof.Machine.execQuiesceResume seq rot s
  | .halt seq rot => Sys2Proof.Machine.execHalt seq rot s
  | .stationEnableWrite v seq rot => Sys2Proof.Machine.execStationEnableWrite v seq rot s
  | .linkEnableWrite v seq rot => Sys2Proof.Machine.execLinkEnableWrite v seq rot s
  | .activate seq rot => Sys2Proof.Machine.execActivate seq rot s
  | .clear seq rot => Sys2Proof.Machine.execClear seq rot s
  | .checkpointNow v seq rot => Sys2Proof.Machine.execCheckpointNow v seq rot s
  | .lifetimeCheckpoint => Sys2Proof.Machine.execLifetimeCheckpoint s
  | .lifetimeRestore v len seq rot => Sys2Proof.Machine.execLifetimeRestore v len seq rot s
  | .swatchControl seg v len seq rot => Sys2Proof.Machine.execSwatchControl seg v len seq rot s
  | .swatchDone l => Sys2Proof.Machine.execSwatchDone l s
  | .eventNext seq rot => Sys2Proof.Machine.execEventNext seq rot s
  | .fenceSlice n seq rot => Sys2Proof.Machine.execFenceSlice n seq rot s
  | .zeroiseAll v seq rot => Sys2Proof.Machine.execZeroiseAll v seq rot s
  | .frameServiceTimeout frame rot => Sys2Proof.Machine.execFrameServiceTimeout frame rot s
  | .counterTick => Sys2Proof.Machine.execCounterTick s
  | .tallyCount src => Sys2Proof.Machine.execTallyCount src s
  | .tallyOpenMessage => Sys2Proof.Machine.execTallyOpenMessage s
  | .epochEnd => Sys2Proof.Machine.execEpochEnd s
  | .tallyRequest epoch => Sys2Proof.Machine.execTallyRequest epoch s
  | .tallyRecordOffer => Sys2Proof.Machine.execTallyRecordOffer s
  | .idleEntry sl => Sys2Proof.Machine.execIdleEntry sl s
  | .dormantEntry sl => Sys2Proof.Machine.execDormantEntry sl s
  | .offEntry sl => Sys2Proof.Machine.execOffEntry sl s
  | .opRequestIdle => Sys2Proof.Machine.execOpRequestIdle s
  | .sliceWake sl cause => Sys2Proof.Machine.execSliceWake sl cause s
  | .wakeComplete sl => Sys2Proof.Machine.execWakeComplete sl s
  | .powerWindow => Sys2Proof.Machine.execPowerWindow s
  | .sramError u correctable place addr => Sys2Proof.Machine.execSramError u correctable place addr s
  | .probe => Sys2Proof.Machine.execProbe s
  | .probeTimeout u => Sys2Proof.Machine.execProbeTimeout u s

end Sys2Proof.Machine
end

