-- ==== Sys2Proof/Safety.lean ====
section
/-! DEFINITION. The terms claims are stated in: when the stores are in canonical form, when two states' stores read
alike, and how an H-port frame is answered. -/
namespace Sys2Proof.Machine

/-- The near store and every stack are in canonical form. -/
def State.storesWf (s : State) : Prop := s.near.wf = true ∧ ∀ m : Fin 12, (s.stack m).wf = true

/-- Every byte of the near store and of every stack reads in `t` as it reads in `s`. -/
def State.sameStores (s t : State) : Prop :=
  (∀ a, t.near.get a = s.near.get a) ∧ ∀ (m : Fin 12) (a : Nat), (t.stack m).get a = (s.stack m).get a

/-- The H-port shows the response to a frame: its result code and value (R435, Table 12-3); the frame's beat and its answer's count
for the energy estimate (R474). -/
def State.answered (s : State) (f : HReq) (code value : Nat) : State :=
  (s.modHub (fun h => { h with response := some (f.response code value) })).spend 8 2

end Sys2Proof.Machine
end

