-- ==== Sys2Proof/Certificates/Slice0/Obligations.lean ====
section
/-! DEFINITION. The statements for the provers, in the order of the commands: the queue and the whole machine first, then
start-up, rings, steps, stations and stores, ports, transactions, links, contexts and keys, the dictionary, counters, the
tally, power and faults. A `Claims` definition is a part of the obligation that names it. -/
section
open Sys2Proof Sys2Proof.Machine

/-! ### The queue -/

/-- A step takes the command at the front of the queue and runs it on the state with the queue's rest (the block's
form of 'a step runs the decoded instruction'). -/
def Obligations.StepRunsFront : Prop :=
  ∀ (c : Instr) (rest : List Instr) (s : State), s.pending = c :: rest → step s = exec c { s with pending := rest }

/-- On an empty queue one clk_core cycle passes (the model's choice, assumption 2): before sb_ready and after a hub
failure nothing happens; while the block serves, the hub notes which steps have become ready (R273, R280), every station's
class credits grow by s(k) / 320 × q up to 4,096 B (R285), and apart from the energy estimate and the cycle count nothing else
changes. -/
def Sys2Proof.Claims.IdleCycle : Prop :=
  (∀ s : State, s.pending = [] → s.phase ≠ .ready → step s = .next s) ∧
  (∀ s : State, s.pending = [] → s.phase = .ready → ∃ e : Nat, step s = .next
    { s.findReady with
      now := s.now + 1
      hub := { s.findReady.hub with energy := e }
      stations := s.stations.map (fun m => m.gain s.hub.dict.tensionSplit.toNat s.pins.opGrant.toNat) }) ∧
  (∀ s : State, s.findReady.net = s.net ∧ s.findReady.slices = s.slices ∧ s.findReady.stations = s.stations ∧
    s.findReady.links = s.links ∧ s.findReady.pins = s.pins ∧ s.findReady.tally = s.tally ∧ s.sameStores s.findReady ∧
    s.findReady.hub.dict = s.hub.dict ∧
    (∀ k, (s.findReady.step? k).map (fun x => { x with readyAt := none }) = (s.step? k).map (fun x => { x with readyAt := none })))

/-- R285 and R286 on one station: a cycle adds to each class its share of q in 1/15360 byte, and never leaves more than
4,096 B; with the split of the ROM the shares are 192, 80 and 48 of 320 (R284). -/
def Sys2Proof.Claims.CreditGain : Prop :=
  ∀ (m : Station) (split grant : Nat),
    let q := serviceRate48 m.rate grant
    let t := m.gain split grant
    t.creditRead = min (m.creditRead + Int.ofNat ((shares split).1 * q)) (4096 * 15360) ∧
    t.creditWrite = min (m.creditWrite + Int.ofNat ((shares split).2.1 * q)) (4096 * 15360) ∧
    t.creditRemote = min (m.creditRemote + Int.ofNat ((shares split).2.2 * q)) (4096 * 15360) ∧
    (split < 2 ^ 31 → shares split = (192, 80, 48)) ∧ q ≤ 48 * 1280 ∧
    t = { m with creditRead := t.creditRead, creditWrite := t.creditWrite, creditRemote := t.creditRemote }

/-- An idle cycle, and what it adds to a station's credits (R284, R285). -/
def Obligations.IdleCycle : Prop := Claims.IdleCycle ∧ Claims.CreditGain


/-! ### Whole-machine rules -/

/-- Right after reset the near store and every stack are in canonical form. -/
def Obligations.ResetStoresCanonical : Prop := State.reset.storesWf

/-- Every step keeps the near store and every stack in canonical form: addresses strictly rising and no byte listed that
an unlisted address reads as (assumption 8). -/
def Obligations.StepKeepsStores : Prop :=
  ∀ s t : State, s.storesWf → step s = .next t → t.storesWf

/-- No command reorders, drops or adds to the commands still to come, and none lets clk_core cycles pass (first in,
first out: assumption 2). -/
def Sys2Proof.Claims.CommandsKeepQueueAndClock : Prop :=
  ∀ (c : Instr) (s t : State), exec c s = .next t → t.pending = s.pending ∧ t.now = s.now

/-- Commands that the tally's own supply, port or messages bring. -/
def Sys2Proof.tallyRow : Instr → Bool
  | .tallyCount .. | .tallyOpenMessage | .epochEnd | .tallyRequest .. | .tallyRecordOffer | .tPortOpen | .tallySupplyLoss
  | .tallySupplyReturn => true
  | _ => false

/-- R505: when the tally supply falls the tally's state is lost; when it returns, epochs restart at 0 with first set and
a zero previous-record hash; and no other command, sb_reset, the block's supplies and hub failures among them, changes
anything in the tally but the flags of Table 14-10 (counts on their way that never arrive are not in the tally). -/
def Obligations.TallyOutlivesBlock : Prop :=
  (∀ s : State, exec .tallySupplyLoss s = .next { s with pins := { s.pins with tallySupply := false }, tally := Tally.reset }) ∧
  (∀ s : State, s.pins.tallySupply = false → ∃ t, exec .tallySupplyReturn s = .next t ∧
    t = { s with pins := { s.pins with tallySupply := true }, tally := t.tally } ∧
    t.tally.epoch = 0 ∧ t.tally.first = true ∧ t.tally.prevHash = zeros 48) ∧
  (∀ (c : Instr) (s t : State), tallyRow c = false → exec c s = .next t →
    t.tally = { s.tally with resetSeen := t.tally.resetSeen, supplyLost := t.tally.supplyLost, notReady := t.tally.notReady })

/-- Commands at which a slice's whole state is set anew. -/
def Sys2Proof.restartRow : Instr → Bool
  | .startInstant .. | .reset | .supplyLoss => true
  | _ => false

/-- A fenced or fused-off slice stays so: no command but a start instant, a reset or a supply loss changes its power
state (Table 12-15, Table 13-3, R483). -/
def Obligations.DeadSliceStaysDead : Prop :=
  ∀ (c : Instr) (s t : State) (n : Fin 132), restartRow c = false → (s.slice n).alive = false → exec c s = .next t →
    (t.slice n).power = (s.slice n).power

/-- Where the block is between reset and service changes only by START_INSTANT, SB_READY, RESET and SUPPLY_LOSS, or to a
failed hub (R460, R461, R463, R490); and what the hub read from the identity ROM changes by START_INSTANT, RESET and
SUPPLY_LOSS only. -/
def Sys2Proof.Claims.PhaseAndIdentity : Prop :=
  ∀ (c : Instr) (s t : State), restartRow c = false → exec c s = .next t →
    t.ident = s.ident ∧ (t.phase = s.phase ∨ t.phase = .hubFailed ∨ (c = .sbReady ∧ s.phase = .starting ∧ t.phase = .ready))

/-- An input pin takes a new value only from the command that stands for its edge: sb_supply_valid, the tally supply,
sb_thermal_trip, h_locked and sb_op_grant (Tables 11-17 and 11-19). -/
def Sys2Proof.Claims.InputPinsHold : Prop :=
  ∀ (c : Instr) (s t : State), restartRow c = false → exec c s = .next t →
    t.pins.supplyValid = s.pins.supplyValid ∧
    (c ≠ .tallySupplyLoss → c ≠ .tallySupplyReturn → t.pins.tallySupply = s.pins.tallySupply) ∧
    (c ≠ .thermalTrip → c ≠ .thermalTripClear → t.pins.thermal = s.pins.thermal) ∧
    (c ≠ .hLockedFall → c ≠ .hLockedRise → t.pins.hLocked = s.pins.hLocked) ∧
    ((∀ g, c ≠ .opGrantChange g) → t.pins.opGrant = s.pins.opGrant)

/-- What only start-up, resets and pin events change (R460 to R463, R490; Tables 11-17 and 11-19). -/
def Obligations.PhaseIdentityAndPins : Prop := Claims.PhaseAndIdentity ∧ Claims.InputPinsHold


/-- Free values are drawn in order and none is drawn twice (the model's own counter, assumption 3). -/
def Sys2Proof.Claims.FreeValuesInOrder : Prop :=
  ∀ (c : Instr) (s t : State), exec c s = .next t → s.freeCtr ≤ t.freeCtr

/-- What no command touches: the commands still to come, the cycle count, and free values already drawn (assumptions 2, 3). -/
def Obligations.QueueClockAndFreeValues : Prop := Claims.CommandsKeepQueueAndClock ∧ Claims.FreeValuesInOrder


/-! ### Start-up, reset, pins (R30, R344, R383, R384, R390, R428, R429, R455 to R463, R498) -/

/-- START_INSTANT with sb_reset low: the identity is read from the ROM, the enables take the identity's values (Table
12-9), the operating point requested is 2 (R455), and slices are mapped as R30 says: an unfused logical slice to the
physical slice of its number, the k-th fused one to the k-th unfused spare, or to none when no spare remains. Mapped
slices are ACTIVE and unmapped spares OFF (R462). The engine's memory and the tally stay. -/
def Obligations.StartInstantMapsSlices : Prop :=
  ∀ (rom : List (BitVec 32)) (s : State), s.phase = .held → nearLog2Ok (field (romWord rom 7) 0 8) = true →
    ∃ t, exec (.startInstant rom) s = .next t ∧ t.phase = .starting ∧ t.pins.opReq = 2 ∧ t.ident = identityOf rom 0 ∧
      t.hub.dict.stationEnable = BitVec.ofNat 16 t.ident.stations.toNat ∧ t.hub.dict.linkEnable = t.ident.links ∧
      (∀ l : Fin 128, bitAt t.ident.fused.toNat l.1 = false → t.hub.map[l.1] = some (l.castLE (by decide))) ∧
      (∀ l : Fin 128, bitAt t.ident.fused.toNat l.1 = true →
        t.hub.map[l.1] = (unfusedSpares t.ident.fused.toNat)[((allFin 128).filter (fun k => k.1 < l.1 && bitAt t.ident.fused.toNat k.1)).length]?) ∧
      t.hub.spares = (unfusedSpares t.ident.fused.toNat).drop ((allFin 128).filter (fun k => bitAt t.ident.fused.toNat k.1)).length ∧
      (∀ n : Fin 132, (t.slice n).power = startPower t.ident.fused.toNat t.hub.map n) ∧
      (∀ m : Fin 12, (t.station m).present = bitAt t.ident.stations.toNat m.1) ∧
      (∀ l : Fin 16, (t.link l).present = bitAt t.ident.links.toNat l.1) ∧
      s.sameStores t ∧ t.tally = s.tally ∧ t.ctxs = s.ctxs

/-- STACK_IDENTITY_READ of a present station with a good profile and identity: capacity and rate are taken from their
fields (R390, R391); any other identity leaves the station failed. The wrapper serial port is driven as R390 says: four cycles of
reset, the instruction of ROM word 9 shifted in from bit 0, an update, a capture, the identity shifted out and an update. -/
def Obligations.StackIdentity : Prop :=
  ∀ (ms : Fin 12) (bits : Nat) (s : State), s.phase = .starting → (s.station ms).present = true →
    (s.station ms).idValid = false → (s.station ms).failed = false →
    let v := bits % 2 ^ s.ident.idLen
    let cap := field v s.ident.capPos s.ident.capWidth
    let rate := field v s.ident.ratePos s.ident.rateWidth
    (s.ident.profileOk = true → rate * s.ident.rateScale ≠ 0 → cap ≠ 2 ^ s.ident.capWidth - 1 →
      exec (.stackIdentityRead ms bits) s = .next (s.modStation ms (fun m =>
        { m with idValid := true, capacityLog2 := Nat.min cap 8, rate := rate * s.ident.rateScale, identity := BitVec.ofNat 1024 v
                 wrapper := wrapperCycles s.ident }))) ∧
    (s.ident.profileOk = false ∨ rate * s.ident.rateScale = 0 ∨ cap = 2 ^ s.ident.capWidth - 1 →
      exec (.stackIdentityRead ms bits) s = .next
        (((s.modStation ms (fun m => { m with identity := BitVec.ofNat 1024 v, wrapper := wrapperCycles s.ident })).raise 0x9009 none
          (0x90 + ms.1) cap rate).failStation ms)) ∧
    (wrapperCycles s.ident).length = s.ident.wirLen + s.ident.idLen + 7 ∧
    (wrapperCycles s.ident).filterMap (·.wsi) = (List.range s.ident.wirLen).map (bitAt s.ident.wirInstruction.toNat) ∧
    ((wrapperCycles s.ident).map (·.wrst)).count true = 4

/-- SB_READY with every present station's identity read: the block serves, sb_ready is high, the first measurement hashes
the measured bytes (R376, R461), and slices, stations, contexts, memory and the tally are as they were. -/
def Obligations.SbReadyMeasures : Prop :=
  ∀ s : State, s.phase = .starting → (∀ m : Fin 12, (s.station m).present = true → (s.station m).idValid = true) →
    ∃ t, exec .sbReady s = .next t ∧ t.phase = .ready ∧ t.pins.ready = true ∧ t.hub.measurement = sha384 (measuredBytes s.hub) ∧
      t.hub.measureSeq = s.hub.measureSeq + 1 ∧ t.hub.stale = false ∧ t.slices = s.slices ∧ t.stations = s.stations ∧
      t.links = s.links ∧ t.ctxs = s.ctxs ∧ t.tally = s.tally ∧ s.sameStores t ∧
      t.hub.counters.events = (if s.usable.length < 128 then bump 0x9011 1 s.hub.counters.events else s.hub.counters.events)

/-- VERSION_SAMPLE of a port that has not been sampled: it opens at the lower of 3 and the partner's version, or, below 2, is
disabled, with event 0x9008, and its unit fails; a disabled C-port leaves the hub running, and one that opens sends the requests
that waited for it (R382 to R384). -/
def Obligations.VersionAgreed : Prop :=
  ∀ (u : UnitId) (own : Bool) (peer : BitVec 4) (letter : Nat) (s : State), s.phase = .ready →
    s.portOf u own = some (.waiting, letter) →
    (2 ≤ peer.toNat → (u = .hub → own = false) →
      exec (.versionSample u own peer) s = .next (s.setPort u own (.agreed (min 3 peer.toNat)))) ∧
    (2 ≤ peer.toNat → u = .hub → own = true → exec (.versionSample u own peer) s = .next
      (s.hub.cOut.foldl (fun t _ => t.cIssue) (s.setPort u own (.agreed (min 3 peer.toNat))))) ∧
    (peer.toNat < 2 → (u = .hub → own = false) → exec (.versionSample u own peer) s = .next
      (((s.setPort u own .disabled).raise 0x9008 none (unitNo u) letter peer.toNat).failUnit u)) ∧
    (peer.toNat < 2 → u = .hub → own = true → exec (.versionSample u own peer) s = .next
      ((s.setPort u own .disabled).raise 0x9008 none (unitNo u) letter peer.toNat))

/-- RESET and SUPPLY_LOSS: sb_ready drops, and every domain but the tally's, keys included, is in its reset state (R463);
the engine's memory, the mirrored tally values and the tally's figures stay, and the tally's epoch takes its flags (R505,
Table 14-10). -/
def Obligations.ResetLosesState : Prop :=
  ∀ s : State, (∃ t, exec .reset s = .next t ∧ t.phase = .held ∧ t.pins.ready = false ∧ t.ctxs = State.reset.ctxs ∧
      t.slices = State.reset.slices ∧ t.stations = State.reset.stations ∧ t.links = State.reset.links ∧ t.net = [] ∧
      t.hub = { Hub.reset with mirrorEpoch := s.hub.mirrorEpoch, mirrorRecord := s.hub.mirrorRecord } ∧ s.sameStores t ∧
      t.tally = { s.tally with resetSeen := true, notReady := true }) ∧
    (∃ t, exec .supplyLoss s = .next t ∧ t.phase = .held ∧ t.pins.ready = false ∧ t.pins.supplyValid = false ∧
      t.ctxs = State.reset.ctxs ∧ t.slices = State.reset.slices ∧ t.stations = State.reset.stations ∧
      t.links = State.reset.links ∧ t.net = [] ∧
      t.hub = { Hub.reset with mirrorEpoch := s.hub.mirrorEpoch, mirrorRecord := s.hub.mirrorRecord } ∧ s.sameStores t ∧
      t.tally = { s.tally with supplyLost := true, notReady := true })

/-- R498: each rising edge of sb_thermal_trip, from the start instant on, is counted and raises event 0x9015, and while it is high
the governor requests the lowest operating point; the block takes no other action. The level's fall lets the governor request its
normal point. -/
def Obligations.ThermalTrip : Prop :=
  (∀ s : State, s.phase = .ready ∨ s.phase = .starting → s.pins.thermal = false →
    exec .thermalTrip s = .next
      (({ s with pins := { s.pins with thermal := true, opReq := 2 } } : State).count
        (fun c => { c with thermalTrips := c.thermalTrips + 1 })
        |>.raise 0x9015 none 0xC0 0 0)) ∧
  (∀ s : State, s.pins.thermal = true → exec .thermalTrip s = .next s) ∧
  (∀ (c : Instr) (s t : State), restartRow c = false → c ≠ .thermalTripClear → s.pins.thermal = true → s.pins.opReq = 2 →
    exec c s = .next t → t.pins.thermal = true ∧ t.pins.opReq = 2) ∧
  (∀ s : State, s.phase = .ready → exec .thermalTripClear s = .next
    { s with pins := { s.pins with
        thermal := false
        opReq := if s.hub.opIdle then 2 else BitVec.ofNat 2 s.hub.dict.opPointMax.toNat } })

/-- OP_GRANT_CHANGE: the granted point is taken and event 0x9018 raised with the new and the old point (R456, R459).
OP_REQUEST_IDLE: with no step unfinished the governor requests the lowest point (R458). -/
def Obligations.OperatingPoint : Prop :=
  (∀ (g : BitVec 2) (s : State), s.phase = .ready ∨ s.phase = .starting → g ≠ s.pins.opGrant → exec (.opGrantChange g) s = .next
    (({ s with pins := { s.pins with opGrant := g } } : State).raise 0x9018 none 0xC0 g.toNat s.pins.opGrant.toNat)) ∧
  (∀ s : State, s.phase = .ready → (∀ x ∈ s.hub.steps, x.open = false) → exec .opRequestIdle s = .next
    { s with pins := { s.pins with opReq := 2 }, hub := { s.hub with opIdle := true } })

/-- H_LOCKED_FALL: keyed contexts are aborted; after it every context key slot and every weight slot is EMPTY with a zero
key, and no atlas key is held (R344). H_LOCKED_RISE only brings the synchronised value up. -/
def Obligations.LockFallZeroises : Prop :=
  (∀ s : State, s.phase = .ready → s.pins.hLocked = true → ∃ t, exec .hLockedFall s = .next t ∧ t.pins.hLocked = false ∧
    t = ((({ s with pins := { s.pins with hLocked := false } } : State).abortKeyed 0x01).zeroAllKeys).raise 0x9019 none 0xC0 0 0 ∧
    (∀ c : Fin 64, (t.ctx c).cur = KeySlot.empty ∧ (t.ctx c).prev = KeySlot.empty ∧ (t.ctx c).atlasKey = none) ∧
    (∀ w : Fin 16, (t.hub.weights[w.1]).state = .empty ∧ (t.hub.weights[w.1]).key = 0)) ∧
  (∀ s : State, exec .hLockedRise s = .next { s with pins := { s.pins with hLocked := true } })

/-! ### Rings and doorbells (R263, R264, R265, R336, R509) -/

/-- R263: with the C-port open, a submission doorbell sets the ring's tail exactly when the ring is enabled, its context is
OPEN, the count does not move backward and the entries between it and sq_head fit the ring; a completion doorbell sets
the consumed count exactly when its ring is in use, its context is OPEN or CLOSING, the count does not move backward and
cq_tail − consumed fits the ring. Otherwise the doorbell is ignored and the doorbell-refused event is raised. That a FREE context
accepts none is the model's choice (assumption 93): R336 names CLOSING and SCRUBBING. -/
def Obligations.Doorbells : Prop :=
  ∀ (c : Fin 64) (ring : Fin 4) (count : BitVec 32) (s : State), s.cOpen = true →
    let k := s.ring c ring
    let sub : Prop := k.enabled = true ∧ (s.ctx c).state = .opened ∧ (count - k.tail).toNat < 2 ^ 31 ∧
      (count - k.sqHead).toNat ≤ 2 ^ k.liveSqLog2.toNat
    let cpl : Prop := s.cqInUse c ring = true ∧ ((s.ctx c).state = .opened ∨ (s.ctx c).state = .closing) ∧
      (count - k.consumed).toNat < 2 ^ 31 ∧ (k.cqTail - count).toNat ≤ k.cqEntries
    (sub → exec (.submissionDoorbell c ring count) s = .next (s.modRing c ring (fun q => { q with tail := count }))) ∧
    (¬sub → exec (.submissionDoorbell c ring count) s = .next (s.raise 0x9003 (some c) 0xC0 count.toNat ring.1)) ∧
    (cpl → exec (.completionDoorbell c ring count) s = .next (s.modRing c ring (fun q => { q with consumed := count }))) ∧
    (¬cpl → exec (.completionDoorbell c ring count) s = .next (s.raise 0x9003 (some c) 0xC0 count.toNat (ring.1 + 4)))

/-- R509: an accepted write that takes sq_log2 from 0 to a nonzero value enables the ring: base and size registers are taken
as they stand, sq_head, the tail, cq_tail, the consumed count and the pattern count are 0; a nonzero write to an enabled
ring changes the register alone; an accepted write of 0 disables the ring, whose burst of entries on its way is not taken, and leaves the
paired completion ring's values.
Memory, the tally and every other context are as they were. -/
def Obligations.RingEnabling : Prop :=
  ∀ (c : Fin 64) (ring : Fin 4) (log2 seq : BitVec 8) (rot : Bool) (s : State), s.phase = .ready →
    let on := writeFrame seq (0x3100 + c.1) (5 + ring.1) 1 log2.toNat
    let off := writeFrame seq (0x3100 + c.1) (5 + ring.1) 1 0
    let k := s.ring c ring
    (s.judge on rot = 0x40 → log2 ≠ 0 → k.sqLog2 = 0 → ∃ t, exec (.ringEnable c ring log2 seq rot) s = .next t ∧
      t.ring c ring =
        { k with
          sqLog2 := log2, liveSqBase := k.sqBase, liveSqLog2 := log2, liveCqBase := k.cqBase, liveCqLog2 := k.cqLog2, sqHead := 0
          cqTail := 0, tail := 0, consumed := 0, patterns := 0, enabled := true, inUse := true
          expect := { left := 0, index := 0, seqNo := 0, serial := false } } ∧
      t.hub.response = some (on.response 0x40 0) ∧ (∀ d, d ≠ c → t.ctx d = s.ctx d) ∧ t.tally = s.tally ∧ s.sameStores t) ∧
    (s.judge on rot = 0x40 → log2 ≠ 0 → k.sqLog2 ≠ 0 → exec (.ringEnable c ring log2 seq rot) s = .next
      ((s.modRing c ring (fun q => { q with sqLog2 := log2 })).answered on 0x40 0)) ∧
    (s.judge off rot = 0x40 → exec (.ringDisable c ring seq rot) s = .next
      (((s.dropBurst c ring).modRing c ring (fun q => { q with sqLog2 := 0, enabled := false })).answered off 0x40 0)) ∧
    (s.dropBurst c ring).ring c ring = { k with burst := none } ∧ (∀ q ∈ (s.dropBurst c ring).hub.cOut, q.purpose ≠ .entries c ring) ∧
    (s.dropBurst c ring).hub.cOut.length = s.hub.cOut.length

/-- ENTRY_READ of n entries (R264, R394, R511): a burst the hub may read is asked for over the C-port and the turn passes to the
next ring; when all of it has come, each entry is taken in order as R266 and R267 say, and the block settles; while it has not
come, and where no burst may be read, nothing happens. The bytes are those of the beats, whatever the row's data say (assumption 94). -/
def Sys2Proof.Claims.EntryBurst : Prop :=
  (∀ (c : Fin 64) (ring : Fin 4) (n : Nat) (data : Bytes) (errs : List Nat) (s : State), (s.ring c ring).burst = none →
    (s.mayRead c ring n = true → ∃ t, exec (.entryRead c ring n data errs) s = .next t ∧
      t.ring c ring = { s.ring c ring with burst := some { count := n, data := none } } ∧ (t.ctx c).turn = ring + 1 ∧
      (∀ q ∈ t.hub.cOut.drop s.hub.cOut.length, q.wr = false ∧ q.purpose = .entries c ring) ∧
      t.hub.cOut.take s.hub.cOut.length = s.hub.cOut ∧ t.hub.steps = s.hub.steps ∧ s.sameStores t) ∧
    (s.mayRead c ring n = false → exec (.entryRead c ring n data errs) s = .next s)) ∧
  (∀ (c : Fin 64) (ring : Fin 4) (n : Nat) (data : Bytes) (errs : List Nat) (b : Burst) (s : State), (s.ring c ring).burst = some b →
    (∀ d, b.data = some d → b.count = n → s.cOpen = true → (s.ctx c).state = .opened → exec (.entryRead c ring n data errs) s = .next
      (((List.range n).foldl (fun t i => t.readEntryAt c ring (cut d.1 (128 * i) 128) (d.2.contains i))
        (s.modRing c ring (fun k => { k with burst := none }))).settle)) ∧
    (b.data = none → exec (.entryRead c ring n data errs) s = .next s))

/-- R266, R267: where no pattern is under way, an entry that is a readable pattern header begins the ring's next pattern of
steps_m1 + 1 steps, numbered by the pattern count, and enters no step. -/
def Sys2Proof.Claims.PatternHeader : Prop :=
  ∀ (c : Fin 64) (ring : Fin 4) (bs : Bytes) (s : State), (s.ring c ring).expect.left = 0 → wordField bs 0 56 8 = 0 →
    s.readEntryAt c ring bs false = s.modRing c ring (fun q =>
      { q with
        sqHead := q.sqHead + 1, patterns := q.patterns + 1
        expect := { left := wordField bs 0 40 8 + 1, index := 0, seqNo := (s.ring c ring).patterns, serial := wordBit bs 0 39 } })

/-- A burst of submission entries and the pattern headers in it (R264, R266, R267). -/
def Obligations.EntriesAreRead : Prop := Claims.EntryBurst ∧ Claims.PatternHeader


/-- R265, R287: a completion record that has room is written to the ring's next entries and cq_tail moves past them; the
context leaves CLOSING when it was the last (Table 10-2). STEP_COMPLETION of a finished step that does not suspend
completes it with the status that R288 ranks first, once the result tables and skip record it has to write are out.
STEP_SUSPEND of a finished step whose miss no condition outranks suspends it under the next serial (R316 to R318). -/
def Obligations.StepEnds : Prop :=
  (∀ (c : Fin 64) (ring : Fin 4) (w : CompRecord) (ws : List CompRecord) (s : State), s.cOpen = true →
    (s.ring c ring).writable = some (w, ws) →
    exec (.completionRecordWrite c ring) s = .next ((s.putRecord c ring w ws).settleClosing c)) ∧
  (∀ (slot : Nat) (x : Step) (s : State), s.phase = .ready → s.step? slot = some x → x.finished = true → x.suspends = false →
    x.target = none →
    ((x.resultsOut = true ∨ (x.gatherResults = [] ∧ s.skipRecord x = [])) → exec (.stepCompletion slot) s = .next
      ((s.closeLost x).complete (x.resumedBy.getD slot) (bestCond x.allConds).status (bestCond x.allConds).cause (bestCond x.allConds).tile)) ∧
    (x.setLost = false → s.closeLost x = s) ∧
    (x.resultsOut = false → (x.gatherResults ≠ [] ∨ s.skipRecord x ≠ []) → exec (.stepCompletion slot) s = .next (s.putResults x))) ∧
  (∀ (slot : Nat) (x : Step) (m : Miss) (s : State), s.phase = .ready → s.step? slot = some x → x.miss = some m →
    x.finished = true → x.suspends = true → x.parent = none →
    exec (.stepSuspend slot) s = .next (s.suspendStep x m) ∧
      (x.resumedBy = none → (s.suspendStep x m).hub.suspensions = s.hub.suspensions + 1))

/-! ### Steps (R226 to R240, R273 to R282, R302 to R309, R316 to R322, R326, R327; Table 08-6) -/

/-- The step rows: the slot a row names and the steps it is for. -/
def Sys2Proof.stepRow : Instr → Option (Nat × (Step → Bool))
  | .deliver k => some (k, isOp .deliver) | .compress k => some (k, isOp .compress) | .cCompress k => some (k, isOp .cCompress)
  | .cDecompress k => some (k, isOp .cDecompress) | .gatherMerge k => some (k, isOp .gatherMerge) | .scatter k => some (k, isOp .scatter)
  | .mergeOut k => some (k, isOp .mergeOut) | .castOn k => some (k, isOp .castOn)
  | .rebase k => some (k, fun x => isOp .recast x && !isRechain x) | .rechain k => some (k, fun x => isOp .recast x && isRechain x)
  | .teardown k => some (k, isOp .teardown) | .resume k => some (k, isOp .resume) | .nop k => some (k, isOp .nop)
  | .move k => some (k, isOp .move) | .atlasWrite k => some (k, isOp .atlasWrite) | .share k => some (k, isOp .share)
  | .free k => some (k, isOp .free) | .frog k => some (k, isOp .frog) | .demote k => some (k, isOp .demote)
  | .promote k => some (k, isOp .promote) | .gather k => some (k, isOp .gather) | .deliverRows k => some (k, isOp .deliverRows)
  | .gazClear k => some (k, isOp .gazClear) | .send k => some (k, isOp .send) | .recv k => some (k, isOp .recv)
  | .mcast k => some (k, isOp .mcast)
  | _ => none

/-- A step that passes every check of Table 08-6, that no other ready step of its context comes before, and that the hub may
dispatch is dispatched: `go` runs on the state that has noted when it became ready, with the slices it takes. -/
def Sys2Proof.DispatchesAs (row : Nat → Instr) (mine : Step → Bool) (go : State → Step → List Nat → State) : Prop :=
  ∀ (slot : Nat) (x : Step) (ls : List Nat) (s : State), s.step? slot = some x → mine x = true → s.eligible x = true →
    s.behind x = false → s.verdict x = .go → s.dispatches x = true →
    (if (x.op.getD .nop).noSlice then ls = [] else s.pickSlices x = some ls ∧ s.outranked x ls = false) →
    exec (row slot) s = .next (go (s.makeReady x) x ls)

/-- R273, R278: the steps whose slices get shares at once are dispatched to the slices they take. -/
def Sys2Proof.Claims.ShareStepsDispatch : Prop :=
  DispatchesAs .deliver (isOp .deliver) State.dispatch ∧ DispatchesAs .compress (isOp .compress) State.dispatch ∧
  DispatchesAs .cCompress (isOp .cCompress) State.dispatch ∧ DispatchesAs .cDecompress (isOp .cDecompress) State.dispatch ∧
  DispatchesAs .gatherMerge (isOp .gatherMerge) State.dispatch ∧ DispatchesAs .scatter (isOp .scatter) State.dispatch ∧
  DispatchesAs .mergeOut (isOp .mergeOut) State.dispatch ∧ DispatchesAs .move (isOp .move) State.dispatch ∧
  DispatchesAs .recv (isOp .recv) State.dispatch

/-- What the dispatch of a step does to the step table, the contexts' keys and memory: the step is dispatched with its
slices, the read epoch of the moment and the time it became ready (R278, R309); no other step changes its phase, no key
slot and no byte of a store changes. -/
def Obligations.DispatchMarksStep : Prop :=
  ∀ (x : Step) (ls : List Nat) (s : State), s.step? x.slot = some x →
    (∃ y, (s.dispatch x ls).step? x.slot = some y ∧ y.phase = .dispatched ∧ y.slices = ls ∧
      y.epoch = some s.hub.readEpoch.toNat ∧ y.readyAt = some (x.readyAt.getD s.now)) ∧
    (∀ k, k ≠ x.slot → ((s.dispatch x ls).step? k).map (·.phase) = (s.step? k).map (·.phase)) ∧
    (∀ c : Fin 64, ((s.dispatch x ls).ctx c).cur = (s.ctx c).cur ∧ ((s.dispatch x ls).ctx c).prev = (s.ctx c).prev) ∧
    s.sameStores (s.dispatch x ls)

/-- R319 to R322, R327, R415, R421: DELIVER_ROWS reads its bitmaps, GATHER its length table and page lists, SEND and MCAST
open their receivers, and then their slices get their shares. -/
def Sys2Proof.Claims.PreparedStepsDispatch : Prop :=
  DispatchesAs .deliverRows (isOp .deliverRows) State.goRows ∧ DispatchesAs .gather (isOp .gather) State.goGather ∧
  DispatchesAs .send (isOp .send) State.goSend ∧ DispatchesAs .mcast (isOp .mcast) State.goSend ∧
  (∀ (x : Step) (ls : List Nat) (s : State), ((s.gatherChain x).1.failed = false ∨ (s.gatherChain x).1.extents ≠ []) →
    s.gatherNeed x = none → sumNat (s.gatherChain x).2 = 0 → s.goGather x ls = s.complete x.slot 0x01 0 none)

/-- R236 to R240, Table 07-2: CAST_ON arms the persistent stream with the word, chain, mask, depth and slices of the step;
REBASE replaces the stream's offset, RECHAIN its chain, each with the mask the step names; TEARDOWN leaves it FREE. -/
def Obligations.StreamStepsDispatch : Prop :=
  DispatchesAs .castOn (isOp .castOn) State.goCastOn ∧
  DispatchesAs .rebase (fun x => isOp .recast x && !isRechain x) State.goRebase ∧
  DispatchesAs .rechain (fun x => isOp .recast x && isRechain x) State.goRechain ∧
  DispatchesAs .teardown (isOp .teardown) State.goTeardown ∧
  (∀ (x : Step) (ls : List Nat) (ch : Chain) (s : State), x.op = some .castOn → s.maskedChain x .src = some ch →
    (s.goCastOn x ls).stream x =
      { state := .armed, compress := wordBit x.words 6 0, word := streamWord x.words 4, chain := ch, mask := maskWord x.words 5
        depth := roundDepth .castOn x.words, slices := ls, weightKey := x.head.weightKey, weightSlot := x.head.weightSlot
        passSlots := [] }) ∧
  (∀ (x : Step) (s : State), (s.goRebase x []).stream x =
    PStream.remask { s.stream x with chain := ((s.stream x).chain.rebased (recastOffset x)).getD (s.stream x).chain } x) ∧
  (∀ (x : Step) (s : State), (s.goRechain x []).stream x =
    PStream.remask { s.stream x with chain := (s.chainOf x .src).getD (s.stream x).chain } x) ∧
  (∀ (x : Step) (s : State), (s.goTeardown x []).stream x = PStream.free)

/-- R275, R302 to R306, R326, R331 to R333, R276: NOP has nothing to do but to be dispatched; the atlas and page steps run
their items in order from position 0; GAZ_CLEAR posts its clearing writes; RESUME continues the step its token names. -/
def Sys2Proof.Claims.AtlasStepsDispatch : Prop :=
  DispatchesAs .nop (isOp .nop) (fun s x _ => s.markDispatched x []) ∧
  DispatchesAs .atlasWrite (isOp .atlasWrite) State.goAtlas ∧ DispatchesAs .share (isOp .share) State.goAtlas ∧
  DispatchesAs .free (isOp .free) State.goAtlas ∧ DispatchesAs .frog (isOp .frog) State.goAtlas ∧
  DispatchesAs .demote (isOp .demote) State.goPages ∧ DispatchesAs .promote (isOp .promote) State.goPages ∧
  DispatchesAs .gazClear (isOp .gazClear) (fun s x _ => (s.markDispatched x []).clearEntries x) ∧
  DispatchesAs .resume (isOp .resume) State.goResume ∧
  (∀ (x : Step) (s : State), s.step? x.slot = some x → x.runsItems = true → ∃ y, (s.markDispatched x []).step? x.slot = some y ∧
    s.goAtlas x [] = ((s.markDispatched x []).modStep x.slot (fun z => { z with toDo := 1 })).runAtlas { y with toDo := 1 }) ∧
  (∀ (x : Step) (s : State), (x.op = some .atlasWrite → s.runAtlas x = s.runFrom x (wordField x.words 5 0 32) (State.atlasImage x)) ∧
    (x.op = some .share → s.runAtlas x = s.runFrom x (wordField x.words 6 0 32) (State.sharePage x)) ∧
    (x.op = some .free → s.runAtlas x = s.runFrom x (wordField x.words 5 0 32) (State.freePage x)) ∧
    (x.op = some .frog → s.runAtlas x = s.runFrom x (wordField x.words 5 0 32) (State.frogPage x)) ∧
    (x.op = some .demote → s.runAtlas x = s.runFrom x (wordField x.words 5 0 32) (State.demotePage x)) ∧
    (x.op = some .promote → s.runAtlas x = s.runFrom x (wordField x.words 5 0 32) (State.promotePage x)))

/-- The dispatch of every step but the persistent streams' own (R273, R278; Tables 08-5, 09-6, 11-15). -/
def Obligations.StepsDispatch : Prop := Claims.ShareStepsDispatch ∧ Claims.PreparedStepsDispatch ∧ Claims.AtlasStepsDispatch


/-- Table 08-6, R14: for every step row, a step that a check refuses completes with the check's status and cause; a held one
only asks for the tables and mask descriptors its checks wait for; a ready one that the hub does not dispatch yet is noted as
ready; and a row that names no held step of its opcode does nothing (the model's choice, assumption 1), nor one behind an earlier step that
names the same thing (R277). -/
def Sys2Proof.Claims.RefusedAndHeldSteps : Prop :=
  ∀ (c : Instr) (slot : Nat) (mine : Step → Bool) (s : State), stepRow c = some (slot, mine) →
    (∀ (x : Step) (st cause : Nat), s.step? slot = some x → mine x = true → s.eligible x = true → s.behind x = false →
      s.verdict x = .refuse st cause →
      exec c s = .next (s.complete slot st cause none)) ∧
    (∀ x : Step, s.step? slot = some x → mine x = true → s.eligible x = true → s.behind x = false → s.verdict x = .hold →
      exec c s = .next (((s.hubNeed x x.tables).getD s).askMasks x)) ∧
    (∀ x : Step, s.step? slot = some x → mine x = true → s.eligible x = true → s.behind x = false → s.verdict x = .go →
      s.dispatches x = false → exec c s = .next (s.makeReady x)) ∧
    ((∀ x, s.step? slot = some x → mine x = false ∨ s.eligible x = false ∨ s.behind x = true) → exec c s = .next s)

/-- Table 08-6 is judged in its order: of a keyed context without a loaded key, or while h_locked is low, every step is held
before any other check (R344); and a step with slices whose named slices include a lost one completes RESOURCE_FENCED,
cause SLICE, before any later check. -/
def Sys2Proof.Claims.ChecksInOrder : Prop :=
  (∀ (x : Step) (s : State), (s.ctx x.ctx).keyed = true → ((s.ctx x.ctx).cur.state ≠ .loaded ∨ s.pins.hLocked = false) →
    s.verdict x = .hold) ∧
  (∀ (x : Step) (ls : List Nat) (s : State), ((s.ctx x.ctx).keyed = true → (s.ctx x.ctx).cur.state = .loaded ∧ s.pins.hLocked = true) →
    (x.op.getD .nop).noSlice = false → s.namedSlices x = some ls → (∃ l ∈ ls, s.physOf l = none) →
    s.verdict x = .refuse 0x23 0x01)

/-- What the checks of Table 08-6 do with a step, and their order (R14, R273, R344). -/
def Obligations.ChecksOfTable0806 : Prop := Claims.RefusedAndHeldSteps ∧ Claims.ChecksInOrder


/-- DESCRIPTOR_BATCH of a chain whose next batch is wanted: the hub asks a slice for it over NACC; while it has not come nothing
happens; when it has, the chain walks on through it, an uncorrectable granule standing for descriptors no check passes (R227, R231,
R392, R511; that one row asks and takes is the model's choice, assumption 94). -/
def Sys2Proof.Claims.DescriptorBatches : Prop :=
  ∀ (slot : Nat) (role : Role) (at_ : Nat) (data : Bytes) (errs : List Nat) (x : Step) (k : Chain) (s : State), s.phase = .ready → s.step? slot = some x →
    (s.roles x).contains role = true → s.chainOf x role = some k → s.batchAsked x role k = true →
    let base := k.next / 4096 * 4096
    let s1 := s.modStep x.slot (fun y => { y with batches := y.batches.filter (fun b => b.1 != base) })
    let walk := fun (d : Bytes × List Nat) => k.batch base (spoil d.1 (d.2.map (fun g => (g - base) / 64)))
    (∀ n, x.phase = .held ∨ x.phase = .dispatched → x.batches.find? (fun b => b.1 == base) = none → s.readSlice x = some n →
      exec (.descriptorBatch slot role at_ data errs) s = .next ((s.post .hub (.slice n) (.nacc x.slot false base 4096 [])).modStep x.slot
        (fun y => { y with batches := (base, none) :: y.batches }))) ∧
    (∀ b, x.batches.find? (fun e => e.1 == base) = some (b, none) → exec (.descriptorBatch slot role at_ data errs) s = .next s) ∧
    (∀ b d, x.phase = .dispatched → x.batches.find? (fun e => e.1 == base) = some (b, some d) →
      exec (.descriptorBatch slot role at_ data errs) s = .next (s1.growChain x role (walk d))) ∧
    (∀ b d, x.phase = .held → x.batches.find? (fun e => e.1 == base) = some (b, some d) →
      exec (.descriptorBatch slot role at_ data errs) s = .next (s1.modStep slot (fun y => y.setChain role (walk d))))

/-- SLOT_GRANT: the walker looks at the share's next tile: once everything that says whether the tile is there has been read, a
wanted tile is walked (granted, skipped, marked or failed), and before that the next of those reads is made; a row that the
bitmap leaves out is skipped and counted (R183, R243, R313, R327). -/
def Sys2Proof.Claims.SlotGrants : Prop :=
  ∀ (sl : Fin 132) (slot : Nat) (role : Role) (x : Step) (h : Share) (r : Round) (k : Chain) (i t : Nat) (s : State),
    s.liveShare sl slot = some (x, h) → isSource role = true → h.round role = some r → walkAt x h r = .tile i → x.chain role = some k →
    k.tileAt i = some t → (role = .ref → refWanted x h i = true) →
    let s0 := s.modSlice sl Slice.touch
    let looks := s0.tileLooks x role i t
    ((role = .src → x.rowSkips i = false) → s0.need (.step slot) x.ctx looks = none → exec (.slotGrant sl slot role) s = .next
      (((s0.walkTile sl x h r i t).settlePass slot).settleShare sl slot)) ∧
    (∀ l, (role = .src → x.rowSkips i = false) → s0.lacks (.step slot) looks = some l → exec (.slotGrant sl slot role) s = .next
      (s0.seek (.step slot) x.ctx l)) ∧
    (role = .src → x.rowSkips i = true → exec (.slotGrant sl slot role) s = .next
      ((((s0.advance sl slot role).progress sl slot
        (fun rep => { rep with skipped := some i, flags := { rowsSkipped := true } })).settlePass slot).settleShare sl slot))

/-- A step's chain is read and its tiles are granted (R227, R231, R243). -/
def Obligations.ChainsAndGrants : Prop := Claims.DescriptorBatches ∧ Claims.SlotGrants


/-! ### Stations and memory ports (R22, R234, R235, R243, R283 to R286, R299, R310, R343, R355, R380 to R395) -/

/-- A transaction is taken from its source, destination and class in order of sending (R42); FETCH: once the station has made
the reads it needs (R301), the home station walks the page and serves, forwards or fails the tile; a fetch another station
forwarded is served from the leaf it carries (R299, R315). GRANT: the grant joins the station's and the tiles that are whole go on, or it follows the forwarded fetch
(R243). -/
def Sys2Proof.Claims.FetchAndGrant : Prop :=
  (∀ (ms : Fin 12) (src : UnitId) (f : FetchRec) (l : Leaf) (s t : State), s.recvTxn src (.ms ms) 0x01 = some (.fetch f, t) →
    s.need f.asker f.ctx (s.fetchLooks ms f) = none → f.leaf = some l → exec (.fetch ms src) s = .next
      ((if f.remoteFor.isSome then t.forgetLooks f.asker (s.fetchLooks ms f) else t).serveTile ms f l)) ∧
  (∀ (ms : Fin 12) (src : UnitId) (f : FetchRec) (l : Leaf) (a b : Nat) (s t : State),
    s.recvTxn src (.ms ms) 0x01 = some (.fetch f, t) → s.need f.asker f.ctx (s.fetchLooks ms f) = none → f.leaf = none →
    let u := if f.remoteFor.isSome then t.forgetLooks f.asker (s.fetchLooks ms f) else t
    u.walk f.ctx (f.tileNo / 16) = .leaf l a b → exec (.fetch ms src) s = .next (u.resolved ms f l)) ∧
  (∀ (ms : Fin 12) (src : UnitId) (f : FetchRec) (l : Look) (s t : State), s.recvTxn src (.ms ms) 0x01 = some (.fetch f, t) →
    s.lacks f.asker (s.fetchLooks ms f) = some l → exec (.fetch ms src) s = .next (s.seek f.asker f.ctx l)) ∧
  (∀ (m : Fin 12) (src : Fin 132) (slot pos : Nat) (r : Role) (s t : State),
    s.recvTxn (.slice src) (.ms m) 0x02 = some (.grant slot r pos, t) →
    (t.grantTarget m src slot r pos = none → exec (.grant (.ms m) src) s = .next
      (let u := t.modStation m (fun x => { x with grants := x.grants ++ [(src, slot, r, pos)] })
       ((u.station m).jobs.filter (fun j => j.tile.isSome)).foldl (fun w j => w.forward m j.id) u)) ∧
    (∀ k, t.grantTarget m src slot r pos = some k → exec (.grant (.ms m) src) s = .next (t.post (.slice src) (.ms k) (.grant slot r pos))))

/-- What taking a transaction does: the oldest of its pair and class that the unit lets in leaves the network, with the pieces of a
split payload that came before it (R385), every other stays in its order, and the rest of the state but the energy estimate is as
it was (R42, R405). A slice that is not awake lets only the hub's probe in, and an IDLE one returns to ACTIVE on any other
transaction (R466, R469; the probe's part is assumption 102). -/
def Obligations.TransactionsInOrder : Prop :=
  ∀ (src dst : UnitId) (code : Nat) (b : Body) (s t : State), s.recvTxn src dst code = some (b, t) →
    (∃ (before after : List Txn) (q : Txn), s.net = before ++ [q] ++ after ∧ q.src = src ∧ q.dst = dst ∧ q.body = b ∧
      (let taken := fun (x : Txn) => x.src == src && x.dst == dst && x.body.response == bitAt code 5 && s.letsIn dst x.body
       t.net = before.filter (fun x => !taken x) ++ after ∧ (∀ x ∈ before, taken x = true → x.body.isPart = true))) ∧
    b.typeCode = code ∧ b.isPart = false ∧ s.phase = .ready ∧ (∀ n, dst = .slice n → (s.slice n).awake = true ∨ b.isProbe = true) ∧
    (∀ n : Fin 132, t.slice n = if dst = .slice n ∧ b.isProbe = false ∧ (s.slice n).power = .idle
      then { s.slice n with power := .active } else s.slice n) ∧
    t = { s with net := t.net, slices := t.slices, hub := { s.hub with energy := t.hub.energy } }

/-- R235, R285, R286: the next request of a class is issued when its class's credit covers its bytes and the class has a free window
entry; it pays its bytes, takes the lowest free id (the model's choice, assumption 17), and a write's data beats follow (R387). It
is the oldest accepted of its class, and no older request for the same bytes waits, open or closed; a sweep's request goes behind
those of its class's steps (R359; assumption 110). At M-port version 2 a write that gives granules in part first has them read, and
waits until they have come (R385). MERGE_CLOSE_TIMEOUT closes the open requests of its class and direction (R234). -/
def Obligations.RequestIssue : Prop :=
  (∀ (ms : Fin 12) (cls : ReqClass) (wr : Bool) (q : MReq) (id : Nat) (s : State), s.phase = .ready →
    s.stationUp ms = true → (s.station ms).mVer.isOpen = true →
    (s.station ms).nextIssue cls = some q → q.wr = wr →
    (q.fill ≠ none → exec (.mRequestIssue ms cls wr) s = .next s) ∧
    (q.fill = none → freeId 512 ((s.station ms).window.map (·.id)) = some id → Int.ofNat (q.bytes * 15360) ≤ (s.station ms).credit cls →
    ((s.station ms).window.filter (fun o => o.req.cls == cls && !o.req.scrub)).length < s.windowOf ms cls →
    (wr = true → (s.station ms).mVer = .agreed 2 → q.partials ≠ [] →
      exec (.mRequestIssue ms cls wr) s = .next (s.fillWrite ms q)) ∧
    (wr = false ∨ (s.station ms).mVer ≠ .agreed 2 ∨ q.partials = [] →
      let t := s.modStation ms (fun y =>
        { (y.pay cls (Int.ofNat (q.bytes * 15360))) with
          closed := y.closed.erase q, window := y.window ++ [{ id := id, req := q, got := 0, data := [], bad := [] }] })
      exec (.mRequestIssue ms cls wr) s = .next
        (if wr then (t.modStation ms (fun x => { x with mWd := q.beats })).spend 2 q.beats.length else t)))) ∧
  (∀ (x : Station) (cls : ReqClass) (q : MReq), x.nextIssue cls = some q → q ∈ x.closed ∧ q.cls = cls ∧
    (∀ b ∈ x.opens ++ x.closed,
      (q.sweep = false → b.cls = cls → b.sweep = false → q.order ≤ b.order) ∧
      ((b.wr = true ∨ q.wr = true) → b.overlaps q = true → q.order ≤ b.order) ∧
      (b.cls = cls → b.sweep = false → q.yields (x.opens ++ x.closed) = false))) ∧
  (∀ (ms : Fin 12) (cls : ReqClass) (wr : Bool) (s : State), s.phase = .ready → s.stationUp ms = true →
    exec (.mergeCloseTimeout ms cls wr) s = .next (s.modStation ms (fun x => x.closeOpens (fun q => q.cls == cls && q.wr == wr))))

/-- R388, R389: a beat of an outstanding M-port read, 1,024 B of it or its rest, shows in the stack; the last one ends the
request, its data go to the jobs it serves, and what waited for them goes on; before it the request only grows. A write's acknowledgement ends it. -/
def Obligations.StackBeats : Prop :=
  (∀ (ms : Fin 12) (id : BitVec 9) (data : Bytes) (last : Bool) (err : BitVec 16) (o : MOut) (s : State), s.phase = .ready →
    s.stationUp ms = true → (s.station ms).window.find? (fun w => w.id == id.toNat && !w.req.wr) = some o →
    last = decide (o.req.bytes ≤ o.got + 1024) →
    let n := min 1024 (o.req.bytes - o.got)
    let a := o.req.first + o.got
    let bad := ((List.range 16).filter (fun g => bitAt err.toNat g && 64 * g < n)).map (fun g => a + 64 * g)
    let s1 := (s.learnM ms a (fitTo n (data.take n)) bad).spend 2 1
    let o2 : MOut := { o with got := o.got + n, data := o.data ++ fitTo n (data.take n), bad := o.bad ++ bad }
    (last = true → exec (.mReadBeat ms id data last err) s = .next
      (((s1.modStation ms (fun x => { x with window := x.window.filter (fun p => p.id != o.id) })).rangesDone ms o.req o2.data
        o2.bad).wake [ms])) ∧
    (last = false → exec (.mReadBeat ms id data last err) s = .next
      (s1.modStation ms (fun x => { x with window := x.window.map (fun p => if p.id == o.id then o2 else p) })))) ∧
  (∀ (ms : Fin 12) (id : BitVec 9) (o : MOut) (s : State), s.phase = .ready → s.stationUp ms = true →
    (s.station ms).window.find? (fun w => w.id == id.toNat && w.req.wr) = some o →
    exec (.mWriteAck ms id) s = .next (o.req.ranges.foldl (fun t r => t.jobStep ms r.job)
      (s.modStation ms (fun x => { x with window := x.window.filter (fun p => p.id != o.id) }))))

/-- R381, R388, R393, R394, R410, R411: what a partner may not send has no effect the spec gives, and the model stops: a read
beat or a write acknowledgement of no outstanding request, and a verdict with no whole frame waiting for one (assumption
12). -/
def Obligations.PartnerErrorsStop : Prop :=
  (∀ (ms : Fin 12) (id : BitVec 9) (data : Bytes) (last : Bool) (err : BitVec 16) (s : State), s.phase = .ready → s.stationUp ms = true →
    (s.station ms).window.find? (fun w => w.id == id.toNat && !w.req.wr) = none → exec (.mReadBeat ms id data last err) s = .fault .strayReadBeat) ∧
  (∀ (ms : Fin 12) (id : BitVec 9) (s : State), s.phase = .ready → s.stationUp ms = true →
    (s.station ms).window.find? (fun w => w.id == id.toNat && w.req.wr) = none → exec (.mWriteAck ms id) s = .fault .strayWriteAck) ∧
  (∀ (sl : Fin 132) (id : BitVec 8) (data : Bytes) (last : Bool) (err : BitVec 8) (s : State), s.phase = .ready → (s.slice sl).alive = true →
    takeBeat id.toNat 512 last (s.slice sl).nOut = none → exec (.nReadBeat sl id data last err) s = .fault .strayReadBeat) ∧
  (∀ (sl : Fin 132) (id : BitVec 8) (s : State), s.phase = .ready → (s.slice sl).alive = true →
    (s.slice sl).nOut.find? (fun q => q.id == id.toNat && q.wr) = none → exec (.nWriteAck sl id) s = .fault .strayWriteAck) ∧
  (∀ (id : BitVec 6) (data : Bytes) (last : Bool) (err : BitVec 2) (s : State), s.cOpen = true →
    takeBeat id.toNat 128 last s.hub.cOut = none → exec (.cReadBeat id data last err) s = .fault .strayReadBeat) ∧
  (∀ (id : BitVec 6) (s : State), s.cOpen = true →
    s.hub.cOut.find? (fun q => q.id == id.toNat && q.wr) = none → exec (.cWriteAck id) s = .fault .strayWriteAck) ∧
  (∀ (ls : Fin 16) (bad : Bool) (s : State), s.phase = .ready → s.linkUp ls = true → (s.link ls).lVer.isOpen = true →
    (∀ f, (s.link ls).rx.find? (fun k => k.verdict.isNone) = some f → f.whole = false) →
    exec (.frameVerdict ls bad) s = .fault .strayVerdict)

/-- R393, R394, R395: the beats and acknowledgements of the N-ports and of the hub's C-port: a beat's bytes show in the near
store, but for granules that an unacknowledged write of the block covers (the model's reading, assumption 7); the last beat ends the
read and brings its data to who asked; an acknowledgement ends the write, and that of a completion record's first entry pulses
c_cpl, which version 2 does not have (R385). The id of a request that is done goes to the oldest one that waits for an id, and a
write's data beats follow its request. -/
def Obligations.NearBeats : Prop :=
  (∀ (sl : Fin 132) (id : BitVec 8) (data : Bytes) (last : Bool) (err : BitVec 8) (q : NReq) (s : State), s.phase = .ready →
    (s.slice sl).alive = true → takeBeat id.toNat 512 last (s.slice sl).nOut = some q →
    let n := min 512 (q.len - q.got)
    let a := q.addr + q.got
    let bad := ((List.range 8).filter (fun g => bitAt err.toNat g && 64 * g < n)).map (fun g => a + 64 * g)
    let s1 := (s.learnRead a (fitTo n (data.take n)) bad).spend 3 1
    (last = true → exec (.nReadBeat sl id data last err) s = .next
      ((s1.nRetire sl q.id).nReadDone sl q.purpose)) ∧
    (last = false → exec (.nReadBeat sl id data last err) s = .next
      (s1.modSlice sl (fun x => { x with nOut := x.nOut.map (fun p => if p.id == q.id then { p with got := p.got + n } else p) })))) ∧
  (∀ (sl : Fin 132) (id : BitVec 8) (q : NReq) (s : State), s.phase = .ready → (s.slice sl).alive = true →
    (s.slice sl).nOut.find? (fun w => w.id == id.toNat && w.wr) = some q →
    exec (.nWriteAck sl id) s = .next ((s.nRetire sl q.id).nWriteDone sl q.purpose)) ∧
  (∀ (sl : Fin 132) (id : Nat) (s : State), ((s.nRetire sl id).slice sl).nOut = retireReq id 256 (s.slice sl).nOut ∧
    (∀ q, (retireReq id 256 (s.slice sl).nOut).find? (fun w => w.id == id) = some q → q.wr = true →
      ((s.nRetire sl id).slice sl).nWd = q.beats 512)) ∧
  (∀ (id : Nat) (s : State), (s.cRetire id).hub.cOut = retireReq id 64 s.hub.cOut ∧
    (∀ q, (retireReq id 64 s.hub.cOut).find? (fun w => w.id == id) = some q → q.wr = true → (s.cRetire id).hub.cWd = q.beats 64)) ∧
  (∀ (id : BitVec 6) (data : Bytes) (last : Bool) (err : BitVec 2) (q : NReq) (s : State), s.cOpen = true →
    takeBeat id.toNat 128 last s.hub.cOut = some q →
    let n := min 128 (q.len - q.got)
    let a := q.addr + q.got
    let bad := ((List.range 2).filter (fun g => bitAt err.toNat g)).map (fun g => a / 64 * 64 + 64 * g)
    let s1 := (s.learnRead a (fitTo n (data.take n)) bad).spend 4 1
    (last = true → exec (.cReadBeat id data last err) s = .next ((s1.cRetire q.id).cReadDone q.purpose)) ∧
    (last = false → exec (.cReadBeat id data last err) s = .next
      (s1.modHub (fun h => { h with cOut := h.cOut.map (fun p => if p.id == q.id then { p with got := p.got + n } else p) })))) ∧
  (∀ (id : BitVec 6) (q : NReq) (s : State), s.cOpen = true → s.hub.cOut.find? (fun w => w.id == id.toNat && w.wr) = some q →
    ∃ t, exec (.cWriteAck id) s = .next t ∧ t.hub.cOut = retireReq q.id 64 s.hub.cOut ∧ s.sameStores t ∧ t.ctxs = s.ctxs ∧
      (∀ c ring, q.purpose = .record c ring true → s.hub.cVer ≠ .agreed 2 → t.hub.cplPulse = some (c, ring)) ∧
      ((∀ c ring, q.purpose = .record c ring true → s.hub.cVer = .agreed 2) → t.hub.cplPulse = s.hub.cplPulse) ∧
      (∀ slot, q.purpose = .hubWrite slot → t.hub.steps =
        s.hub.steps.map (fun x => if x.slot == slot then { x with toDo := x.toDo - 1 } else x)))

/-- R310, R314, R355, R356: a station takes a tile's write that need not wait, once it has made the reads that asks for: at its
home the page is resolved, placed or held; at the station of its stitches it is accepted, and page changes behind it go on. COPY_ON_WRITE_DONE of a page that has been copied lets the writes
held for it proceed, in their order. -/
def Sys2Proof.Claims.TileWrites : Prop :=
  (∀ (ms : Fin 12) (src : UnitId) (w : WriteRec) (s t : State), s.recvTxn src (.ms ms) 0x03 = some (.write w, t) →
    t.writeWaits ms w = false →
    (w.leaf = none → s.need (.step w.slot) w.ctx (s.homeLooks ms w) = none → exec (.write ms src) s = .next (t.homeWrite ms w)) ∧
    (∀ l lay, w.leaf = some l → s.need (.step w.slot) w.ctx (s.storeLooks ms w l) = none → Layout.ofCode l.layout = some lay →
      exec (.write ms src) s = .next (t.acceptWrite ms w l lay).wakeItems)) ∧
  (∀ (ms : Fin 12) (w : WriteRec) (ws : List WriteRec) (l : Leaf) (a b : Nat) (s : State), s.phase = .ready → s.stationUp ms = true →
    (s.station ms).heldWrites = w :: ws → s.need (.step w.slot) w.ctx (s.copyLooks [] w.ctx (w.tileNo / 16)) = none →
    s.walk w.ctx (w.tileNo / 16) = .leaf l a b →
    (l.mustChange = false → exec (.copyOnWriteDone ms) s = .next (s.releaseHeld ms w.ctx (w.tileNo / 16))) ∧
    (∀ t n, l.mustChange = true → (if l.demoted then s.promote [] w.ctx (w.tileNo / 16) l a b
        else s.copyOnWrite [] w.ctx (w.tileNo / 16) l a b) = .done t n →
      exec (.copyOnWriteDone ms) s = .next (t.releaseHeld ms w.ctx (w.tileNo / 16))))

/-- Fetches, grants and writes at the stations (R243, R299, R310, R314, R355, R356). -/
def Obligations.StationTransactions : Prop := Claims.FetchAndGrant ∧ Claims.TileWrites


/-- In stores of canonical form, which every step keeps, bytes written through the block's ports and bytes it learns from a read beat
read back, and no other byte of any store changes: the view operations every storing command goes through (R69, R392, R393, R394). A
granule that a write not yet acknowledged covers keeps its bytes (assumption 7). -/
def Obligations.StoresReadBack : Prop :=
  (∀ (a : Nat) (bs : Bytes) (s : State), s.storesWf → (s.writeNear a bs).near.read a bs.length = bs ∧
    (∀ x, x < a ∨ a + bs.length ≤ x → (s.writeNear a bs).near.get x = s.near.get x) ∧
    ∀ m : Fin 12, (s.writeNear a bs).stack m = s.stack m) ∧
  (∀ (m : Fin 12) (a : Nat) (bs : Bytes) (s : State), s.storesWf → ((s.writeStack m a bs).stack m).read a bs.length = bs ∧
    (∀ x, x < a ∨ a + bs.length ≤ x → ((s.writeStack m a bs).stack m).get x = (s.stack m).get x) ∧
    (∀ k, k ≠ m → (s.writeStack m a bs).stack k = s.stack k) ∧ (s.writeStack m a bs).near = s.near) ∧
  (∀ (a len : Nat) (bs : Bytes) (p : NPurpose) (s : State), (s.cRequest true a len bs p).near = (s.writeNear a bs).near ∧
    (s.cRequest false a len bs p).near = s.near) ∧
  (∀ (n : Fin 132) (a len : Nat) (bs : Bytes) (p : NPurpose) (s : State), (s.nRange n true a len bs p).near = (s.writeNear a bs).near ∧
    (s.nRange n false a len bs p).near = s.near) ∧
  (∀ (a : Nat) (bs : Bytes) (bad : List Nat) (s : State), s.storesWf → (s.learnNear a bs bad).near.read a bs.length = bs ∧
    (∀ x, x < a ∨ a + bs.length ≤ x → (s.learnNear a bs bad).near.get x = s.near.get x) ∧
    ∀ m : Fin 12, (s.learnNear a bs bad).stack m = s.stack m) ∧
  (∀ (a : Nat) (bs : Bytes) (bad : List Nat) (s : State), s.storesWf →
    let t := s.learnRead a bs bad
    (∀ i, i < bs.length → (a + i) / 64 * 64 ∉ s.nearDirty → t.near.get (a + i) = bs.getD i 0#8) ∧
    (∀ x, (x < a ∨ a + bs.length ≤ x ∨ x / 64 * 64 ∈ s.nearDirty) → t.near.get x = s.near.get x) ∧ ∀ m : Fin 12, t.stack m = s.stack m) ∧
  (∀ (m : Fin 12) (a : Nat) (bs : Bytes) (bad : List Nat) (s : State), s.storesWf → a % 64 = 0 →
    let t := s.learnM m a bs bad
    (∀ i, i < bs.length → (a + i) / 64 * 64 ∉ (s.station m).dirty → (t.stack m).get (a + i) = bs.getD i 0#8) ∧
    (∀ x, (x < a ∨ a + bs.length ≤ x ∨ x / 64 * 64 ∈ (s.station m).dirty) → (t.stack m).get x = (s.stack m).get x) ∧
    (∀ k, k ≠ m → t.stack k = s.stack k) ∧ t.near = s.near)

/-! ### The D-port, the A-port and the compressors (R64, R86, R100, R157, R168, R187, R198 to R206, R212, R213, R219, R243 to
R249, R252, R255, R313, R396 to R404) -/

/-- EXPAND_START, PAIR_START, TILE_COMPRESSED and CONTOUR_BLOCK_CODED take the first share, in dispatch order, whose datapath
can go on, and do that share's work. -/
def Sys2Proof.Claims.DatapathsTakeFirstShare : Prop :=
  (∀ (sl : Fin 132) (s t : State), (s.slice sl).shares.findSome? (fun h => s.startShare sl h.slot) = some t →
    exec (.expandStart sl) s = .next (t.modSlice sl Slice.touch)) ∧
  (∀ (sl : Fin 132) (before after : List Share) (h : Share) (x : Step) (g : Share) (s t : State),
    (s.slice sl).shares = before ++ [h] ++ after → (∀ b ∈ before, b.kind ≠ .gatherMerge) → h.kind = .gatherMerge →
    s.liveShare sl h.slot = some (x, g) → s.startPair sl x g = some t → exec (.pairStart sl) s = .next (t.modSlice sl Slice.touch)) ∧
  (∀ (sl : Fin 132) (s t : State), (s.slice sl).shares.findSome? (fun h => s.codeShare sl h.slot) = some t →
    exec (.tileCompressed sl) s = .next t) ∧
  (∀ (sl : Fin 132) (before after : List Share) (h : Share) (x : Step) (g : Share) (s t : State),
    (s.slice sl).shares = before ++ [h] ++ after → (∀ b ∈ before, b.kind ≠ .contour) → h.kind = .contour →
    s.liveShare sl h.slot = some (x, g) → s.codeBlock sl x g = some t → exec (.contourBlockCoded sl) s = .next t)

/-- R161, R168: the contour decoder's tile leaves for the D-port when a buffer handle waits, and for the compressor behind
it when that can take it; either way the decoder is free again. -/
def Sys2Proof.Claims.ContourDecoded : Prop :=
  ∀ (sl : Fin 132) (d : Decoding) (x : Step) (h : Share) (u : Use) (s : State), (s.slice sl).decoding = some d →
    s.liveShare sl d.slot = some (x, h) → s.use x .src = some u →
    let e : Expanded := { legend := d.legend, data := d.data, scale := d.scale, absent := false, zeros := false, poison := d.poison, found := 0 }
    let s1 := (s.modSlice sl (fun y => { y with decoding := none })).spendCodec false d.legend.fmt 1
    (h.kind.toDPort = true → (s.slice sl).mayOffer = true →
      exec (.contourTileDecoded sl) s = .next (s1.offerTile sl x h d.chainIdx d.pos u.fmt e)) ∧
    (h.kind.toDPort = false → takesTile x h = true → exec (.contourTileDecoded sl) s = .next
      (((s1.enqueue sl x (inputTile x d.chainIdx (s.isLoad x && d.legend.keyClass == 2) (s.inputScale x h u.fmt e) d.data false
        d.poison)).settlePass d.slot).settleShare sl d.slot))

/-- The slice's datapaths go on with their first share that can (R100, R157, R168). -/
def Obligations.Datapaths : Prop := Claims.DatapathsTakeFirstShare ∧ Claims.ContourDecoded


/-- R397, R401: a beat of the tile on the D-port transfers; the last one, when D-full has a place, delivers the tile, puts its
handle in D-full with the tag and poison of the tile, and frees the port. That it waits while D-full holds 16 handles is the model's
reading (assumption 62). -/
def Sys2Proof.Claims.DBeats : Prop :=
  ∀ (sl : Fin 132) (d : DTile) (s : State), s.phase = .ready → (s.slice sl).awake = true → (s.slice sl).sending = some d →
    (d.sent + 1 < d.beats.length → exec (.dBeat sl) s = .next
      ((s.modSlice sl (fun y => { y with sending := some { d with sent := d.sent + 1 } })).spend 0 1)) ∧
    (d.beats.length ≤ d.sent + 1 → (s.slice sl).dFull.length < 16 → exec (.dBeat sl) s = .next ((s.finishTile sl d).spend 0 1)) ∧
    (d.beats.length ≤ d.sent + 1 → 16 ≤ (s.slice sl).dFull.length → exec (.dBeat sl) s = .next s)

/-- R252, R255, R313, R399, R401, R404: the holder queues. A D-free push enters at the back and a full queue refuses it; D-full
and A-done lose their oldest entry to a pop, an empty queue nothing; the oldest frogged marker transfers. -/
def Sys2Proof.Claims.HolderQueues : Prop :=
  ∀ (sl : Fin 132) (s : State), s.phase = .ready → (s.slice sl).awake = true →
    (∀ e : BitVec 64, (s.slice sl).dFree.length < 16 → exec (.dFreePush sl e) s = .next (s.modSlice sl (fun y =>
      { y with dFree := y.dFree ++ [QEntry.ofWord e.toNat] }))) ∧
    (∀ e : BitVec 64, 16 ≤ (s.slice sl).dFree.length → exec (.dFreePush sl e) s = .next s) ∧
    exec (.dFullPop sl) s = .next (s.modSlice sl (fun y => { y with dFull := y.dFull.drop 1 })) ∧
    exec (.aDonePop sl) s = .next (s.modSlice sl (fun y => { y with aDone := y.aDone.drop 1 })) ∧
    (∀ f fs, (s.slice sl).frogQ = f :: fs → exec (.frogMarker sl) s = .next
      ((s.modSlice sl (fun y => { y with frogQ := fs })).settleShare sl f.slot))

/-- The D-port's beats and the holder queues (R252, R255, R397, R401, R404). -/
def Obligations.DPortBeatsAndQueues : Prop := Claims.DBeats ∧ Claims.HolderQueues


/-- R245, R246, R248, R249, R400: the mark operations of one cycle, lane 0's and lane 1's, act on the share that holds the D-port in
the order releases, rewinds, sets, of two alike lane 0's first; with no share on the D-port they are ignored. A mark is set at the
read index and replaces the earlier mark of its number (of marks set in two cycles the model's reading, assumption 63); REWIND to a
mark takes the read index back there, without the mark it is refused and the step will complete MARK_LOST; RELEASE drops the mark. -/
def Obligations.RewindMarks : Prop :=
  ∀ (sl : Fin 132) (id : Fin 2) (lane1 : Option MarkOp) (s : State),
    let lanes : MarkLanes := { id := id, lane1 := lane1 }
    (∀ h : Share, s.markShare sl = some h →
      let cycle (k : MarkKind) := (((markOrder { kind := k, id := id } lane1).foldl (fun t o => t.markOp sl h.slot o) s).settleShare sl h.slot)
      exec (.setHard sl lanes) s = .next (cycle .setHard) ∧ exec (.setSoft sl lanes) s = .next (cycle .setSoft) ∧
      exec (.rewind sl lanes) s = .next (cycle .rewind) ∧ exec (.release sl lanes) s = .next (cycle .release)) ∧
    (s.markShare sl = none → exec (.setHard sl lanes) s = .next s ∧ exec (.setSoft sl lanes) s = .next s ∧
      exec (.rewind sl lanes) s = .next s ∧ exec (.release sl lanes) s = .next s) ∧
    (∀ a b : MarkOp, markOrder a none = [a] ∧
      (let rank : MarkOp → Nat := fun o => match o.kind with | .release => 0 | .rewind => 1 | .setHard | .setSoft => 2
       markOrder a (some b) = if rank b < rank a then [b, a] else [a, b])) ∧
    (∀ (slot : Nat),
      let set (hard : Bool) := s.modShare sl slot (fun g =>
        { g with marks := g.marks.filter (fun m => m.id != id) ++ [{ id := id, hard := hard, pos := g.readIndex }] })
      s.markOp sl slot { kind := .setHard, id := id } = set true ∧ s.markOp sl slot { kind := .setSoft, id := id } = set false ∧
      s.markOp sl slot { kind := .release, id := id } =
        s.modShare sl slot (fun g => { g with marks := g.marks.filter (fun m => m.id != id) }.delivered 0) ∧
      (∀ h : Share, (s.slice sl).share slot = some h →
        (∀ m, h.marks.find? (fun k => k.id == id) = some m → s.markOp sl slot { kind := .rewind, id := id } = s.modShare sl slot (fun g =>
          { g with rounds := g.rounds.map (fun r => if r.role == .ref then r else { r with h := m.pos }) })) ∧
        (h.marks.find? (fun k => k.id == id) = none → s.markOp sl slot { kind := .rewind, id := id } =
          (s.modSlice sl (fun y => { y with markRefused := some id })).progress sl slot (fun r =>
            { r with conds := [{ status := 0x24, cause := 0, tile := none }], flags := { markLost := true } }))))

/-- R403, R404, R212: an A-port beat, once the absent tiles before it are passed by and the map granule it may need has come:
one that ends no tile joins the beats held; the last beat of a tile takes it as input of its step; a scatter beat's valid
records are taken one by one, in order, and its last beat enters A-done. A beat whose tile's map granule has not come asks
for it (R182). -/
def Sys2Proof.Claims.ABeats : Prop :=
  ∀ (sl : Fin 132) (b : ABeat) (x : Step) (h0 h : Share) (s s1 : State), s.inputShare sl = some (x, h0) →
    s1 = s.passAbsent sl x.slot (shareLength x (some h0)) → (s1.slice sl).share x.slot = some h →
    let s0 := (s1.modSlice sl Slice.touch).spend 1 1
    let taken := s0.each (beatRecords b) (fun t r => t.takeRecord sl x.slot r)
    let held := (s1.slice sl).aIn ++ [{ b with data := [], pos := [] }]
    (∀ a, x.beatAsks h b = some a → exec (.aBeat sl b) s = .next (s1.ask x.slot a)) ∧
    (x.beatAsks h b = none → s1.aReady sl x h b = false → exec (.aBeat sl b) s = .next s1) ∧
    (x.beatAsks h b = none → s1.aReady sl x h b = true →
      (h.kind ≠ .scatter → b.last = false → exec (.aBeat sl b) s = .next
        (s0.modSlice sl (fun y => { y with aIn := (s1.slice sl).aIn ++ [b] }))) ∧
      (h.kind ≠ .scatter → b.last = true → exec (.aBeat sl b) s = .next (s0.takeInput sl x ((s1.slice sl).aIn ++ [b]))) ∧
      (h.kind = .scatter → b.last = false → exec (.aBeat sl b) s = .next (taken.modSlice sl (fun y => { y with aIn := held }))) ∧
      (h.kind = .scatter → b.last = true → exec (.aBeat sl b) s = .next
        (taken.pushDone sl x held (decide (taken.recordsIn x.slot ≥ recordsOf x.words)))))

/-- R213, R215, R218: SCATTER_RECORD hashes the slice's oldest record into the bank of its own step, unless 64 spilled records
wait there; then the slice's first scatter share writes a spill tile that is due. R219 to R222: MERGE_OUT_ROUND begins a slice's
round when every slice of the step has ended the round before, the slices before it in order j have ended this one, and all that was
written is visible; then it reads spill_a, writes the refused records to spill_b and the entries to the table, tile by tile, and
ends the round (when a round begins and its order are the model's reading, assumption 67). -/
def Sys2Proof.Claims.Accumulation : Prop :=
  (∀ (sl : Fin 132) (slot : Nat) (r : Nat × List Nat × Bool) (rest : List (Nat × Nat × List Nat × Bool)) (s : State),
    (s.slice sl).records = (slot, r) :: rest →
    let taken := s.modSlice sl (fun y => { y with records := rest })
    (∀ x g, s.liveShare sl slot = some (x, g) → (s.slice sl).share slot = some g →
      ((s.slice sl).spillsHeld < 64 → exec (.scatterRecord sl) s = .next ((taken.hashRecord sl x r).goSpilling sl)) ∧
      (64 ≤ (s.slice sl).spillsHeld → exec (.scatterRecord sl) s = .next (s.goSpilling sl))) ∧
    ((s.slice sl).share slot = none → exec (.scatterRecord sl) s = .next (taken.goSpilling sl))) ∧
  (∀ (sl : Fin 132) (s : State), (s.slice sl).records = [] → exec (.scatterRecord sl) s = .next (s.goSpilling sl)) ∧
  (∀ (sl : Fin 132) (h g : Share) (x : Step) (s : State),
    (s.slice sl).shares.find? (fun k => k.kind == .scatter && !k.reported && !k.inDone) = some h → s.liveShare sl h.slot = some (x, g) →
    s.goSpilling sl = (s.spillNext sl h.slot false false).finishScatters h.slot) ∧
  (∀ (sl : Fin 132) (h0 h : Share) (x : Step) (o : AccSet) (s : State),
    (s.slice sl).shares.find? (fun k => k.kind == .mergeOut && !k.reported && !k.inDone) = some h0 →
    s.liveShare sl h0.slot = some (x, h) → h.stop = none → x.miss = none → s.ownerOf sl x = some o →
    (h.merge = none → (x.setLost = true → h.inPos = 0) → (s.sharesOf x.slot).length = x.slices.length → x.doneShares = [] →
      (∀ g ∈ s.sharesOf x.slot, (if g.j < h.j then h.inPos + 1 else h.inPos) ≤ g.inPos ∧ g.out = [] ∧ g.spillHeld = []) →
      exec (.mergeOutRound sl) s = .next (s.modShare sl x.slot (fun g =>
        { g with merge := some { bank := s.bank sl x, pos := 0, refused := [], discarded := 0, tiles := none } }))) ∧
    (∀ w, h.merge = some w →
      (w.tiles = none → exec (.mergeOutRound sl) s = .next (s.mergeRead sl x h o w)) ∧
      (w.tiles ≠ none → h.spillHeld ≠ [] → exec (.mergeOutRound sl) s = .next (s.spillNext sl x.slot true true)) ∧
      (∀ k ks, w.tiles = some (k :: ks) → h.spillHeld = [] → exec (.mergeOutRound sl) s = .next (s.mergeWrite sl x h k)) ∧
      (w.tiles = some [] → h.spillHeld = [] → exec (.mergeOutRound sl) s = .next (s.mergeEnd sl x h o))))

/-- A-port input, scatter records and merge-out rounds (R212, R213, R219, R403, R404). -/
def Obligations.InputAndAccumulation : Prop := Claims.ABeats ∧ Claims.Accumulation


/-! ### F-port transactions (R42, R69, R137, R182, R253, R254, R260, R299, R300, R325, R326, R338, R392, R405 to R409, R416, R481,
R484) -/

/-- What each transaction does at its receiver, once it has been taken in its order: a tile fills its granted slot, a near page
is served through the slice's N-port, an access is made for its requester, a granule or a batch reaches the step that asked, an
acknowledgement, entry, credit, contribution, control, report or verdict takes its effect. -/
def Obligations.TransactionsAtUnits : Prop :=
  (∀ (sl : Fin 132) (src : UnitId) (slot pos : Nat) (r : Role) (y : SlotTile) (s t : State),
    s.recvTxn src (.slice sl) 0x21 = some (.stitch slot r pos y, t) → exec (.stitch sl src) s = .next (t.fillSlot sl slot r pos y)) ∧
  (∀ (sl : Fin 132) (src : Fin 12) (f : FetchRec) (l : Leaf) (x : Step) (fmt : StreamFmt) (s t : State),
    s.recvTxn (.ms src) (.slice sl) 0x27 = some (.xlate f l, t) →
    (f.leaf = none → t.step? f.slot = some x → t.fetchFmt f l = some fmt → exec (.xlate sl src) s = .next (t.startNear sl f l fmt)) ∧
    (f.leaf ≠ none → exec (.xlate sl src) s = .next (t.writeNearTile sl f l))) ∧
  (∀ (sl : Fin 132) (src : UnitId) (step addr len : Nat) (wr : Bool) (data : Bytes) (s t : State),
    s.recvTxn src (.slice sl) 0x05 = some (.nacc step wr addr len data, t) → exec (.nacc sl src) s = .next
      (t.nPieces sl wr addr len data (if wr then .naccWrite src step addr len else .nacc src step addr len))) ∧
  (∀ (src : Fin 132) (m : Fin 12) (step addr : Nat) (data : Bytes) (bad : List Nat) (s t : State),
    s.recvTxn (.slice src) (.ms m) 0x23 = some (.ndata step addr data bad, t) → exec (.ndata (.ms m) src) s = .next
      ((t.nearCame m addr data.length).wake [m])) ∧
  (∀ (src : Fin 132) (step addr : Nat) (data : Bytes) (bad : List Nat) (s t : State),
    s.recvTxn (.slice src) .hub 0x23 = some (.ndata step addr data bad, t) →
    let u := t.modStep step (fun x =>
      if data.length = 4096 then
        { x with batches := x.batches.map (fun b => if b.1 == addr && b.2.isNone then (addr, some (data, bad)) else b) }
      else
        { x with
          asked := x.asked.filter (· != addr)
          granules := if x.asked.contains addr then (addr, data, !bad.isEmpty) :: x.granules else x.granules })
    exec (.ndata .hub src) s = .next (if (u.step? step).any (isOp .recv) then u.drainRecv step else u)) ∧
  (∀ (src : UnitId) (slot i : Nat) (r : Role) (s t : State),
    (∀ n, s.recvTxn src (.slice n) 0x22 = some (.ack slot r i, t) → exec (.ack (.slice n) src) s = .next (t.ackOut n slot r i)) ∧
    (∀ l, s.recvTxn src (.ls l) 0x22 = some (.ack slot r i, t) → exec (.ack (.ls l) src) s = .next (t.tileVisible l slot i))) ∧
  (∀ (sl : Fin 132) (src : UnitId) (slot : Nat) (e : QEntry) (s t : State), s.recvTxn src (.slice sl) 0x07 = some (.qpush slot e, t) →
    exec (.qpush sl src) s = .next (t.modShare sl slot (fun h => { h with link := h.link ++ [(src, e)] }))) ∧
  (∀ (n : Fin 132) (src : UnitId) (slot j k : Nat) (s t : State), s.recvTxn src (.slice n) 0x24 = some (.credit slot j k, t) →
    exec (.credit (.slice n) src) s = .next
      (((t.slice n).shares.filter (fun h => !h.linkOut.isEmpty && t.atWork n h.ctx)).foldl (fun u h => u.flushLink n h.slot) t)) ∧
  (∀ (l : Fin 16) (src : UnitId) (slot j k : Nat) (s t : State), s.recvTxn src (.ls l) 0x24 = some (.credit slot j k, t) →
    exec (.credit (.ls l) src) s = .next (t.pushStation l)) ∧
  (∀ (sl src : Fin 132) (c : Fin 64) (entry page tile y n slot i : Nat) (b : List (Nat × Nat)) (s t : State),
    s.recvTxn (.slice src) (.slice sl) 0x06 = some (.summary c entry page tile y n b slot i, t) →
    ((s.slice sl).merging = false → exec (.summary sl src) s = .next
      (t.nRange sl false ((t.ctx c).gazAddr entry) (t.ctx c).gazStride []
        (.gaz .merge (.slice src) c { entry := entry, page := page, tile := tile, y := y, n := n, bounds := b } slot i))) ∧
    ((s.slice sl).merging = true → exec (.summary sl src) s = .next s))

/-- More transactions at their receivers: a leaf change at the leaf's home once it has read what that needs, a forwarded walk, control
from the hub, a report to it, a record for a link station's receivers, a verdict for the tiles a slice holds, and a reserved type or
class at an open F-port, which is discarded with event 0x900A (R299, R300, R304, R315, R407, R413, R421, R484; which leaf changes
travel is assumption 55, what a report does at the hub assumption 123). -/
def Obligations.ControlTransactions : Prop :=
  (∀ (ms src : Fin 12) (c : Fin 64) (p slot : Nat) (l : Leaf) (s t : State),
    s.recvTxn (.ms src) (.ms ms) 0x09 = some (.atlas (.setLeaf c p l slot), t) →
    let who := if (s.step? slot).isSome then Asker.step slot else .own c
    let looks := s.leafLooks (((s.step? slot).map (·.opened)).getD []) c p (s.dropLooks c ms)
    (∀ k, s.lacks who looks = some k → exec (.atlas ms src) s = .next (s.seek who c k)) ∧
    (s.need who c looks = none → s.pageHeld c p = true → exec (.atlas ms src) s = .next s) ∧
    (s.need who c looks = none → s.pageHeld c p = false → exec (.atlas ms src) s = .next (t.leafCame c p l slot).wakeItems)) ∧
  (∀ (c : Fin 64) (p slot node addr : Nat) (old l : Leaf) (s t : State) (o : Opened) (b : Bool), s.walk c p = .leaf old node addr →
    s.replaceLeaf (((s.step? slot).map (·.opened)).getD []) c p old l node addr false = (t, o, b, true) →
    s.leafCame c p l slot = (t.addCounts slot 1 0 0).modStep slot (fun x =>
      { x with pos := x.pos + 1, tilesDone := x.tilesDone + 1, opened := o })) ∧
  (∀ (ms src : Fin 12) (f : FetchRec) (s t : State), s.recvTxn (.ms src) (.ms ms) 0x09 = some (.atlas (.walk f), t) →
    (∀ l a b, t.walk f.ctx (f.tileNo / 16) = .leaf l a b → exec (.atlas ms src) s = .next (t.resolved ms f l)) ∧
    (∀ level, t.walk f.ctx (f.tileNo / 16) = .miss level → exec (.atlas ms src) s = .next (t.missFetch (.ms ms) f
      { tile := f.chainIdx, kind := 1, station := ms.1, level := level, page := f.tileNo / 16 })) ∧
    (∀ cause, t.walk f.ctx (f.tileNo / 16) = .integrity cause → exec (.atlas ms src) s = .next (t.failFetch (.ms ms) f 0x31 cause)) ∧
    (t.walk f.ctx (f.tileNo / 16) = .stationDown → exec (.atlas ms src) s = .next (t.failFetch (.ms ms) f 0x23 0x02))) ∧
  (∀ (dst : UnitId) (c : Control) (s t : State), s.recvTxn .hub dst 0x08 = some (.ctl c, t) → exec (.ctl dst) s = .next (t.control dst c)) ∧
  (∀ (src : UnitId) (r : Report) (s t : State), s.recvTxn src .hub 0x26 = some (.status r, t) →
    (r.probeAnswer = true → exec (.status src) s = .next (t.modHub (fun h => { h with probed := h.probed.filter (· != src) }))) ∧
    (r.probeAnswer = false →
      let u := t.modStep r.slot (fun x => x.take r)
      (r.lost = none → r.miss = none → exec (.status src) s = .next (u.settlePass r.slot)) ∧
      (∀ st cause i, r.lost = some (st, cause, i) → r.miss = none → exec (.status src) s = .next
        (((u.failTile r.slot st cause i).settleShares r.slot).settlePass r.slot)) ∧
      (∀ m, r.lost = none → r.miss = some m → exec (.status src) s = .next
        (((u.missTile r.slot m).settleShares r.slot).settlePass r.slot)))) ∧
  (∀ (ls : Fin 16) (src : UnitId) (slot hop : Nat) (r : TxRecord) (last : Bool) (s t : State),
    s.recvTxn src (.ls ls) 0x04 = some (.lsend slot hop r last, t) → (∀ n, src ≠ .slice n) → exec (.lsend ls src) s = .next
      (t.modLink ls (fun x => { x with receivers := x.receivers.map (fun v => if v.slot == slot then v.accept r else v) }))) ∧
  (∀ (ls : Fin 16) (n : Fin 132) (slot hop : Nat) (r : TxRecord) (last : Bool) (s t : State),
    s.recvTxn (.slice n) (.ls ls) 0x04 = some (.lsend slot hop r last, t) →
    let u : State := t.modLink ls (fun x => { x with receivers := x.receivers.map (fun v => if v.slot == slot then v.accept r else v) })
    let named : List (Fin 16) := match t.step? slot with | some x => ((u.receiversOf x).map (·.2.1)).eraseDups.filter (· != ls) | none => []
    exec (.lsend ls (.slice n)) s = .next
      ((named.foldl (fun (w : State) l => w.post (.ls ls) (.ls l) (.lsend slot (hop + 1) r last)) u).post (.ls ls) (.slice n)
        (.ack slot .dst r.chainIdx))) ∧
  (∀ (n : Fin 132) (src : Fin 16) (frame : Nat) (bad : Bool) (s t : State), s.recvTxn (.ls src) (.slice n) 0x25 = some (.verdict frame bad, t) →
    exec (.verdict (.slice n) src) s = .next (t.takeVerdict n src frame bad)) ∧
  (∀ (dst : UnitId) (rx : Bool) (hdr : BitVec 128) (s : State), s.phase = .ready → s.unitUp dst = true →
    (s.fVer dst).isOpen = true → typeLegal (field hdr.toNat 0 8) rx = false → exec (.reservedTransaction dst rx hdr) s = .next
      (s.raise 0x900A none (unitNo dst) (field hdr.toNat 0 8) (field hdr.toNat 16 8)))

/-! ### Link stations (R256 to R261, R329, R330, R410 to R423) -/

/-- R256 to R259, R410: a beat is packed into the open frame, a first beat into a frame of its own when the next bank is free;
while it is not, no first beat is accepted. A beat outside any frame is discarded and a first mark inside an open frame ignored (the
model's choices, assumption 12). A frame that reaches 65,536 B with more to come is cut there (at the 512th beat that is not the
last: assumption 69), the beats behind being discarded; the read side reads completed words of the oldest frame not read to its end, and the last one releases the
bank. -/
def Obligations.IngressFifo : Prop :=
  (∀ (ls : Fin 16) (b : LBeat) (s : State), s.phase = .ready → s.linkUp ls = true → (s.link ls).lVer.isOpen = true →
    (∀ f, (s.link ls).openFrame = some f → exec (.lRxBeat ls b) s = .next ((s.modLink ls (fun y =>
      { y with rx := y.rx.map (fun k => if k.number == f.number then f.take b else k), dropping := (f.take b).whole && !b.last })).spend 5 1)) ∧
    ((s.link ls).openFrame = none → b.first = false →
      exec (.lRxBeat ls b) s = .next (s.modLink ls (fun y => { y with dropping := y.dropping && !b.last }))) ∧
    ((s.link ls).openFrame = none → b.first = true → (s.link ls).bankFree (s.link ls).nextBank = true →
      exec (.lRxBeat ls b) s = .next ((s.modLink ls (fun y =>
        { y with nextFrame := y.nextFrame + 1, dropping := false, rx := y.rx ++ [(y.newFrame b.src).take b] })).spend 5 1)) ∧
    ((s.link ls).openFrame = none → b.first = true → (s.link ls).bankFree (s.link ls).nextBank = false →
      exec (.lRxBeat ls b) s = .next s)) ∧
  (∀ (ls : Fin 16) (f : RxFrame) (s : State), s.phase = .ready → s.linkUp ls = true →
    (s.link ls).rx.find? (fun k => !k.released) = some f → f.readable s.hub.dict.cutThrough.toNat = true →
    exec (.ingressWordRead ls) s = .next ((s.modFrame ls f.number (fun k =>
      { k with
        wordsRead := k.wordsRead + 1
        released := (k.words.getD k.wordsRead { data := [], valid := 0, last := false }).last })).dropFrames ls)) ∧
  (∀ (f : RxFrame) (b : LBeat), (f.take b).whole = (b.last || decide (65536 ≤ 128 * (f.beats + 1))) ∧
    (f.take b).cutShort = (f.cutShort || (!b.last && decide (65536 ≤ 128 * (f.beats + 1)))))

/-- R260, R411, R414 to R416: the controller's verdict is taken for the oldest frame without one; a DATA frame goes, as far as
it has been read, to the RECV step it names; one that names none is discarded once it has been read and its verdict is
known (the model's reading, assumption 69). -/
def Sys2Proof.Claims.DataFrames : Prop :=
  (∀ (ls : Fin 16) (bad : Bool) (f : RxFrame) (s : State), s.phase = .ready → s.linkUp ls = true → (s.link ls).lVer.isOpen = true →
    (s.link ls).rx.find? (fun k => k.verdict.isNone) = some f → f.whole = true → exec (.frameVerdict ls bad) s = .next
      ((s.modFrame ls f.number (fun k => { k with verdict := some bad })).settleFrame ls f.number)) ∧
  (∀ (ls : Fin 16) (f : RxFrame) (s : State), s.frameNow ls isDataKind = some f →
    (∀ x, s.recvFor f.header = some x → x.phase ≠ .held → exec (.dataFrame ls) s = .next ((s.takeData ls f x).settleFrame ls f.number)) ∧
    (∀ bad, s.recvFor f.header = none → f.outcome = some bad → f.released = true →
      exec (.dataFrame ls) s = .next (s.discardFrame ls f (bad || f.matched))))

/-- R329, R330, R420: a good read request of a peer goes to its page's home station; an answer's tile goes to the request it
answers; a good ABSENT answer makes the requesting step miss with kind PEER_ABSENT, which the link station reports to the hub
(assumption 123). -/
def Sys2Proof.Claims.RemoteReads : Prop :=
  (∀ (ls : Fin 16) (f : RxFrame) (s : State), s.frameAt ls (· == 2) = some f → f.outcome = some false →
    (f.parse (s.link ls).version).2 = none → f.header.dstEngine = s.ident.engineId.toNat →
    exec (.rread ls) s = .next ((s.serveRequest ls f.header).frameDone ls f.number)) ∧
  (∀ (ls : Fin 16) (f : RxFrame) (r : RemoteRead) (s : State), s.frameNow ls (· == 3) = some f → s.requestOf ls f.header = some r →
    exec (.rdata ls) s = .next ((s.takeAnswer ls f r).settleFrame ls f.number)) ∧
  (∀ (ls : Fin 16) (f : RxFrame) (r : RemoteRead) (s : State), s.frameAt ls (· == 4) = some f → f.outcome = some false →
    s.requestOf ls f.header = some r → (f.parse (s.link ls).version).2 = none → exec (.absentFrame ls) s = .next
      (((s.endRequest ls r).frameDone ls f.number).missFetch (.ls ls) r.fetch
        { tile := r.fetch.chainIdx, kind := 4, station := (homeOf r.fetch.ctx (r.fetch.tileNo / 16)).1, level := 0
          page := r.fetch.tileNo / 16 }))

/-- Frames a link station has read (R260, R329, R330, R411, R414 to R416, R420). -/
def Obligations.ReceivedFrames : Prop := Claims.DataFrames ∧ Claims.RemoteReads


/-- R416, R417, R423: a good CREDIT frame reduces the outstanding bytes of the receivers it is from, in their order; the timer
credits all that is uncredited; a link station sends its oldest queued frame before any DATA frame, and with none queued
serves the first receiver it can (the order among receivers, and of queued frames before data, are the model's: assumption 71). -/
def Obligations.LinkSending : Prop :=
  (∀ (ls : Fin 16) (f : RxFrame) (s : State), s.frameAt ls (· == 5) = some f → f.outcome = some false →
    (f.parse (s.link ls).version).2 = none → f.header.dstEngine = s.ident.engineId.toNat →
    let mine := fun (r : Receiver) => r.engine == f.header.srcEngine && r.context == f.header.srcContext && (match s.step? r.slot with
      | some x => x.ctx.1 == f.header.dstContext && x.head.tag == f.header.tag
      | none => false)
    exec (.creditFrame ls) s = .next
      (((s.modLink ls (fun x => { x with receivers := creditReceivers mine f.header.credit x.receivers })).settleReceivers ls).frameDone ls
        f.number)) ∧
  (∀ (ls : Fin 16) (s : State), s.phase = .ready → s.linkUp ls = true →
    exec (.creditTimer ls) s = .next (s.sendCredits ls (fun u => u.bytes != 0)) ∧
    (∀ f rest, (s.link ls).lVer.isOpen = true → (s.link ls).tx = f :: rest → exec (.frameSend ls) s = .next (s.sendQueued ls f rest)) ∧
    (∀ t, (s.link ls).lVer.isOpen = true → (s.link ls).tx = [] → (s.link ls).receivers.findSome? (s.serveReceiver ls) = some t → exec (.frameSend ls) s = .next t)) ∧
  (∀ (mine : Receiver → Bool) (n : Nat) (rs : List Receiver),
    sumNat ((creditReceivers mine n rs).map (·.outBytes)) = sumNat (rs.map (·.outBytes)) - min n (sumNat ((rs.filter mine).map (·.outBytes))))

/-! ### Contexts, keys and scrubs (R281, R308, R309, R335 to R347, R359, R360, R371 to R375) -/

/-- R281, R338: a slice without an unfinished step of its context, or whose context's turn is over, is due to move to the
context that has waited longest; at its next boundary it is bound to that context, and a context whose state the hub holds
gets it back. What SWITCH_IDLE_TIMEOUT asks of an unbound slice and what a boundary is are assumption 68, that the timer rows fire
when they are sent is assumption 16, and a tie between contexts is assumption 97. -/
def Obligations.SliceMoves : Prop :=
  ∀ (sl : Fin 132) (d : Fin 64) (s : State), s.phase = .ready →
    ((s.slice sl).alive = true → s.nextContext sl = some d →
      ((∀ c, (s.slice sl).bound = some c → (s.slice sl).busyFor c = false) →
        exec (.switchIdleTimeout sl) s = .next (s.modSlice sl (fun y => { y with moveDue := some d }))) ∧
      ((s.slice sl).bound ≠ none → exec (.quantumExpiry sl) s = .next (s.modSlice sl (fun y => { y with moveDue := some d })))) ∧
    ((s.slice sl).moveDue = some d → (s.slice sl).awake = true →
      (∀ c, (s.slice sl).bound = some c → (s.slice sl).atBoundary c = true ∧ (s.slice sl).busyFor c = false) → s.left sl d = false →
      exec (.sliceContextMove sl) s = .next (s.modSlice sl (fun y => { y with bound := some d, moveDue := none })))

/-- R308, R309, R312, R360: an item whose retire epoch every step of its context has passed is released; a release is written
to the release ring while it has room, once the hub has read the ring's descriptor; once no step holds an epoch at or below the sweep's, the previous key slot is EMPTY. -/
def Obligations.Releases : Prop :=
  (∀ (c : Fin 64) (k : Nat) (rest : List (Nat × Retired)) (s : State), s.phase = .ready →
    takeRetired (s.epochClear c) (s.ctx c).retired = some (.shareRecord k, rest) →
    exec (.itemRelease c) s = .next (s.modCtx c (fun x => { x with retired := rest }))) ∧
  (∀ (c : Fin 64) (m st b src : Nat) (rest : List (Nat × Retired)) (s : State), s.phase = .ready →
    takeRetired (s.epochClear c) (s.ctx c).retired = some (.frame m st b src, rest) →
    exec (.itemRelease c) s = .next (s.modCtx c (fun x => { x with
      retired := rest, releases := x.releases ++ [.frame m st b src], frames := x.frames.filter (fun f => !(f.1 == m && f.2.1 == st)) }))) ∧
  (∀ (c : Fin 64) (m st src : Nat) (rest : List (Nat × Retired)) (s : State), s.phase = .ready →
    takeRetired (s.epochClear c) (s.ctx c).retired = some (.area m st src, rest) →
    exec (.itemRelease c) s = .next (s.modCtx c (fun x => { x with
      retired := rest, releases := x.releases ++ [.area m st src], frames := x.frames.filter (fun f => !(f.1 == m && f.2.1 == st)) }))) ∧
  (∀ (c : Fin 64) (m b src : Nat) (rest : List (Nat × Retired)) (s : State), s.phase = .ready →
    takeRetired (s.epochClear c) (s.ctx c).retired = some (.legendBlock m b src, rest) →
    exec (.itemRelease c) s = .next (s.modCtx c (fun x => { x with retired := rest, releases := x.releases ++ [.legendBlock m b src] }))) ∧
  (∀ (c : Fin 64) (s : State), s.cOpen = true → (s.ctx c).releases ≠ [] → (s.ctx c).ringSeen = false →
    exec (.releaseRecord c) s = .next (s.pollRing c) ∧ exec (.releaseRingPoll c) s = .next (s.pollRing c)) ∧
  (∀ (c : Fin 64) (s : State), s.cOpen = true → (s.ctx c).releases ≠ [] → (s.ctx c).ringSeen = true →
    (s.releaseRoom c ≠ 0 → exec (.releaseRecord c) s = .next (State.writeReleases c 1 s)) ∧
    exec (.releaseRingPoll c) s = .next ((State.writeReleases c (s.ctx c).releases.length s).pollRing c)) ∧
  (∀ (c : Fin 64) (s : State), s.phase = .ready → (s.ctx c).sweepDone = true → (s.ctx c).prev.state = .draining →
    s.epochClear c (s.ctx c).prevRetire.toNat = true →
    exec (.prevSlotRelease c) s = .next (s.modCtx c (fun y => { y with prev := KeySlot.empty })))

/-- R359, R360: SWEEP_DONE lets the stations go on with a context's re-wrap sweep; when every working station has passed its
leaves and refreshed what it rewrote, sweep_done is set, the retire epoch recorded and the read epoch advanced (R309, R360; that
SWEEP_DONE lets the stations go on, and which value the retire epoch takes, are assumption 75). A context that is not sweeping is
left alone (assumption 1). -/
def Obligations.SweepEnds : Prop :=
  ∀ (c : Fin 64) (s : State), s.phase = .ready →
    ((s.ctx c).sweeping = true → (s.sweepOn c).sweepOver c = true → exec (.sweepDone c) s = .next
      (((s.sweepOn c).modCtx c (fun x =>
        { x with
          sweeping := false
          sweepDone := true
          prevRetire := (s.sweepOn c).hub.readEpoch })).modHub (fun h => { h with readEpoch := h.readEpoch + 1 }))) ∧
    ((s.ctx c).sweeping = true → (s.sweepOn c).sweepOver c = false → exec (.sweepDone c) s = .next (s.sweepOn c)) ∧
    ((s.ctx c).sweeping = false → exec (.sweepDone c) s = .next s)

/-- A unit of a scrub more has been handed out: by a station, or under number 12 by the hub. -/
def Sys2Proof.unitTaken (t : State) (c : Fin 64) (k : Scrub) (no : Nat) : State :=
  t.modCtx c (fun x => { x with scrub := some { k with taken := (no, k.written no + 1) :: k.taken.filter (fun e => e.1 != no) } })

/-- R371 to R375: SCRUB_PHASE_2 takes the extents as the table has arrived and fixes scrub_cycles, an entry of length 0 raising
event 0x9007; SCRUB_END of a scrub whose every unit has been written leaves the context FREE with no one-time key. -/
def Obligations.ScrubPhases : Prop :=
  ∀ (c : Fin 64) (k : Scrub) (s : State), s.phase = .ready → (s.ctx c).scrub = some k →
    let n := (s.ctx c).scrubEntries.toNat
    let got := (List.range n).map (fun i => s.scrubExtent c k.asked i)
    let bad := (List.range n).filter (fun i => (got.getD i none).isNone)
    let working := (allFin 12).filter (fun m => s.stationUp m)
    let u := scrubU (got.filterMap id) working
    (k.phase2 = false → exec (.scrubPhase2 c) s = .next
      ((s.each bad (fun t i => t.raise 0x9007 (some c) 0xC0 i 0)).modCtx c (fun x =>
        { x with
          scrubCycles := BitVec.ofNat 64 (scrubL1 n + s.hub.dict.scrubInterval.toNat * u + 64)
          scrub := some { k with phase2 := true, extents := got.filterMap id, working := working, units := u } }))) ∧
    (k.phase2 = true → s.scrubDone k = true → exec (.scrubEnd c) s = .next (s.modCtx c (fun x =>
      { x with state := .free, keyed := false, scrub := none })))

/-- R285, R373, R374: SCRUB_UNIT writes the keystream of a working station's next unit: on its own stack with a window entry of
the write class, 2,048 B of its credit taken even below 0; in the near store through the N-port of its slice; and with no
station working the hub writes its own over the C-port (with station number 15 in the counter block: the model's choice, assumption
122). The written bytes count for the context (Table 14-9). -/
def Obligations.ScrubUnits : Prop :=
  ∀ (c : Fin 64) (k : Scrub) (a : Nat) (s : State), s.phase = .ready → (s.ctx c).scrub = some k → k.phase2 = true →
    let data (st : Nat) := scrubUnitBytes (keyBytes k.key) st (a / 16) k.serial.toNat
    (∀ (m : Fin 12) (id : Nat), s.stationUp m = true → k.unitOf m (k.written m.1) = some (true, a) →
      freeId 512 ((s.station m).window.map (·.id)) = some id →
      let q : MReq :=
        { cls := .write, wr := true, ctx := c, kind := .stitch, first := a, granules := 32
          ranges := [{ addr := a, len := 2048, data := data m.1, job := 0, off := 0, order := (s.station m).accepted, sweep := false }]
          scrub := true, fill := none }
      exec (.scrubUnit c (.ms m)) s = .next ((unitTaken (((s.writeStack m a (data m.1)).modStation m (fun x =>
        { x with
          window := x.window ++ [{ id := id, req := q, got := 0, data := [], bad := [] }]
          creditWrite := x.creditWrite - 2048 * 15360 })).mSent m q) c k m.1).tallyAdd (.ms m) c 2 2048)) ∧
    (∀ (m : Fin 12) (n : Fin 132), s.stationUp m = true → k.unitOf m (k.written m.1) = some (false, a) → s.nearSliceOf m = some n →
      exec (.scrubUnit c (.ms m)) s = .next ((unitTaken (s.naccWrite (.ms m) n 16384 a (data m.1)) c k m.1).tallyAdd (.ms m) c 2 2048)) ∧
    (k.working = [] → unitAt (k.extents.filter (fun e => e.station.isNone)) (k.written 12) = some a →
      exec (.scrubUnit c .hub) s = .next ((unitTaken (s.cRequest true a 2048 (data 15) .other) c k 12).tallyAdd .hub c 2 2048))

/-- R335, R336, Tables 10-1 and 10-2: a FREE context opens, keyed only with a tag of its own; an OPEN one closes and refuses to
open; SCRUBBING refuses CLOSE and every opening; a command in a state that refuses it answers STATE and does nothing else
(R14). The codes for OPEN_KEYED without a tag of its own and for CLOSE of a CLOSING context are the model's reading (assumption
25). -/
def Obligations.ContextCommands : Prop :=
  ∀ (c : Fin 64) (seq : BitVec 8) (rot : Bool) (s : State), s.phase = .ready →
    let frame (v : Nat) := writeFrame seq (0x3300 + c.1) 2 1 v
    let opened (keyed : Bool) : State :=
      { s.modCtx c (fun x => { x with state := .opened, keyed := keyed }) with tallyWire := s.tallyWire ++ [.opened c (s.ctx c).tag] }
    ((s.ctx c).state = .free → exec (.openUnkeyed c seq rot) s = .next ((opened false).answered (frame 1) 0x40 0)) ∧
    ((s.ctx c).state ≠ .free → exec (.openUnkeyed c seq rot) s = .next (s.answered (frame 1) 0x47 0)) ∧
    ((s.ctx c).state = .free → (s.ctx c).tag ≠ 0 → (∀ d, d ≠ c → (s.ctx d).state = .free ∨ (s.ctx d).tag ≠ (s.ctx c).tag) →
      exec (.openKeyed c seq rot) s = .next ((opened true).answered (frame 2) 0x40 0)) ∧
    ((s.ctx c).state ≠ .free ∨ (s.ctx c).tag = 0 ∨ (∃ d, d ≠ c ∧ (s.ctx d).state ≠ .free ∧ (s.ctx d).tag = (s.ctx c).tag) →
      exec (.openKeyed c seq rot) s = .next (s.answered (frame 2) 0x47 0)) ∧
    ((s.ctx c).state = .opened → exec (.close c seq rot) s = .next ((s.closeCtx c).answered (frame 3) 0x40 0)) ∧
    ((s.ctx c).state = .closing → exec (.close c seq rot) s = .next (s.answered (frame 3) 0x40 0)) ∧
    ((s.ctx c).state = .free ∨ (s.ctx c).state = .scrubbing → exec (.close c seq rot) s = .next (s.answered (frame 3) 0x47 0)) ∧
    ((s.ctx c).state = .opened ∨ (s.ctx c).state = .closing →
      exec (.abort c seq rot) s = .next ((s.abortCtx c 0x03).answered (frame 4) 0x40 0)) ∧
    ((s.ctx c).state = .free ∨ (s.ctx c).state = .scrubbing → exec (.abort c seq rot) s = .next (s.answered (frame 4) 0x40 0))

/-- Table 10-5, R346: the key commands of the root of trust, each when its row accepts it. The slot takes the staged key, and the
staging registers are zero after the command. -/
def Obligations.KeyCommands : Prop :=
  ∀ (c : Fin 64) (w : Fin 16) (seq : BitVec 8) (s : State), s.phase = .ready →
    let frame (op : Nat) := writeFrame seq 0x6000 0x0B 4 (keyCommandValue op c.1 0)
    let wframe (op : Nat) := writeFrame seq 0x6000 0x0B 4 (keyCommandValue op 0 w.1)
    let cmd (t : State) (v : Nat) : State := t.modHub (fun h => { h with keyCommand := BitVec.ofNat 32 v })
    (s.pins.hLocked = true → (s.ctx c).state = .opened → (s.ctx c).keyed = true → (s.ctx c).cur.state = .empty →
      (s.ctx c).prev.state = .empty → exec (.loadContext c seq true) s = .next
        ((((cmd s (keyCommandValue 1 c.1 0)).loadKey c).clearStage).answered (frame 1) 0x40 0)) ∧
    (s.pins.hLocked = true → (s.ctx c).state = .opened → (s.ctx c).keyed = true → (s.ctx c).cur.state = .loaded →
      (s.ctx c).prev.state = .empty → exec (.rotate c seq true) s = .next
        (((((cmd s (keyCommandValue 2 c.1 0)).modCtx c (fun x =>
          { x with
            prev := { x.cur with state := .draining }, cur := { state := .loaded, key := s.stagedKey, gen := x.cur.gen + 1 }
            sweeping := true, sweepAt := Vector.replicate 12 0, sweepPages := 0, sweepDone := false })).sweepOn c).clearStage).answered
          (frame 2) 0x40 0)) ∧
    (s.pins.hLocked = true → (s.ctx c).prev.state ≠ .empty → exec (.rotate c seq true) s = .next
      ((s.clearStage).answered (frame 2) 0x22 0)) ∧
    (s.pins.hLocked = false → exec (.loadContext c seq true) s = .next ((s.clearStage).answered (frame 1) 0x48 0)) ∧
    (s.pins.hLocked = true → (s.hub.weights[w.1]).state = .empty → exec (.loadWeight w seq true) s = .next
      ((((cmd s (keyCommandValue 3 0 w.1)).modHub (fun h => { h with weights := vmod h.weights w (fun x =>
        { x with state := .loading, key := s.stagedKey, nonce := s.hub.loadNonce, tilesLoaded := 0 }) })).clearStage).answered (wframe 3) 0x40 0)) ∧
    (s.pins.hLocked = true → (s.hub.weights[w.1]).state = .loading →
      (∀ y ∈ s.hub.steps, (y.open && s.isLoadStep y && y.head.weightSlot == w.1) = false) → exec (.sealWeight w seq true) s = .next
      ((((cmd s (keyCommandValue 4 0 w.1)).modHub (fun h => { h with weights := vmod h.weights w (fun x =>
        { x with state := .sealed }) })).clearStage).answered (wframe 4) 0x40 0)) ∧
    exec (.zeroiseContext c seq true) s = .next
      ((((((cmd s (keyCommandValue 5 c.1 0)).abortCtx c 0x01).modCtx c (fun x =>
        { x with cur := KeySlot.empty, prev := KeySlot.empty, atlasKey := none, sweeping := false })).raise 0x9019 none 0xC0 2 c.1).clearStage).answered
        (frame 5) 0x40 0) ∧
    ((∀ y ∈ s.hub.steps, s.usesWeight y w.1 = false) → exec (.zeroiseWeight w seq true) s = .next
      ((((cmd s (keyCommandValue 6 0 w.1)).zeroWeight w).raise 0x9019 none 0xC0 3 w.1).clearStage.answered (wframe 6) 0x40 0)) ∧
    exec (.measure seq true) s = .next
      (((cmd s (keyCommandValue 7 0 0)).measureNow.clearStage).answered (writeFrame seq 0x6000 0x0B 4 (keyCommandValue 7 0 0)) 0x40 0)

/-! ### The dictionary (R176, R345, R362, R376 to R378, R433 to R443, R449, R450, R483, R491, R495 to R497, R508) -/

/-- R14, R436, R437: a frame that the checks of Table 12-4 refuse has its response and no other effect: the code of the first
check that fails, value 0. Two things follow any frame of their object, refused or not: a frame of 0x9000 ends a peek at the
event log (R449), and a key command clears the staging registers (R346). -/
def Sys2Proof.Claims.RefusedFrames : Prop :=
  ∀ (frame : BitVec 128) (rot : Bool) (s : State), s.phase = .ready →
    let f := HReq.ofBits frame.toNat
    s.judge f rot ≠ 0x40 → f.idx ≠ 0x9000 → (f.idx ≠ 0x6000 ∨ f.sub ≠ 0x0B) →
    exec (.dictionaryWrite frame rot) s = .next (s.answered f (s.judge f rot) 0)

/-- R434, R435: a frame that reads a scalar object answers OK with the object's value and changes nothing but the response (a
frame of the event log's index apart); a WRITE that is accepted takes effect and answers OK with value 0. -/
def Sys2Proof.Claims.AcceptedFrames : Prop :=
  ∀ (frame : BitVec 128) (rot : Bool) (o : Obj) (s : State), s.phase = .ready →
    let f := HReq.ofBits frame.toNat
    s.judge f rot = 0x40 → f.idx ≠ 0x9000 → objOf s.hub.mirrorRecord.length f.idx f.sub = some o →
    (f.op = 1 → o.ty.segmented = false → exec (.dictionaryWrite frame rot) s = .next (s.answered f 0x40 (s.readScalar f.idx f.sub))) ∧
    (f.op = 2 → (f.idx ≠ 0x6000 ∨ f.sub ≠ 0x0B) → exec (.dictionaryWrite frame rot) s = .next ((s.applyWrite f).answered f 0x40 0))

/-- Table 12-4 in its order: an unassigned pair answers NO_OBJECT (0x41) before any other check of an object; a write to a
read-only object ACCESS (0x42); a frame with an op other than 1 to 4 TYPE (0x43). -/
def Obligations.FrameChecks : Prop :=
  (∀ (f : HReq) (rot : Bool) (s : State), s.phase = .ready → (f.op = 0 ∨ 4 < f.op) → s.judge f rot = 0x43) ∧
  (∀ (f : HReq) (rot : Bool) (s : State), s.phase = .ready → 1 ≤ f.op → f.op ≤ 4 → objOf s.hub.mirrorRecord.length f.idx f.sub = none →
    s.judge f rot = 0x41) ∧
  (∀ (f : HReq) (rot : Bool) (o : Obj) (s : State), s.phase = .ready → (f.op = 2 ∨ f.op = 4) →
    objOf s.hub.mirrorRecord.length f.idx f.sub = some o → typeOk o f = true → o.acc = .ro → s.judge f rot = 0x42) ∧
  (∀ (f : HReq) (s : State) (o : Obj), s.phase = .ready → (f.op = 2 ∨ f.op = 4) →
    objOf s.hub.mirrorRecord.length f.idx f.sub = some o → typeOk o f = true → o.acc = .rws → s.judge f false = 0x46)

/-- Table 12-9, R491, R492: DRAIN lets no step be dispatched and ends QUIESCED at once when none is dispatched and unfinished; RESUME
runs again; HALT ends every dispatched step ABORTED, cause LAST_WORD, its shares where they stand, and then drains (the record
follows with the step's completion: assumption 33). A RESUME's own end follows from that of the step it continues. -/
def Sys2Proof.Claims.QuiesceCommands : Prop :=
  ∀ (seq : BitVec 8) (rot : Bool) (s : State), s.phase = .ready →
    let frame (v : Nat) := writeFrame seq 0x2000 1 1 v
    let idle : Prop := s.hub.quiesce = .quiesced ∨ s.hub.steps.all (fun x => !x.unfinished) = true
    (∃ t, exec (.drain seq rot) s = .next t ∧ t.hub.response = some ((frame 1).response 0x40 0) ∧
      (idle → t.hub.quiesce = .quiesced) ∧ (¬idle → t.hub.quiesce = .draining) ∧
      t.hub.steps = s.hub.steps ∧ t.ctxs = s.ctxs ∧ t.slices = s.slices ∧ s.sameStores t) ∧
    exec (.quiesceResume seq rot) s = .next ((s.modHub (fun h => { h with quiesce := .running })).answered (frame 2) 0x40 0) ∧
    (∃ t, exec (.halt seq rot) s = .next t ∧ t.hub.response = some ((frame 3).response 0x40 0) ∧
      (idle → t.hub.quiesce = .quiesced) ∧ (¬idle → t.hub.quiesce = .draining) ∧ t.ctxs = s.ctxs ∧ s.sameStores t ∧
      (∀ (slot : Nat) (x : Step), s.step? slot = some x → x.running = true → x.target = none → ∃ y, t.step? slot = some y ∧
        y.running = true ∧ y.toDo = 0 ∧ y.miss = none ∧ y.asked = [] ∧
        y.conds = enterCond { status := 0x3F, cause := 0x03, tile := none } x.conds ∧
        ((∀ c ∈ x.conds, c.status ≠ 0x3F) → (bestCond y.allConds).status = 0x3F ∧ (bestCond y.allConds).cause = 0x03) ∧
        (∀ (n : Fin 132), ∀ h ∈ (t.slice n).shares, h.slot = slot →
          h.stop = some 0 ∧ h.inDone = true ∧ h.queue = [] ∧ h.coded = [] ∧ h.out = [] ∧ h.merge = none)))

/-- R443, Table 12-9: an accepted write of station_enable or link_enable fails the stations it clears and then brings those it newly
sets back to service; one with a port that its version sample disabled stays failed (the model's reading, assumption 30). A changed
value makes the measurement stale (R378). -/
def Sys2Proof.Claims.UnitEnables : Prop :=
  ∀ (v : BitVec 16) (seq : BitVec 8) (s : State), s.phase = .ready → s.quiescent = true →
    (s.stationsOk v.toNat = true →
      let off := (allFin 12).filter (fun m => bitAt s.hub.dict.stationEnable.toNat m.1 && !bitAt v.toNat m.1)
      let on := (allFin 12).filter (fun m => !bitAt s.hub.dict.stationEnable.toNat m.1 && bitAt v.toNat m.1)
      let s1 := off.foldl (fun t m => t.failStation m) s
      let s2 := on.foldl (fun t m => t.modStation m (fun x => { x with failed := x.mVer == .disabled || x.fVer == .disabled })) s1
      exec (.stationEnableWrite v seq true) s = .next
        ((s2.modHub (fun h =>
          { h with dict := { h.dict with stationEnable := BitVec.ofNat 16 (v.toNat % 2 ^ 12) }
                   stale := h.stale || BitVec.ofNat 16 (v.toNat % 2 ^ 12) != s.hub.dict.stationEnable })).answered
          (writeFrame seq 0x2000 0x10 2 v.toNat) 0x40 0) ∧
      (∀ m ∈ on, (s2.station m).failed = ((s2.station m).mVer == .disabled || (s2.station m).fVer == .disabled))) ∧
    (s.linksOk v.toNat = true →
      let off := (allFin 16).filter (fun l => bitAt s.hub.dict.linkEnable.toNat l.1 && !bitAt v.toNat l.1)
      let on := (allFin 16).filter (fun l => !bitAt s.hub.dict.linkEnable.toNat l.1 && bitAt v.toNat l.1)
      let s1 := off.foldl (fun t l => t.failLink l) s
      let s2 := on.foldl (fun t l => t.modLink l (fun x => { x with failed := x.lVer == .disabled || x.fVer == .disabled })) s1
      exec (.linkEnableWrite v seq true) s = .next
        ((s2.modHub (fun h =>
          { h with dict := { h.dict with linkEnable := BitVec.ofNat 16 v.toNat }
                   stale := h.stale || BitVec.ofNat 16 v.toNat != s.hub.dict.linkEnable })).answered
          (writeFrame seq 0x2000 0x11 2 v.toNat) 0x40 0) ∧
      (∀ l ∈ on, (s2.link l).failed = ((s2.link l).lVer == .disabled || (s2.link l).fVer == .disabled)))

/-- Quiescence and the enabling of stations (R443, R491, Table 12-9). -/
def Obligations.QuiesceAndEnables : Prop := Claims.QuiesceCommands ∧ Claims.UnitEnables


/-- R508: in QUIESCED, the root of trust activates a staged patch of nonzero length, which is measured at once with event
0x901A, or clears the active one. -/
def Sys2Proof.Claims.PatchCommands : Prop :=
  ∀ (seq : BitVec 8) (s : State), s.phase = .ready → s.hub.quiesce = .quiesced →
    (s.hub.patchLength ≠ 0 → ∃ t, exec (.activate seq true) s = .next t ∧
      t.hub.patchActive = some (s.hub.patchImage.read 0 s.hub.patchLength.toNat) ∧
      t.hub.measurement = sha384 (measuredBytes { s.hub with patchActive := t.hub.patchActive }) ∧
      t.hub.measureSeq = s.hub.measureSeq + 1 ∧ t.hub.counters.events = bump 0x901A 1 s.hub.counters.events ∧
      t.ctxs = s.ctxs ∧ t.slices = s.slices ∧ s.sameStores t) ∧
    exec (.clear seq true) s = .next
      ((s.modHub (fun h => { h with patchActive := none })).answered (writeFrame seq 0x2000 0x22 1 2) 0x40 0)

/-- R495, R497: a checkpoint builds the lifetime record of the latched counters, which carries checkpoint_seq as it stands, and then
increments it, with event 0x9017; checkpoint_now is BUSY while a record is in production, and a checkpoint that falls due then
follows that record (until when a record is in production, and which number it carries, are the model's reading: assumption 29). The
write of a record's last segment checks the whole image and adds its values to the lifetime counters, or refuses any further
segment when the record is not good. -/
def Sys2Proof.Claims.LifetimeData : Prop :=
  (∀ s : State, s.phase = .ready → s.hub.building = false → ∃ t, exec .lifetimeCheckpoint s = .next t ∧ t = s.checkpoint ∧
    t.hub.checkpointSeq = s.hub.checkpointSeq + 1 ∧ t.hub.building = true ∧
    t.hub.checkpointRecord.read 0 65536 = s.lifetimeRecord s.hub.checkpointSeq.toNat ∧
    t.hub.counters.events = bump 0x9017 1 s.hub.counters.events ∧ t.ctxs = s.ctxs ∧ s.sameStores t) ∧
  (∀ s : State, s.phase = .ready → s.hub.building = true →
    exec .lifetimeCheckpoint s = .next (s.modHub (fun h => { h with checkpointDue := true }))) ∧
  (∀ (seq : BitVec 8) (rot : Bool) (s : State), s.phase = .ready →
    (s.hub.building = false → exec (.checkpointNow 1 seq rot) s = .next (s.checkpoint.answered (writeFrame seq 0x7000 7 1 1) 0x40 0)) ∧
    (s.hub.building = true → exec (.checkpointNow 1 seq rot) s = .next (s.answered (writeFrame seq 0x7000 7 1 1) 0x49 0))) ∧
  (∀ (v : BitVec 64) (len seq : BitVec 8) (s : State), s.phase = .ready → 1 ≤ len.toNat → len.toNat ≤ 8 → s.hub.restoreFailed = false →
    let f : HReq := { op := 4, seq := seq.toNat, idx := 0x7000, sub := 8, seg := 8191, len := len.toNat, value := v.toNat }
    let img := s.hub.restoreImage.write 65528 (leBytes len.toNat v.toNat)
    let s1 := s.modHub (fun h => { h with restoreImage := img })
    (s1.restoreOk (img.read 0 65536) = true → ∃ t, exec (.lifetimeRestore v len seq true) s = .next t ∧
      t.hub.counters = s.hub.counters.plus (img.read 0 65536) ∧ t.hub.restored = true ∧
      t.hub.response = some (f.response 0x40 0) ∧ t.ctxs = s.ctxs ∧ s.sameStores t) ∧
    (s1.restoreOk (img.read 0 65536) = false → exec (.lifetimeRestore v len seq true) s = .next
      ((s1.modHub (fun h => { h with restoreFailed := true })).answered f 0x40 0)))

/-- Microcode patches and lifetime data (R495, R497, R508). -/
def Obligations.PatchAndLifetime : Prop := Claims.PatchCommands ∧ Claims.LifetimeData


/-- R176, R177, R449: a segment write of swatch_control starts the test on the logical slices it names, a slice without a
physical slice reporting it as skipped; a running test that ends reports the pass bit of each effort, none of a skipped one,
and raises event 0x9016 when an effort of a test that ran failed; READ_SEG of segment 1 of event_next answers with the
segment, removes the log's oldest entry behind a peek at segment 0, and without one removes nothing. The slice without a physical
one, and what a running test finds, are assumption 32, a segment 1 read without a peek is assumption 28. -/
def Obligations.SwatchAndEventLog : Prop :=
  (∀ (seg : BitVec 16) (v : BitVec 64) (len seq : BitVec 8) (rot : Bool) (s : State), s.phase = .ready → 1 ≤ len.toNat → len.toNat ≤ 8 →
    let f : HReq := { op := 4, seq := seq.toNat, idx := 0x7000, sub := 0x20, seg := seg.toNat, len := len.toNat, value := v.toNat }
    s.notBusy { f with value := f.value % 2 ^ (8 * f.len) } = true → ∃ t, exec (.swatchControl seg v len seq rot) s = .next t ∧
      t.hub.response = some (f.response 0x40 0) ∧ s.sameStores t ∧ t.slices = s.slices ∧
      (∀ l ∈ swatchNamed f, s.physOf l.1 = none → t.hub.swatch[l.1] = { pass := 0, done := true, skipped := true, running := false }) ∧
      (∀ l ∈ swatchNamed f, ∀ n, s.physOf l.1 = some n →
        t.hub.swatch[l.1] = { pass := 0, done := false, skipped := !s.swatchRuns n, running := true }) ∧
      (∀ l, l ∉ swatchNamed f → t.hub.swatch[l.1] = s.hub.swatch[l.1])) ∧
  (∀ (l : Fin 128) (n : Fin 132) (s : State), s.phase = .ready → s.physOf l.1 = some n → (s.hub.swatch[l.1]).running = true →
    (s.slice n).awake = true → ∃ t, exec (.swatchDone l) s = .next t ∧
      t.hub.swatch[l.1] = { s.hub.swatch[l.1] with pass := (t.hub.swatch[l.1]).pass, done := true, running := false } ∧
      (∀ e : Fin 8, (t.hub.swatch[l.1]).pass.getLsbD e.1 = (!(s.hub.swatch[l.1]).skipped && swatchPass e.1)) ∧
      t.hub.counters.events = (if (s.hub.swatch[l.1]).skipped ∨ ∀ e : Fin 8, swatchPass e.1 = true then s.hub.counters.events
        else bump 0x9016 1 s.hub.counters.events) ∧
      ((s.hub.swatch[l.1]).skipped = true → t.hub.log = s.hub.log) ∧
      t.slices = s.slices ∧ t.ctxs = s.ctxs ∧ s.sameStores t) ∧
  (∀ (seq : BitVec 8) (rot : Bool) (s : State), s.phase = .ready → ∃ t, exec (.eventNext seq rot) s = .next t ∧
    t.hub.log = (if s.hub.logPeeked then s.hub.log.drop 1 else s.hub.log) ∧ t.hub.logPeeked = false ∧
    t.hub.response = some (({ op := 3, seq := seq.toNat, idx := 0x9000, sub := 2, seg := 1, len := 0, value := 0 } : HReq).response 0x40
      (leNat (s.readBlob 0x9000 2 8 8))) ∧ t.ctxs = s.ctxs ∧
    t.slices = s.slices ∧ t.hub.counters = s.hub.counters ∧ s.sameStores t)

/-- R450, R483, R491: fence_slice of a slice that is neither fenced nor fused off fences it, and is refused of any other;
zeroise_all aborts the keyed contexts and leaves every key slot, weight slot, staged key and scrub key zero, with event
0x9019 (that the scrub root key is among them is assumption 106); the root of trust
binds contexts to a weight slot (R362). -/
def Obligations.LastWordCommands : Prop :=
  (∀ (n : Fin 132) (seq : BitVec 8) (rot : Bool) (s : State), s.phase = .ready →
    let f := writeFrame seq 0xA000 0x10 1 n.1
    ((s.slice n).alive = true → exec (.fenceSlice (BitVec.ofNat 8 n.1) seq rot) s = .next ((s.fence n).answered f 0x40 0)) ∧
    ((s.slice n).alive = false → exec (.fenceSlice (BitVec.ofNat 8 n.1) seq rot) s = .next (s.answered f 0x47 0))) ∧
  (∀ (seq : BitVec 8) (rot : Bool) (s : State), s.phase = .ready → ∃ t, exec (.zeroiseAll 1 seq rot) s = .next t ∧
    (∀ c : Fin 64, (t.ctx c).cur = KeySlot.empty ∧ (t.ctx c).prev = KeySlot.empty ∧ (t.ctx c).atlasKey = none) ∧
    (∀ w : Fin 16, (t.hub.weights[w.1]).state = .empty ∧ (t.hub.weights[w.1]).key = 0) ∧ t.hub.scrubRoot = 0 ∧
    (∀ (c : Fin 64) (k : Scrub), (t.ctx c).scrub = some k → k.key = 0) ∧ t.hub.keyStageLo = 0 ∧ t.hub.keyStageHi = 0 ∧
    t.hub.counters.events = bump 0x9019 1 (s.abortKeyed 0x03).hub.counters.events ∧
    t.hub.response = some ((writeFrame seq 0x6000 5 1 1).response 0x40 0)) ∧
  (∀ (w : Fin 16) (mask : BitVec 64) (seq : BitVec 8) (s : State), s.phase = .ready → s.bindOk w mask.toNat = true →
    exec (.bindMaskWrite w mask seq true) s = .next ((s.modHub (fun h => { h with weights := vmod h.weights w (fun x =>
      { x with bindMask := mask }) })).answered (writeFrame seq (0x6200 + w.1) 2 8 mask.toNat) 0x40 0))

/-- R439: a frame outside Table 12-5 that was not served in time is answered BUSY and has no effect but the response (and the
end of a peek at the event log: R449). -/
def Sys2Proof.Claims.FrameTimeout : Prop :=
  ∀ (frame : BitVec 128) (rot : Bool) (s : State), s.phase = .ready → lastWordAny (HReq.ofBits frame.toNat) = false →
    exec (.frameServiceTimeout frame rot) s = .next ((s.modHub (fun h =>
      { h with
        response := some ((HReq.ofBits frame.toNat).response 0x49 0)
        logPeeked := if (HReq.ofBits frame.toNat).idx = 0x9000 then false else h.logPeeked })).spend 8 2)

/-- How H-port frames are answered and what else they do (R14, R434 to R437, R439). -/
def Obligations.FrameAnswers : Prop := Claims.RefusedFrames ∧ Claims.AcceptedFrames ∧ Claims.FrameTimeout


/-! ### Counters, the tally, power (R368, R466 to R475, R494, R499 to R505) -/

/-- R368, R494: each millisecond the powered seconds and the ACTIVE times advance and every reading is latched; a lifetime record in
production is whole then, and one that fell due follows (R495; assumption 29). What a tick counts is assumption 31. -/
def Sys2Proof.Claims.CounterTicks : Prop :=
  ∀ s : State, s.phase = .ready → ∃ t, exec .counterTick s = .next t ∧ t.hub.ticks = s.hub.ticks + 1 ∧
    t.hub.counters.powerOnS = s.hub.counters.powerOnS + (if (s.hub.ticks + 1) % 1000 = 0 then 1 else 0) ∧
    (∀ n : Fin 132, t.slice n = { s.slice n with activeMs := (s.slice n).activeMs + (if (s.slice n).power = .active then 1 else 0) }) ∧
    t.hub.building = s.hub.checkpointDue ∧ t.hub.checkpointDue = false ∧
    t.hub.checkpointSeq = s.hub.checkpointSeq + (if s.hub.checkpointDue then 1 else 0) ∧
    t.hub.latched = t.exactCounters ∧ t.ctxs = s.ctxs ∧ t.stations = s.stations ∧ t.tally = s.tally ∧ s.sameStores t

/-- R500, R503, R504: a count adds to its quantity of its context's entry and an open message gives the entry its tag and next
serial, merging when it holds counts; a request for an epoch among those held is answered with that record and any other
with the all-ones word, in the order of requests and new records; what is offered first transfers first. Before the T-port
is open nothing is counted (assumption 35). The beats on the T-port, of 8 B each, count for the energy estimate (R474, assumption
6). -/
def Obligations.TallyMessages : Prop :=
  (∀ (u : UnitId) (m : TallyMsg) (rest : List TallyMsg) (s : State), s.tally.isOpen = false → s.tallyWire = m :: rest →
    (m.isCountOf u = true → exec (.tallyCount u) s = .next { s with tallyWire := rest }) ∧
    (m.isOpened = true → exec .tallyOpenMessage s = .next { s with tallyWire := rest }) ∧
    (∀ epoch, exec (.tallyRequest epoch) s = .next s)) ∧
  (∀ (u : UnitId) (c : Fin 64) (q a : Nat) (rest : List TallyMsg) (s : State), s.tally.isOpen = true →
    s.tallyWire = .count u c q a :: rest → exec (.tallyCount u) s = .next
      { s with tallyWire := rest, tally := { s.tally with entries := vmod s.tally.entries c (fun e => e.add q a) } }) ∧
  (∀ (c : Fin 64) (tag : BitVec 16) (rest : List TallyMsg) (s : State), s.tally.isOpen = true → s.tallyWire = .opened c tag :: rest →
    exec .tallyOpenMessage s = .next { s with
      tallyWire := rest
      tally := { s.tally with entries := vmod s.tally.entries c (fun e =>
        { e with tag := tag, opened := true, merged := e.merged || e.active, serial := e.serial + 1 }) } }) ∧
  (∀ (epoch : BitVec 64) (s : State), s.tally.isOpen = true →
    ((∃ r, (epoch, r) ∈ s.tally.kept) → exec (.tallyRequest epoch) s = .next
      ((s.modTally (fun t => { t with offers := t.offers ++ [.record epoch] })).spendTally 1)) ∧
    ((∀ r, (epoch, r) ∉ s.tally.kept) → exec (.tallyRequest epoch) s = .next
      ((s.modTally (fun t => { t with offers := t.offers ++ [.allOnes] })).spendTally 1))) ∧
  (∀ (rest : List TallyOffer) (s : State), s.tally.offers = .allOnes :: rest → exec .tallyRecordOffer s = .next
    ((s.modTally (fun t => { t with offers := rest, lastOffered := List.replicate 8 0xFF#8 })).spendTally 1)) ∧
  (∀ (epoch : BitVec 64) (r : Bytes) (rest : List TallyOffer) (s : State), s.tally.offers = .record epoch :: rest →
    s.tally.kept.find? (fun k => k.1 == epoch) = some (epoch, r) → exec .tallyRecordOffer s = .next
    ((s.modTally (fun t => { t with offers := rest, lastOffered := r })).spendTally (ceilDiv r.length 8)))

/-- R501, R504, Tables 14-10 and 14-11: an epoch's record is sealed, mirrored, kept among the most recent 16 and offered; the
next epoch begins with zero counts, the record's hash, and tag and serial of every entry kept. T_PORT_OPEN begins epoch 0
(R500). -/
def Obligations.EpochsSeal : Prop :=
  (∀ s : State, s.tally.isOpen = true → ∃ t, exec .epochEnd s = .next t ∧ t.tally.epoch = s.tally.epoch + 1 ∧ t.tally.first = false ∧
    t.tally.prevHash = sha384 s.tally.record ∧ t.hub.mirrorEpoch = s.tally.epoch ∧ t.hub.mirrorRecord = s.tally.record ∧
    t.tally.kept = ((s.tally.epoch, s.tally.record) :: s.tally.kept).take 16 ∧
    (∀ o ∈ s.tally.offers, ∀ e, o = .record e → o ∉ t.tally.offers → ∀ r, (e, r) ∉ t.tally.kept) ∧
    (∀ c : Fin 64, t.tally.entries[c.1] = { TallyEntry.zero with tag := (s.tally.entries[c.1]).tag, serial := (s.tally.entries[c.1]).serial }) ∧
    t.tallyWire = s.tallyWire ∧ t.ctxs = s.ctxs ∧ t.slices = s.slices ∧ s.sameStores t) ∧
  (∀ s : State, s.pins.tallySupply = true → s.tally.isOpen = false → exec .tPortOpen s = .next
    { s with tally := { Tally.reset with isOpen := true, notReady := !s.pins.ready } })

/-- R466 to R471: a slice's power states. An ACTIVE slice with no tile in a datapath enters IDLE; an IDLE one without work goes
DORMANT while the governor is not pinned, enough others stay ready and no other such slice has been IDLE longer; a DORMANT one that holds nothing goes OFF; a mapped
DORMANT or OFF slice with a wake condition starts its wake, and is ACTIVE when that completes. -/
def Obligations.SlicePower : Prop :=
  ∀ (sl : Fin 132) (s : State), s.phase = .ready →
    ((s.slice sl).power = .active → (s.slice sl).waking = false → (s.slice sl).noTile = true →
      exec (.idleEntry sl) s = .next (s.modSlice sl (fun y => { y with power := .idle, idleSince := s.now }))) ∧
    ((s.slice sl).power = .idle → s.hub.dict.governorPinned = false → (s.slice sl).shares = [] → s.dispatching sl = false →
      s.swatching sl = false → (∀ m, s.logicalOf m ≠ none → s.unused m = true → s.idlesBefore m sl = false) → (s.inUse = true → s.hub.dict.minReady.toNat + 1 ≤ s.readySlices) →
      exec (.dormantEntry sl) s = .next (s.modSlice sl (fun y => { y with power := .dormant }))) ∧
    ((s.slice sl).power = .dormant → (s.slice sl).waking = false → s.hub.dict.offMs ≠ 0 → s.hub.dict.governorPinned = false →
      s.holdsNothing sl = true → exec (.offEntry sl) s = .next (s.modSlice sl (fun y =>
        { y with power := .off, dFree := [], dFull := [], aDone := [], zeroLater := [] }))) ∧
    (∀ cause, (s.slice sl).power = .dormant ∨ (s.slice sl).power = .off → (s.slice sl).waking = false → s.logicalOf sl ≠ none →
      s.wakes sl cause = true → exec (.sliceWake sl cause) s = .next (s.modSlice sl (fun y => { y with waking := true }))) ∧
    ((s.slice sl).waking = true → (s.slice sl).alive = true → exec (.wakeComplete sl) s = .next (s.modSlice sl (fun y =>
      { y with power := .active, waking := false, zeroLater := [] })))

/-- R475: at a window's end sb_power_q shows floor(E / 0.05 J), at most 255 (E in picojoule), and a new window begins at 0. -/
def Sys2Proof.Claims.PowerTelemetry : Prop :=
  ∀ s : State, s.phase = .ready → ∃ t, exec .powerWindow s = .next t ∧
    t.pins.powerQ.toNat = min (s.hub.energy / (5 * 10 ^ 10)) 255 ∧
    t = { s with pins := { s.pins with powerQ := t.pins.powerQ }, hub := { s.hub with energy := 0 } }

/-- The millisecond tick and the power window (R368, R475, R494). -/
def Obligations.TicksAndPower : Prop := Claims.CounterTicks ∧ Claims.PowerTelemetry


/-! ### Faults (R480, R481, Table 14-4) -/

/-- R480: a corrected error is counted in its unit and has no other effect; an uncorrectable one is counted, raises event 0x9014
with its address, and has the effect Table 14-4 gives its place: a struck contour row or accumulator way is poisoned, the one tile of a
struck round stitch is zeroed and counted, granules of the request window come back as bad, a frame of the bank has a bad verdict, a struck step entry or context is aborted, a
weight slot is zeroised, and control state fails its unit. -/
def Sys2Proof.Claims.SramErrors : Prop :=
  ∀ (u : UnitId) (addr : BitVec 32) (s : State), s.phase = .ready → s.unitUp u = true →
    let hit := (s.countSram u false).raise 0x9014 none (unitNo u) addr.toNat 0
    (∀ place, exec (.sramError u true place addr) s = .next (s.countSram u true)) ∧
    (∀ n, u = .slice n →
      (∀ ok : Bool, s.countSram u ok = s.modSlice n (fun x =>
        { x with corrected := x.corrected + b2n ok, uncorrected := x.uncorrected + b2n (!ok) })) ∧
      exec (.sramError u false .sliceControl addr) s = .next (hit.fence n) ∧
      (∀ row, exec (.sramError u false (.contourRow row) addr) s = .next (hit.modSlice n (fun x =>
        { x with window := x.window.map (fun w => (w.1, w.2.1, modifyAt row (fun r => (r.1, true)) w.2.2)) }))) ∧
      (∀ (slot pos : Nat) (r : Role) (g : Share), (s.slice n).share slot = some g →
        exec (.sramError u false (.roundStitch slot r pos) addr) s = .next ((hit.modShare n slot (fun h =>
          { h with rounds := h.rounds.map (fun k => if k.role == r then k.modSlot pos zeroSlot else k) })).countIntegrity
          (sumNat (g.rounds.map (fun k => (k.slots.filter (fun q => k.role == r && q.pos == pos && q.holdsTile)).length))))) ∧
      (∀ (b : Fin 2) (set way : Nat), exec (.sramError u false (.accumulator b.1 set way) addr) s = .next (hit.modSlice n (fun x =>
        { x with banks := vmod x.banks b (fun k => { k with sets := k.sets.map (fun e =>
            if e.1 == set then (e.1, modifyAt way (fun a => { a with poison := true }) e.2) else e) }) })))) ∧
    (∀ m, u = .ms m →
      exec (.sramError u false .stationControl addr) s = .next (hit.failStation m) ∧
      exec (.sramError u false .cacheLine addr) s = .next hit ∧
      (∀ id g : Nat, exec (.sramError u false (.windowData id g) addr) s = .next (hit.modStation m (fun x =>
        { x with window := x.window.map (fun o =>
            if o.id == id && !o.req.wr then { o with bad := (o.req.first + 64 * g) :: o.bad } else o) })))) ∧
    (∀ l, u = .ls l →
      exec (.sramError u false .linkControl addr) s = .next (hit.failLink l) ∧
      (∀ b, exec (.sramError u false (.fifoBank b) addr) s = .next (hit.modLink l (fun x =>
        { x with rx := x.rx.map (fun f => if f.bank == b && !f.released then { f with struck := true } else f) })))) ∧
    (u = .hub →
      exec (.sramError u false .hubControl addr) s = .next hit.failHub ∧
      (∀ c, exec (.sramError u false (.contextState c) addr) s = .next (hit.abortCtx c 0x01)) ∧
      (∀ slot x, hit.step? slot = some x → exec (.sramError u false (.stepEntry slot) addr) s = .next (hit.abortCtx x.ctx 0x01)) ∧
      (∀ c, exec (.sramError u false (.contextKey c false) addr) s = .next
        ((hit.modCtx c (fun x => { x with cur := KeySlot.empty })).abortCtx c 0x01)) ∧
      (∀ w, exec (.sramError u false (.weightKey w) addr) s = .next
        ((hit.zeroWeight w).each ((allFin 64).filter (fun c => bitAt (hit.hub.weights[w.1]).bindMask.toNat c.1))
          (fun t c => t.abortCtx c 0x01))))

/-- R481: the hub probes every unit that has not failed; a probed unit that has not answered in time has failed. -/
def Sys2Proof.Claims.Probes : Prop :=
  (∀ s : State, s.phase = .ready → ∃ t, exec .probe s = .next t ∧ t.hub.probed = s.probeUnits ∧
    (∀ u ∈ s.probeUnits, ∃ q ∈ t.net, q.src = .hub ∧ q.dst = u ∧ q.body = .ctl .probe) ∧ (∃ more, t.net = s.net ++ more) ∧
    t.slices = s.slices ∧ t.ctxs = s.ctxs ∧ s.sameStores t) ∧
  (∀ s : State, (∀ n, .slice n ∈ s.probeUnits ↔ (s.slice n).alive = true) ∧ (∀ m, .ms m ∈ s.probeUnits ↔ s.stationUp m = true) ∧
    (∀ l, .ls l ∈ s.probeUnits ↔ s.linkUp l = true)) ∧
  (∀ (u : UnitId) (s : State), s.phase = .ready → u ∈ s.hub.probed → exec (.probeTimeout u) s = .next
    ((s.modHub (fun h => { h with probed := h.probed.filter (· != u) })).failUnit u))

/-- SRAM errors and probes (R480, R481). -/
def Obligations.ErrorsAndProbes : Prop := Claims.SramErrors ∧ Claims.Probes


/-- R483, R30: fencing a slice leaves it FENCED and holding nothing; its logical slice maps to the lowest remaining spare, which
starts its wake, or to none when no spare remains; fences are counted. That the first of the spares is the lowest: they are kept in
ascending order, which START_INSTANT gives them and every command keeps. -/
def Obligations.FenceRemaps : Prop :=
  (∀ (c : Instr) (s t : State), s.hub.spares.Pairwise (· < ·) → exec c s = .next t → t.hub.spares.Pairwise (· < ·)) ∧
  (∀ (p : Fin 132) (s : State), s.hub.spares.Pairwise (· < ·) → s.hub.spares.head? = some p → ∀ q ∈ s.hub.spares, p ≤ q) ∧
  ∀ (n : Fin 132) (i : Fin 128) (s : State), (s.slice n).alive = true → s.logicalOf n = some i → n ∉ s.hub.spares →
    (∀ k : Fin 128, k ≠ i → s.hub.map[k.1] ≠ some n) →
    ((s.fence n).slice n).power = .fenced ∧ ((s.fence n).slice n).shares = [] ∧ ((s.fence n).slice n).bound = none ∧
    (s.fence n).hub.map[i.1] = s.hub.spares.head? ∧ (s.fence n).hub.spares = s.hub.spares.drop 1 ∧
    (s.fence n).hub.counters.fences = s.hub.counters.fences + 1 ∧
    (∀ p, s.hub.spares.head? = some p → ((s.fence n).slice p).waking = true)

end
end

