-- ==== Sys2Proof/Laws/Memory.lean ====
section
/-! SUPPORT. The laws of a store: every write keeps the canonical form, a read after a write to the same place gives
the value written, and a write leaves every other place alone. -/
namespace Sys2Proof.Machine

/-- Every address of a store lies above `x`. -/
def Mem.above (x : Nat) (m : Mem) : Prop := ∀ p ∈ m, x < p.1

theorem Mem.wf_cons {a : Nat} {b : Byte} {m : Mem} :
    Mem.wf ((a, b) :: m) = true ↔ b ≠ unlisted ∧ Mem.above a m ∧ Mem.wf m = true := by
  induction m generalizing a b with
  | nil => simp [Mem.wf, Mem.above]
  | cons q m ih =>
    obtain ⟨a', b'⟩ := q
    constructor
    · intro h
      simp only [Mem.wf, Bool.and_eq_true, bne_iff_ne, decide_eq_true_eq] at h
      refine ⟨h.1.1, ?_, h.2⟩
      intro p hp
      rcases List.mem_cons.1 hp with rfl | hp
      · exact h.1.2
      · exact Nat.lt_trans h.1.2 ((ih.1 h.2).2.1 p hp)
    · rintro ⟨hb, ha, hw⟩
      simp only [Mem.wf, Bool.and_eq_true, bne_iff_ne, decide_eq_true_eq]
      exact ⟨⟨hb, ha _ (List.mem_cons_self ..)⟩, hw⟩

theorem Mem.above_cons {x a : Nat} {b : Byte} {m : Mem} : Mem.above x ((a, b) :: m) ↔ x < a ∧ Mem.above x m := by
  simp [Mem.above]

theorem Mem.above_trans {x y : Nat} {m : Mem} (h : Mem.above y m) (hxy : x < y) : Mem.above x m :=
  fun p hp => Nat.lt_trans hxy (h p hp)

theorem Mem.get_above {x : Nat} {m : Mem} (h : Mem.above x m) : m.get x = unlisted := by
  induction m with
  | nil => rfl
  | cons q m ih =>
    obtain ⟨a, b⟩ := q
    have h' := Mem.above_cons.1 h
    have hne : (a == x) = false := by simp; omega
    simp [Mem.get, hne, ih h'.2]

theorem Mem.wf_conses {x : Nat} {v : Byte} {m : Mem} (ha : Mem.above x m) (hm : m.wf = true) : (Mem.cons x v m).wf = true := by
  unfold Mem.cons
  split
  · exact hm
  · rename_i h
    exact Mem.wf_cons.2 ⟨by simpa using h, ha, hm⟩

theorem Mem.above_conses {x y : Nat} {v : Byte} {m : Mem} (hy : y < x) (hm : Mem.above y m) : Mem.above y (Mem.cons x v m) := by
  unfold Mem.cons
  split
  · exact hm
  · exact Mem.above_cons.2 ⟨hy, hm⟩

theorem Mem.get_conses {x : Nat} {v : Byte} {m : Mem} (ha : Mem.above x m) (y : Nat) :
    (Mem.cons x v m).get y = if y = x then v else m.get y := by
  unfold Mem.cons
  by_cases hv : v = unlisted
  · subst hv
    by_cases hy : y = x
    · subst hy; simp [Mem.get_above ha]
    · simp [hy]
  · have : (v == unlisted) = false := by simpa using hv
    by_cases hy : y = x
    · subst hy; simp [this, Mem.get]
    · have : (x == y) = false := by simpa using fun h => hy h.symm
      simp [hv, Mem.get, this, hy]

theorem Mem.above_set {x y : Nat} {v : Byte} {m : Mem} (hy : y < x) (hm : Mem.above y m) : Mem.above y (m.set x v) := by
  induction m with
  | nil => exact Mem.above_conses hy (by simp [Mem.above])
  | cons q m ih =>
    obtain ⟨a, b⟩ := q
    have h' := Mem.above_cons.1 hm
    unfold Mem.set
    split
    · exact Mem.above_conses hy hm
    · split
      · exact Mem.above_conses hy h'.2
      · exact Mem.above_cons.2 ⟨h'.1, ih h'.2⟩

/-- Writing one byte keeps the canonical form. -/
theorem Mem.wf_set {m : Mem} (hm : m.wf = true) (x : Nat) (v : Byte) : (m.set x v).wf = true := by
  induction m with
  | nil => exact Mem.wf_conses (by simp [Mem.above]) rfl
  | cons q m ih =>
    obtain ⟨a, b⟩ := q
    obtain ⟨hb, ha, hw⟩ := Mem.wf_cons.1 hm
    unfold Mem.set
    split
    · rename_i h
      exact Mem.wf_conses (Mem.above_cons.2 ⟨h, Mem.above_trans ha h⟩) hm
    · rename_i h
      split
      · rename_i he
        have he : x = a := by simpa using he
        subst he
        exact Mem.wf_conses ha hw
      · rename_i he
        have he : x ≠ a := by simpa using he
        exact Mem.wf_cons.2 ⟨hb, Mem.above_set (by omega) ha, ih hw⟩

/-- A read after writing one byte: the byte written at its place, the old byte elsewhere. -/
theorem Mem.get_set {m : Mem} (hm : m.wf = true) (x : Nat) (v : Byte) (y : Nat) :
    (m.set x v).get y = if y = x then v else m.get y := by
  induction m with
  | nil => exact Mem.get_conses (by simp [Mem.above]) y
  | cons q m ih =>
    obtain ⟨a, b⟩ := q
    obtain ⟨hb, ha, hw⟩ := Mem.wf_cons.1 hm
    unfold Mem.set
    split
    · rename_i h
      exact Mem.get_conses (Mem.above_cons.2 ⟨h, Mem.above_trans ha h⟩) y
    · rename_i h
      split
      · rename_i he
        have he : x = a := by simpa using he
        subst he
        rw [Mem.get_conses ha]
        by_cases hy : y = x
        · simp [hy]
        · have : (x == y) = false := by simpa using fun h => hy h.symm
          simp [Mem.get, hy, this]
      · rename_i he
        have he : x ≠ a := by simpa using he
        simp only [Mem.get]
        by_cases hay : a = y
        · subst hay; simp [Ne.symm he]
        · have : (a == y) = false := by simpa using hay
          simp [this, ih hw]

/-- Writing a byte string keeps the canonical form. -/
theorem Mem.wf_write {m : Mem} (hm : m.wf = true) (a : Nat) (bs : Bytes) : (m.write a bs).wf = true := by
  induction bs generalizing m a with
  | nil => exact hm
  | cons b bs ih => exact ih (Mem.wf_set hm a b) (a + 1)

/-- A read of one byte after writing a byte string: the string inside its range, the old byte outside. -/
theorem Mem.get_write {m : Mem} (hm : m.wf = true) (a : Nat) (bs : Bytes) (y : Nat) :
    (m.write a bs).get y = if a ≤ y ∧ y < a + bs.length then bs.getD (y - a) unlisted else m.get y := by
  induction bs generalizing m a with
  | nil =>
    simp only [Mem.write, List.length_nil, Nat.add_zero]
    split
    · omega
    · rfl
  | cons b bs ih =>
    simp only [Mem.write]
    rw [ih (Mem.wf_set hm a b) (a + 1), Mem.get_set hm]
    by_cases hy : y = a
    · subst hy
      simp
    · by_cases hin : a + 1 ≤ y ∧ y < a + 1 + bs.length
      · have h2 : a ≤ y ∧ y < a + (b :: bs).length := by simp; omega
        have h3 : y - a = (y - (a + 1)) + 1 := by omega
        rw [if_pos hin, if_pos h2, h3]
        simp
      · have h2 : ¬ (a ≤ y ∧ y < a + (b :: bs).length) := by simp; omega
        rw [if_neg hin, if_neg h2, if_neg hy]

/-- A write leaves every byte outside its range alone. -/
theorem Mem.get_write_outside {m : Mem} (hm : m.wf = true) {a : Nat} {bs : Bytes} {y : Nat}
    (h : y < a ∨ a + bs.length ≤ y) : (m.write a bs).get y = m.get y := by
  rw [Mem.get_write hm, if_neg (by omega)]

theorem Mem.length_read (m : Mem) (a n : Nat) : (m.read a n).length = n := by
  induction n generalizing a with
  | zero => rfl
  | succ n ih => simp [Mem.read, ih]

/-- The bytes of a read, one by one. -/
theorem Mem.getElem?_read (m : Mem) (a n i : Nat) (h : i < n) : (m.read a n)[i]? = some (m.get (a + i)) := by
  induction n generalizing a i with
  | zero => omega
  | succ n ih =>
    cases i with
    | zero => simp [Mem.read]
    | succ i =>
      simp only [Mem.read, List.getElem?_cons_succ]
      rw [ih (a + 1) i (by omega)]
      congr 2
      omega

/-- A read of the range just written gives the string. -/
theorem Mem.read_write {m : Mem} (hm : m.wf = true) (a : Nat) (bs : Bytes) : (m.write a bs).read a bs.length = bs := by
  apply List.ext_getElem?
  intro i
  by_cases h : i < bs.length
  · rw [Mem.getElem?_read _ _ _ _ h, Mem.get_write hm, if_pos (by omega)]
    simp [h]
  · rw [List.getElem?_eq_none (by rw [Mem.length_read]; omega), List.getElem?_eq_none (by omega)]

end Sys2Proof.Machine
end

