-- ==== Sys2Proof/Laws/Keeps.lean ====
section
/-! SUPPORT. What every operation of the block keeps: the canonical form of the stores, the queue, the cycle count, the
identity, the tally's figures, the input pins, the power state of dead slices; spares are only taken, the operating point stays requested
idle while the thermal pin is high, the start-up phase is left only for a hub
failure, and free values are drawn in order. One lemma per operation says so once. -/
namespace Sys2Proof.Machine

/-- The tally's figures: all of it but the three flags that resets and hub failures may set (R505). -/
def Tally.figures (t : Tally) : Tally := { t with resetSeen := false, supplyLost := false, notReady := false }

/-- What an operation keeps. -/
structure Keeps (s t : State) : Prop where
  stores : s.storesWf → t.storesWf
  queue : t.pending = s.pending
  clock : t.now = s.now
  ident : t.ident = s.ident
  tally : t.tally.figures = s.tally.figures
  supply : t.pins.supplyValid = s.pins.supplyValid
  tallySupply : t.pins.tallySupply = s.pins.tallySupply
  thermal : t.pins.thermal = s.pins.thermal
  locked : t.pins.hLocked = s.pins.hLocked
  grant : t.pins.opGrant = s.pins.opGrant
  phase : t.phase = s.phase ∨ t.phase = .hubFailed
  free : s.freeCtr ≤ t.freeCtr
  dead : ∀ n, (s.slice n).alive = false → (t.slice n).power = (s.slice n).power
  spares : t.hub.spares.Sublist s.hub.spares
  request : s.pins.thermal = true → s.pins.opReq = 2 → t.pins.opReq = 2

/-- An update of the hub that leaves its spares. -/
def Hub.SparesStay (f : Hub → Hub) : Prop := ∀ x : Hub, (f x).spares = x.spares

theorem Hub.sparesStay_of {f : Hub → Hub} (h : ∀ x, (f x).spares = x.spares) : Hub.SparesStay f := h

/-- An update of a slice that leaves the power state of a dead slice. -/
def Slice.StaysDead (f : Slice → Slice) : Prop := ∀ x : Slice, x.alive = false → (f x).power = x.power

theorem Slice.staysDead_of {f : Slice → Slice} (h : ∀ x, (f x).power = x.power) : Slice.StaysDead f := fun x _ => h x

theorem Slice.staysDead_alive {f : Slice → Slice} (h : ∀ x, x.alive = false → (f x).power = x.power) :
    Slice.StaysDead f := h

theorem Slice.alive_of_power {x y : Slice} (h : x.power = y.power) : x.alive = y.alive := by unfold Slice.alive; rw [h]

theorem Keeps.refl (s : State) : Keeps s s :=
  ⟨id, rfl, rfl, rfl, rfl, rfl, rfl, rfl, rfl, rfl, .inl rfl, Nat.le_refl _, fun _ _ => rfl,
    List.Sublist.refl _, fun _ h => h⟩

variable {s0 s t : State}

theorem Keeps.trans (h : Keeps s0 s) (k : Keeps s t) : Keeps s0 t where
  stores := k.stores ∘ h.stores
  queue := k.queue.trans h.queue
  clock := k.clock.trans h.clock
  ident := k.ident.trans h.ident
  tally := k.tally.trans h.tally
  supply := k.supply.trans h.supply
  tallySupply := k.tallySupply.trans h.tallySupply
  thermal := k.thermal.trans h.thermal
  locked := k.locked.trans h.locked
  grant := k.grant.trans h.grant
  phase := by
    rcases k.phase with e | e
    · rcases h.phase with f | f
      · exact .inl (e.trans f)
      · exact .inr (e.trans f)
    · exact .inr e
  free := Nat.le_trans h.free k.free
  dead := fun n hn => by
    have e := h.dead n hn
    exact (k.dead n ((Slice.alive_of_power e).trans hn)).trans e
  spares := k.spares.trans h.spares
  request := fun a b => k.request (h.thermal.trans a) (h.request a b)

theorem vmod_getElem {α : Type} {n : Nat} (v : Vector α n) (i : Fin n) (f : α → α) (j : Nat) (hj : j < n) :
    (vmod v i f)[j] = if i.1 = j then f v[i.1] else v[j] := by
  unfold vmod
  rw [Vector.getElem_set]

theorem Keeps.modHubSub (h : Keeps s0 s) {f : Hub → Hub} (hf : ∀ x : Hub, (f x).spares.Sublist x.spares) :
    Keeps s0 (s.modHub f) :=
  h.trans { (Keeps.refl s) with spares := hf s.hub }

theorem Keeps.modHub (h : Keeps s0 s) {f : Hub → Hub} (hf : Hub.SparesStay f) : Keeps s0 (s.modHub f) :=
  h.modHubSub fun x => (hf x).symm ▸ List.Sublist.refl _

theorem Keeps.modCtx (h : Keeps s0 s) {c : Fin 64} {f : Context → Context} : Keeps s0 (s.modCtx c f) :=
  h.trans { (Keeps.refl s) with }

theorem Keeps.modStation (h : Keeps s0 s) {m : Fin 12} {f : Station → Station} : Keeps s0 (s.modStation m f) :=
  h.trans { (Keeps.refl s) with }

theorem Keeps.modLink (h : Keeps s0 s) {l : Fin 16} {f : Link → Link} : Keeps s0 (s.modLink l f) :=
  h.trans { (Keeps.refl s) with }

theorem Keeps.modRing (h : Keeps s0 s) {c : Fin 64} {r : Fin 4} {f : RingPair → RingPair} : Keeps s0 (s.modRing c r f) :=
  h.modCtx

theorem Keeps.modSlice (h : Keeps s0 s) {n : Fin 132} {f : Slice → Slice} (hf : Slice.StaysDead f) :
    Keeps s0 (s.modSlice n f) :=
  h.trans
    { (Keeps.refl s) with
      dead := fun k hk => by
        unfold State.slice State.modSlice at *
        simp only [vmod_getElem]
        split
        · rename_i e
          have e : n = k := Fin.ext e
          subst e
          exact hf _ hk
        · rfl }

theorem Keeps.modSliceAlive (h : Keeps s0 s) {n : Fin 132} {f : Slice → Slice} (ha : (s.slice n).alive = true) :
    Keeps s0 (s.modSlice n f) :=
  h.trans
    { (Keeps.refl s) with
      dead := fun k hk => by
        unfold State.slice State.modSlice at *
        simp only [vmod_getElem]
        split
        · rename_i e
          have e : n = k := Fin.ext e
          subst e
          rw [ha] at hk
          cases hk
        · rfl }

theorem Keeps.mapSlices (h : Keeps s0 s) {f : Slice → Slice} (hf : Slice.StaysDead f) :
    Keeps s0 { s with slices := s.slices.map f } :=
  h.trans
    { (Keeps.refl s) with
      dead := fun k hk => by
        unfold State.slice at *
        simp only [Vector.getElem_map]
        exact hf _ hk }

theorem Keeps.each (h : Keeps s0 s) {α : Type} {xs : List α} {f : State → α → State}
    (hf : ∀ t x, Keeps s0 t → Keeps s0 (f t x)) : Keeps s0 (s.each xs f) := by
  unfold State.each
  induction xs generalizing s with
  | nil => exact h
  | cons x xs ih => exact ih (hf s x h)

theorem Keeps.foldl (h : Keeps s0 s) {α : Type} {xs : List α} {f : State → α → State}
    (hf : ∀ t x, Keeps s0 t → Keeps s0 (f t x)) : Keeps s0 (xs.foldl f s) := Keeps.each h hf

theorem Keeps.draw (h : Keeps s0 s) : Keeps s0 s.draw.2 :=
  h.trans { (Keeps.refl s) with free := Nat.le_succ _ }

theorem Keeps.writeNear (h : Keeps s0 s) {a : Nat} {bs : Bytes} : Keeps s0 (s.writeNear a bs) :=
  h.trans { (Keeps.refl s) with stores := fun w => ⟨Mem.wf_write w.1 a bs, w.2⟩ }

theorem Keeps.writeStack (h : Keeps s0 s) {m : Fin 12} {a : Nat} {bs : Bytes} : Keeps s0 (s.writeStack m a bs) :=
  h.trans
    { (Keeps.refl s) with
      stores := fun w => ⟨w.1, fun k => by
        unfold State.stack State.writeStack
        simp only [vmod_getElem]
        split
        · exact Mem.wf_write (w.2 m) a bs
        · exact w.2 k⟩ }

theorem Keeps.learnNear (h : Keeps s0 s) {a : Nat} {bs : Bytes} {bad : List Nat} : Keeps s0 (s.learnNear a bs bad) :=
  Keeps.trans (h.writeNear (a := a) (bs := bs)) { (Keeps.refl (s.writeNear a bs)) with }

theorem Keeps.learnStack (h : Keeps s0 s) {m : Fin 12} {a : Nat} {bs : Bytes} {bad : List Nat} :
    Keeps s0 (s.learnStack m a bs bad) :=
  Keeps.trans (h.writeStack (m := m) (a := a) (bs := bs)) { (Keeps.refl (s.writeStack m a bs)) with }

/-- Any change of the fields that Keeps does not speak of. -/
theorem Keeps.fields (h : Keeps s0 s) {hub : Hub} {ctxs : Vector Context 64} {stations : Vector Station 12}
    {links : Vector Link 16} {net : List Txn} {nearBad : List Nat} {stackBad : Vector (List Nat) 12} {wire : List TallyMsg}
    (hh : hub.spares = s.hub.spares) :
    Keeps s0 { s with hub := hub, ctxs := ctxs, stations := stations, links := links, net := net, nearBad := nearBad
                      stackBad := stackBad, tallyWire := wire } :=
  h.trans { (Keeps.refl s) with spares := hh.symm ▸ List.Sublist.refl _ }

/-- The same with every slice changed. -/
theorem Keeps.fieldsSlices (h : Keeps s0 s) {hub : Hub} {ctxs : Vector Context 64} {f : Slice → Slice}
    {stations : Vector Station 12} {links : Vector Link 16} {net : List Txn} {nearBad : List Nat}
    {stackBad : Vector (List Nat) 12} {wire : List TallyMsg} (hf : Slice.StaysDead f)
    (hh : hub.spares = s.hub.spares) :
    Keeps s0 { s with hub := hub, ctxs := ctxs, slices := s.slices.map f, stations := stations, links := links, net := net
                      nearBad := nearBad, stackBad := stackBad, tallyWire := wire } :=
  Keeps.trans (h.mapSlices hf) { (Keeps.refl { s with slices := s.slices.map f }) with spares := hh.symm ▸ List.Sublist.refl _ }

/-- The same with every slice given anew. -/
theorem Keeps.ofFnSlices (h : Keeps s0 s) {g : Fin 132 → Slice} {hub : Hub} {stations : Vector Station 12}
    (hg : ∀ n, (g n).power = (s.slice n).power) (hh : hub.spares = s.hub.spares) :
    Keeps s0 { s with hub := hub, slices := Vector.ofFn g, stations := stations } :=
  h.trans
    { (Keeps.refl s) with
      dead := fun n _ => by
        unfold State.slice
        rw [Vector.getElem_ofFn]
        exact hg n
      spares := hh.symm ▸ List.Sublist.refl _ }

theorem Keeps.ite (c : Prop) [Decidable c] (h : Keeps s0 s) (k : Keeps s0 t) : Keeps s0 (if c then s else t) := by
  split
  · exact h
  · exact k

/-- An optional result keeps what an operation keeps. -/
def KeepsO (z : State) (o : Option State) : Prop := ∀ t, o = some t → Keeps z t

theorem KeepsO.none {z : State} : KeepsO z none := fun _ e => nomatch e

theorem KeepsO.some {z : State} (h : Keeps z t) : KeepsO z (some t) := fun _ e => Option.some.inj e ▸ h

theorem KeepsO.out {z : State} {o : Option State} (h : KeepsO z o) (e : o = .some t) : Keeps z t := h t e

theorem KeepsO.findSome {z : State} {α : Type} {xs : List α} {f : α → Option State} (h : ∀ a, KeepsO z (f a)) :
    KeepsO z (xs.findSome? f) := by
  intro t e
  obtain ⟨a, -, ha⟩ := List.exists_of_findSome?_eq_some e
  exact h a t ha

theorem KeepsO.bind {z : State} {α : Type} {o : Option α} {f : α → Option State} (h : ∀ a, KeepsO z (f a)) :
    KeepsO z (o.bind f) := by
  cases o with
  | none => exact KeepsO.none
  | some a => exact h a

theorem KeepsO.map {z : State} {α : Type} {o : Option α} {f : α → State} (h : ∀ a, Keeps z (f a)) : KeepsO z (o.map f) := by
  cases o with
  | none => exact KeepsO.none
  | some a => exact KeepsO.some (h a)

theorem KeepsO.getD {z : State} {o : Option State} (h : KeepsO z o) (hk : Keeps z s) : Keeps z (o.getD s) := by
  cases o with
  | none => exact hk
  | some a => exact h a rfl

/-- A command's outcome keeps what an operation keeps. -/
def KeepsX (z : State) (o : Host.Outcome State Fault Refusal) : Prop := ∀ t, o = .next t → Keeps z t

theorem KeepsX.next {z : State} (h : Keeps z t) : KeepsX z (.next t) := fun _ e => Host.Outcome.next.inj e ▸ h

theorem KeepsX.fault {z : State} {f : Fault} : KeepsX z (.fault f) := fun _ e => nomatch e

end Sys2Proof.Machine
end

