-- ==== Sys2Proof/Laws/KeepsOps.lean ====
section
/-! SUPPORT. Keeps, for the operations of Machine/Ops.lean. -/
namespace Sys2Proof.Machine

theorem Slice.touch_power {x : Slice} (h : x.alive = false) : x.touch.power = x.power := by
  unfold Slice.touch
  split
  · rename_i e
    have e : x.power = .idle := by simpa using e
    simp [Slice.alive, e] at h
  · rfl

theorem Keeps.raise {z : State} {s : State} {code : Nat} {ctx : Option (Fin 64)} {unit : Nat} {a0 a1 : Nat} (hk : Keeps z s) :
    Keeps z (State.raise s code ctx unit a0 a1) := by
  dsimp only [State.raise]
  repeat' first
    | with_reducible assumption
    | ((with_reducible apply Hub.sparesStay_of); intro _; rfl)
    | with_reducible apply Keeps.modHub

theorem Keeps.count {z : State} {s : State} {f : Counters → Counters} (hk : Keeps z s) :
    Keeps z (State.count s f) := by
  dsimp only [State.count]
  repeat' first
    | with_reducible assumption
    | ((with_reducible apply Hub.sparesStay_of); intro _; rfl)
    | with_reducible apply Keeps.modHub

theorem Keeps.countIntegrity {z : State} {s : State} {n : Nat} (hk : Keeps z s) :
    Keeps z (State.countIntegrity s n) := by
  dsimp only [State.countIntegrity]
  repeat' first
    | with_reducible assumption
    | with_reducible apply Keeps.count

theorem Keeps.tallyAdd {z : State} {s : State} {src : UnitId} {c : Fin 64} {quantity amount : Nat} (hk : Keeps z s) :
    Keeps z (State.tallyAdd s src c quantity amount) := by
  dsimp only [State.tallyAdd]
  repeat' first
    | with_reducible assumption
    | with_reducible apply Keeps.count
    | exact (rfl : (_ : List (Fin 132)) = _)
    | split
    | dsimp only
    | intro _
    | fail_if_no_progress with_reducible apply Keeps.fields

theorem Keeps.spend {z : State} {s : State} {k n : Nat} (hk : Keeps z s) :
    Keeps z (State.spend s k n) := by
  dsimp only [State.spend]
  repeat' first
    | with_reducible assumption
    | ((with_reducible apply Hub.sparesStay_of); intro _; rfl)
    | with_reducible apply Keeps.modHub

theorem Keeps.spendCodec {z : State} {s : State} {compress : Bool} {fmt n : Nat} (hk : Keeps z s) :
    Keeps z (State.spendCodec s compress fmt n) := by
  dsimp only [State.spendCodec]
  repeat' first
    | with_reducible assumption
    | with_reducible apply Keeps.spend

theorem Keeps.spendAes {z : State} {s : State} {c : Fin 64} {n : Nat} (hk : Keeps z s) :
    Keeps z (State.spendAes s c n) := by
  dsimp only [State.spendAes]
  repeat' first
    | with_reducible assumption
    | with_reducible apply Keeps.spend
    | split

theorem Keeps.settleOpReq {z s : State} (h : Keeps z s) : Keeps z s.settleOpReq :=
  h.trans
    { (Keeps.refl s) with
      request := fun a _ => by
        unfold State.settleOpReq
        simp [a] }

theorem Keeps.post {z : State} {s : State} {src dst : UnitId} {b : Body} (hk : Keeps z s) :
    Keeps z (State.post s src dst b) := by
  dsimp only [State.post]
  repeat' first
    | with_reducible assumption
    | exact (rfl : (_ : List (Fin 132)) = _)
    | split
    | dsimp only
    | intro _
    | fail_if_no_progress with_reducible apply Keeps.fields

theorem Keeps.rouse {z : State} {s : State} {dst : UnitId} {b : Body} (hk : Keeps z s) :
    Keeps z (State.rouse s dst b) := by
  dsimp only [State.rouse]
  repeat' first
    | with_reducible assumption
    | ((with_reducible apply Slice.staysDead_alive); intro _ q; exact Slice.touch_power q)
    | with_reducible apply Keeps.modSlice
    | split

theorem Keeps.recvTxn {z s : State} {src dst : UnitId} {code : Nat} {b : Body} {t : State} (h : Keeps z s)
    (e : s.recvTxn src dst code = some (b, t)) : Keeps z t := by
  unfold State.recvTxn at e
  split at e
  · cases e
  · split at e
    · cases e
    · split at e
      · cases e
        exact Keeps.spend (Keeps.rouse (Keeps.fields h rfl))
      · cases e

theorem Keeps.modStep {z : State} {s : State} {slot : Nat} {f : Step → Step} (hk : Keeps z s) :
    Keeps z (State.modStep s slot f) := by
  dsimp only [State.modStep]
  repeat' first
    | with_reducible assumption
    | ((with_reducible apply Hub.sparesStay_of); intro _; rfl)
    | with_reducible apply Keeps.modHub

theorem Keeps.addCond {z : State} {s : State} {slot : Nat} {status cause : Nat} {tile : Option Nat} (hk : Keeps z s) :
    Keeps z (State.addCond s slot status cause tile) := by
  dsimp only [State.addCond]
  repeat' first
    | with_reducible assumption
    | with_reducible apply Keeps.modStep

theorem Keeps.modShares {z : State} {s : State} {slot : Nat} {f : Share → Share} (hk : Keeps z s) :
    Keeps z (State.modShares s slot f) := by
  dsimp only [State.modShares]
  repeat' first
    | with_reducible assumption
    | ((with_reducible apply Slice.staysDead_of); intro _; rfl)
    | exact (rfl : (_ : List (Fin 132)) = _)
    | split
    | dsimp only
    | intro _
    | fail_if_no_progress with_reducible apply Keeps.fields
    | fail_if_no_progress with_reducible apply Keeps.fieldsSlices

theorem Keeps.modShare {z : State} {s : State} {n : Fin 132} {slot : Nat} {f : Share → Share} (hk : Keeps z s) :
    Keeps z (State.modShare s n slot f) := by
  dsimp only [State.modShare]
  repeat' first
    | with_reducible assumption
    | ((with_reducible apply Slice.staysDead_of); intro _; rfl)
    | with_reducible apply Keeps.modSlice

theorem Keeps.stopOthers {z : State} {s : State} {slot j : Nat} (hk : Keeps z s) :
    Keeps z (State.stopOthers s slot j) := by
  dsimp only [State.stopOthers]
  repeat' first
    | with_reducible assumption
    | with_reducible apply Keeps.modShares

theorem Keeps.stopStep {z : State} {s : State} {slot n : Nat} (hk : Keeps z s) :
    Keeps z (State.stopStep s slot n) := by
  dsimp only [State.stopStep]
  repeat' first
    | with_reducible assumption
    | with_reducible apply Keeps.modShares

theorem Keeps.failTile {z : State} {s : State} {slot status cause n : Nat} (hk : Keeps z s) :
    Keeps z (State.failTile s slot status cause n) := by
  dsimp only [State.failTile]
  repeat' first
    | with_reducible assumption
    | with_reducible apply Keeps.addCond
    | with_reducible apply Keeps.modShares
    | with_reducible apply Keeps.stopStep

theorem Keeps.haltShares {z : State} {s : State} {slot : Nat} (hk : Keeps z s) :
    Keeps z (State.haltShares s slot) := by
  dsimp only [State.haltShares]
  repeat' first
    | with_reducible assumption
    | with_reducible apply Keeps.modShares

theorem Keeps.report {z : State} {s : State} {src : UnitId} {r : Report} (hk : Keeps z s) :
    Keeps z (State.report s src r) := by
  dsimp only [State.report]
  repeat' first
    | with_reducible assumption
    | with_reducible apply Keeps.post

theorem Keeps.lose {z : State} {s : State} {u : UnitId} {slot status cause n : Nat} (hk : Keeps z s) :
    Keeps z (State.lose s u slot status cause n) := by
  dsimp only [State.lose]
  repeat' first
    | with_reducible assumption
    | with_reducible apply Keeps.report

theorem Keeps.nSent {z : State} {s : State} {n : Fin 132} {q : NReq} (hk : Keeps z s) :
    Keeps z (State.nSent s n q) := by
  dsimp only [State.nSent]
  repeat' first
    | with_reducible assumption
    | ((with_reducible apply Slice.staysDead_of); intro _; rfl)
    | with_reducible apply Keeps.modSlice
    | with_reducible apply Keeps.spend
    | exact (rfl : (_ : List (Fin 132)) = _)
    | split

theorem Keeps.nQueue {z : State} {s : State} {n : Fin 132} {wr : Bool} {a len : Nat} {data : Bytes} {p : NPurpose} (hk : Keeps z s) :
    Keeps z (State.nQueue s n wr a len data p) := by
  dsimp only [State.nQueue]
  repeat' first
    | with_reducible assumption
    | ((with_reducible apply Slice.staysDead_of); intro _; rfl)
    | with_reducible apply Keeps.modSlice
    | with_reducible apply Keeps.nSent
    | exact (rfl : (_ : List (Fin 132)) = _)
    | split

theorem Keeps.nPieces {z : State} {s : State} {n : Fin 132} {wr : Bool} {a len : Nat} {data : Bytes} {p : NPurpose} (hk : Keeps z s) :
    Keeps z (State.nPieces s n wr a len data p) := by
  dsimp only [State.nPieces]
  repeat' first
    | with_reducible assumption
    | with_reducible apply Keeps.nQueue
    | with_reducible apply Keeps.each
    | split
    | dsimp only
    | intro _

theorem Keeps.nRange {z : State} {s : State} {n : Fin 132} {wr : Bool} {a len : Nat} {data : Bytes} {p : NPurpose} (hk : Keeps z s) :
    Keeps z (State.nRange s n wr a len data p) := by
  dsimp only [State.nRange]
  repeat' first
    | with_reducible assumption
    | with_reducible apply Keeps.writeNear
    | with_reducible apply Keeps.nPieces
    | split

theorem Keeps.cSent {z : State} {s : State} {q : NReq} (hk : Keeps z s) :
    Keeps z (State.cSent s q) := by
  dsimp only [State.cSent]
  repeat' first
    | with_reducible assumption
    | ((with_reducible apply Hub.sparesStay_of); intro _; rfl)
    | with_reducible apply Keeps.modHub
    | with_reducible apply Keeps.spend
    | exact (rfl : (_ : List (Fin 132)) = _)
    | split

theorem Keeps.cQueue {z : State} {s : State} {wr : Bool} {a len : Nat} {data : Bytes} {p : NPurpose} (hk : Keeps z s) :
    Keeps z (State.cQueue s wr a len data p) := by
  dsimp only [State.cQueue]
  repeat' first
    | with_reducible assumption
    | ((with_reducible apply Hub.sparesStay_of); intro _; rfl)
    | with_reducible apply Keeps.modHub
    | with_reducible apply Keeps.cSent
    | exact (rfl : (_ : List (Fin 132)) = _)
    | split

theorem Keeps.cRequest {z : State} {s : State} {wr : Bool} {a len : Nat} {data : Bytes} {p : NPurpose} (hk : Keeps z s) :
    Keeps z (State.cRequest s wr a len data p) := by
  dsimp only [State.cRequest]
  repeat' first
    | with_reducible assumption
    | with_reducible apply Keeps.writeNear
    | with_reducible apply Keeps.cQueue
    | with_reducible apply Keeps.each
    | split
    | dsimp only
    | intro _

theorem Keeps.nRetire {z : State} {s : State} {n : Fin 132} {id : Nat} (hk : Keeps z s) :
    Keeps z (State.nRetire s n id) := by
  dsimp only [State.nRetire]
  repeat' first
    | with_reducible assumption
    | ((with_reducible apply Slice.staysDead_of); intro _; rfl)
    | with_reducible apply Keeps.modSlice
    | with_reducible apply Keeps.nSent
    | exact (rfl : (_ : List (Fin 132)) = _)
    | split

theorem Keeps.cRetire {z : State} {s : State} {id : Nat} (hk : Keeps z s) :
    Keeps z (State.cRetire s id) := by
  dsimp only [State.cRetire]
  repeat' first
    | with_reducible assumption
    | ((with_reducible apply Hub.sparesStay_of); intro _; rfl)
    | with_reducible apply Keeps.modHub
    | with_reducible apply Keeps.cSent
    | exact (rfl : (_ : List (Fin 132)) = _)
    | split

theorem Keeps.cIssue {z : State} {s : State} (hk : Keeps z s) :
    Keeps z (State.cIssue s) := by
  dsimp only [State.cIssue]
  repeat' first
    | with_reducible assumption
    | ((with_reducible apply Hub.sparesStay_of); intro _; rfl)
    | with_reducible apply Keeps.modHub
    | with_reducible apply Keeps.cSent
    | exact (rfl : (_ : List (Fin 132)) = _)
    | split

theorem Keeps.learnRead {z : State} {s : State} {a : Nat} {bs : Bytes} {bad : List Nat} (hk : Keeps z s) :
    Keeps z (State.learnRead s a bs bad) := by
  dsimp only [State.learnRead]
  repeat' first
    | with_reducible assumption
    | with_reducible apply Keeps.learnNear
    | with_reducible apply Keeps.each
    | split
    | dsimp only
    | intro _

end Sys2Proof.Machine
end

