-- ==== Sys2Proof/Laws/KeepsRequests.lean ====
section
/-! SUPPORT. Keeps, for the operations of Machine/Requests.lean. -/
namespace Sys2Proof.Machine

theorem Keeps.addRange {z : State} {s : State} {m : Fin 12} {cls : ReqClass} {wr : Bool} {c : Fin 64} {k : RangeKind} {a len : Nat} {data : Bytes} {job off : Nat} (hk : Keeps z s) :
    Keeps z (State.addRange s m cls wr c k a len data job off) := by
  dsimp only [State.addRange]
  repeat' first
    | with_reducible assumption
    | with_reducible apply Keeps.modStation

theorem Keeps.newJob {z : State} {s : State} {m : Fin 12} {k : JobKind} (hk : Keeps z s) :
    Keeps z (State.newJob s m k).1 := by
  dsimp only [State.newJob]
  repeat' first
    | with_reducible assumption
    | with_reducible apply Keeps.modStation

theorem Keeps.modJob {z : State} {s : State} {m : Fin 12} {id : Nat} {f : Job → Job} (hk : Keeps z s) :
    Keeps z (State.modJob s m id f) := by
  dsimp only [State.modJob]
  repeat' first
    | with_reducible assumption
    | with_reducible apply Keeps.modStation

theorem Keeps.endJob {z : State} {s : State} {m : Fin 12} {id : Nat} (hk : Keeps z s) :
    Keeps z (State.endJob s m id) := by
  dsimp only [State.endJob]
  repeat' first
    | with_reducible assumption
    | with_reducible apply Keeps.modStation

theorem Keeps.asSweep {z : State} {s : State} {f : State → State} (hk : Keeps z s) (hf : ∀ t, Keeps z t → Keeps z (f t)) :
    Keeps z (s.asSweep f) :=
  Keeps.fields (hf s hk) rfl

theorem Keeps.mSent {z : State} {s : State} {m : Fin 12} {q : MReq} (hk : Keeps z s) :
    Keeps z (State.mSent s m q) := by
  dsimp only [State.mSent]
  repeat' first
    | with_reducible assumption
    | with_reducible apply Keeps.modStation
    | with_reducible apply Keeps.spend
    | exact (rfl : (_ : List (Fin 132)) = _)
    | split

theorem Keeps.putStack {z : State} {s : State} {m : Fin 12} {c : Fin 64} {k : RangeKind} {a : Nat} {bs : Bytes} (hk : Keeps z s) :
    Keeps z (State.putStack s m c k a bs) := by
  dsimp only [State.putStack]
  repeat' first
    | with_reducible assumption
    | with_reducible apply Keeps.writeStack
    | with_reducible apply Keeps.addRange
    | split

theorem Keeps.naccWrite {z : State} {s : State} {u : UnitId} {n : Fin 132} {tag a : Nat} {bs : Bytes} (hk : Keeps z s) :
    Keeps z (State.naccWrite s u n tag a bs) := by
  dsimp only [State.naccWrite]
  repeat' first
    | with_reducible assumption
    | with_reducible apply Keeps.writeNear
    | with_reducible apply Keeps.post

theorem Keeps.putNear {z : State} {s : State} {m : Fin 12} {a : Nat} {bs : Bytes} (hk : Keeps z s) :
    Keeps z (State.putNear s m a bs) := by
  dsimp only [State.putNear]
  repeat' first
    | with_reducible assumption
    | with_reducible apply Keeps.writeNear
    | with_reducible apply Keeps.naccWrite
    | split

theorem Keeps.seek {z : State} {s : State} {who : Asker} {c : Fin 64} {l : Look} (hk : Keeps z s) :
    Keeps z (State.seek s who c l) := by
  dsimp only [State.seek]
  repeat' first
    | with_reducible assumption
    | with_reducible apply Keeps.modStation
    | with_reducible apply Keeps.post
    | with_reducible apply Keeps.addRange
    | with_reducible apply Keeps.newJob
    | exact (rfl : (_ : List (Fin 132)) = _)
    | split

theorem Keeps.need {z : State} {s : State} {who : Asker} {c : Fin 64} {ls : List Look} (hk : Keeps z s) :
    KeepsO z (State.need s who c ls) := by
  dsimp only [State.need]
  repeat' first
    | with_reducible assumption
    | with_reducible apply Keeps.seek
    | with_reducible exact KeepsO.none
    | with_reducible apply KeepsO.some
    | with_reducible apply KeepsO.map
    | split
    | dsimp only
    | intro _

theorem Keeps.nearCame {z : State} {s : State} {m : Fin 12} {a len : Nat} (hk : Keeps z s) :
    Keeps z (State.nearCame s m a len) := by
  dsimp only [State.nearCame]
  repeat' first
    | with_reducible assumption
    | with_reducible apply Keeps.modStation

theorem Keeps.stackCame {z : State} {s : State} {m : Fin 12} {who : Asker} {l : Look} (hk : Keeps z s) :
    Keeps z (State.stackCame s m who l) := by
  dsimp only [State.stackCame]
  repeat' first
    | with_reducible assumption
    | with_reducible apply Keeps.modStation

theorem Keeps.forget {z : State} {s : State} {p : Asker × Look → Bool} (hk : Keeps z s) :
    Keeps z (State.forget s p) := by
  dsimp only [State.forget]
  repeat' first
    | with_reducible assumption
    | exact (rfl : (_ : List (Fin 132)) = _)
    | split
    | dsimp only
    | intro _
    | fail_if_no_progress with_reducible apply Keeps.fields

theorem Keeps.forgetLooks {z : State} {s : State} {who : Asker} {ls : List Look} (hk : Keeps z s) :
    Keeps z (State.forgetLooks s who ls) := by
  dsimp only [State.forgetLooks]
  repeat' first
    | with_reducible assumption
    | with_reducible apply Keeps.forget

theorem Keeps.reseek {z : State} {s : State} (hk : Keeps z s) :
    Keeps z (State.reseek s) := by
  dsimp only [State.reseek]
  repeat' first
    | with_reducible assumption
    | exact (rfl : (_ : List (Fin 132)) = _)
    | split
    | dsimp only
    | intro _
    | fail_if_no_progress with_reducible apply Keeps.fields

end Sys2Proof.Machine
end

