-- ==== Sys2Proof/Laws/KeepsPages.lean ====
section
/-! SUPPORT. Keeps, for the operations of Machine/Pages.lean. -/
namespace Sys2Proof.Machine

theorem Keeps.setCounter {z : State} {s : State} {m : Fin 12} {pg v : Nat} (hk : Keeps z s) :
    Keeps z (State.setCounter s m pg v) := by
  dsimp only [State.setCounter]
  repeat' first
    | with_reducible assumption
    | with_reducible apply Keeps.putNear

theorem Keeps.resealEntry {z : State} {s : State} {c : Fin 64} {m : Fin 12} {leaf : Bool} {v : Nat} {addr : Nat} (hk : Keeps z s) :
    Keeps z (State.resealEntry s c m leaf v addr) := by
  dsimp only [State.resealEntry]
  repeat' first
    | with_reducible assumption
    | with_reducible apply Keeps.raise
    | with_reducible apply Keeps.putStack
    | split

theorem Keeps.openAtlasPage {z : State} {s : State} {o : Opened} {c : Fin 64} {m : Fin 12} {leaf : Bool} {node nodeLen addr : Nat} (hk : Keeps z s) :
    Keeps z (State.openAtlasPage s o c m leaf node nodeLen addr).1 := by
  dsimp only [State.openAtlasPage]
  repeat' first
    | with_reducible assumption
    | with_reducible apply Keeps.setCounter
    | with_reducible apply Keeps.resealEntry
    | with_reducible apply Keeps.each
    | split
    | dsimp only
    | intro _

theorem Keeps.writeEntry {z : State} {s : State} {o : Opened} {c : Fin 64} {m : Fin 12} {leaf : Bool} {node nodeLen addr : Nat} {body : Bytes} (hk : Keeps z s) :
    Keeps z (State.writeEntry s o c m leaf node nodeLen addr body).1 := by
  dsimp only [State.writeEntry]
  repeat' first
    | with_reducible assumption
    | with_reducible apply Keeps.putStack
    | with_reducible apply Keeps.openAtlasPage

theorem Keeps.initNode {z : State} {s : State} {o : Opened} {c : Fin 64} {m : Fin 12} {leaf : Bool} {node nodeLen : Nat} (hk : Keeps z s) :
    Keeps z (State.initNode s o c m leaf node nodeLen).1 := by
  dsimp only [State.initNode]
  repeat' first
    | with_reducible assumption
    | with_reducible apply Keeps.putStack
    | with_reducible apply Keeps.setCounter
    | with_reducible apply Keeps.each
    | split
    | dsimp only
    | intro _

theorem Keeps.setLeaf {z : State} {s : State} {o : Opened} {c : Fin 64} {p : Nat} {l : Leaf} (hk : Keeps z s) :
    Keeps z (State.setLeaf s o c p l).1 := by
  dsimp only [State.setLeaf]
  repeat' first
    | with_reducible assumption
    | with_reducible apply Keeps.writeEntry
    | split

theorem Keeps.allocate {z : State} {s : State} {c : Fin 64} {m : Fin 12} {span : Nat} {f : Frame} {t : State} (hk : Keeps z s)
    (e : s.allocate c m span = .ok f t) : Keeps z t := by
  unfold State.allocate at e
  dsimp only at e
  repeat' (split at e)
  all_goals first
    | cases e; exact Keeps.modCtx (Keeps.putNear (Keeps.forget hk))
    | cases e

theorem Keeps.setShare {z : State} {s : State} {c : Fin 64} {m : Fin 12} {idx n : Nat} (hk : Keeps z s) :
    Keeps z (State.setShare s c m idx n) := by
  dsimp only [State.setShare]
  repeat' first
    | with_reducible assumption
    | with_reducible apply Keeps.putNear

theorem Keeps.retire {z : State} {s : State} {c : Fin 64} {items : List Retired} (hk : Keeps z s) :
    Keeps z (State.retire s c items) := by
  dsimp only [State.retire]
  repeat' first
    | with_reducible assumption
    | ((with_reducible apply Hub.sparesStay_of); intro _; rfl)
    | with_reducible apply Keeps.modHub
    | with_reducible apply Keeps.modCtx

theorem Keeps.dropRef {z : State} {s : State} {c : Fin 64} {m : Fin 12} {l : Leaf} (hk : Keeps z s) :
    Keeps z (State.dropRef s c m l).1 := by
  dsimp only [State.dropRef]
  repeat' first
    | with_reducible assumption
    | with_reducible apply Keeps.setShare
    | with_reducible apply Keeps.retire
    | split

theorem Keeps.countTile {z : State} {s : State} {m : Fin 12} {c : Fin 64} {l : Legend} {n : Nat} (hk : Keeps z s) :
    Keeps z (State.countTile s m c l n) := by
  dsimp only [State.countTile]
  repeat' first
    | with_reducible assumption
    | with_reducible apply Keeps.tallyAdd
    | with_reducible apply Keeps.spendAes

theorem Keeps.putRefreshed {z : State} {s : State} {x : Session} {m : Fin 12} {t : Nat} {r : Refreshed} (hk : Keeps z s) :
    Keeps z (State.putRefreshed s x m t r) := by
  dsimp only [State.putRefreshed]
  repeat' first
    | with_reducible assumption
    | with_reducible apply Keeps.raise
    | with_reducible apply Keeps.countIntegrity
    | with_reducible apply Keeps.putStack
    | with_reducible apply Keeps.countTile
    | split

theorem Keeps.refreshStep {z : State} {s : State} {m : Fin 12} {x : Session} (hk : Keeps z s) :
    Keeps z (State.refreshStep s m x) := by
  dsimp only [State.refreshStep]
  repeat' first
    | with_reducible assumption
    | with_reducible apply Keeps.modStation
    | with_reducible apply Keeps.need
    | with_reducible apply Keeps.forgetLooks
    | with_reducible apply Keeps.putRefreshed
    | with_reducible apply Keeps.each
    | with_reducible refine KeepsO.out ?_ (by assumption)
    | exact (rfl : (_ : List (Fin 132)) = _)
    | split
    | dsimp only
    | intro _

theorem Keeps.refreshSession {z : State} {s : State} {m : Fin 12} {x : Session} (hk : Keeps z s) :
    Keeps z (State.refreshSession s m x) := by
  dsimp only [State.refreshSession]
  repeat' first
    | with_reducible assumption
    | with_reducible apply Keeps.asSweep
    | with_reducible apply Keeps.refreshStep
    | split
    | dsimp only
    | intro _

theorem Keeps.closeSession {z : State} {s : State} {m : Fin 12} {x : Session} (hk : Keeps z s) :
    Keeps z (State.closeSession s m x) := by
  dsimp only [State.closeSession]
  repeat' first
    | with_reducible assumption
    | with_reducible apply Keeps.modStation
    | with_reducible apply Keeps.refreshSession

theorem Keeps.refreshClosed {z : State} {s : State} {m : Fin 12} (hk : Keeps z s) :
    Keeps z (State.refreshClosed s m) := by
  dsimp only [State.refreshClosed]
  repeat' first
    | with_reducible assumption
    | with_reducible apply Keeps.refreshSession
    | with_reducible apply Keeps.each
    | split
    | dsimp only
    | intro _

theorem Keeps.closeSessionsOf {z : State} {s : State} {slot : Nat} (hk : Keeps z s) :
    Keeps z (State.closeSessionsOf s slot) := by
  dsimp only [State.closeSessionsOf]
  repeat' first
    | with_reducible assumption
    | with_reducible apply Keeps.forget
    | with_reducible apply Keeps.closeSession
    | with_reducible apply Keeps.each
    | split
    | dsimp only
    | intro _

theorem Keeps.openSession {z : State} {s : State} {m : Fin 12} {slot : Nat} {c : Fin 64} {stitchBase legendAddr layout tileMap ceiling : Nat} (hk : Keeps z s) :
    Keeps z (State.openSession s m slot c stitchBase legendAddr layout tileMap ceiling).1 := by
  dsimp only [State.openSession]
  repeat' first
    | with_reducible assumption
    | with_reducible apply Keeps.modStation
    | with_reducible apply Keeps.setCounter
    | exact (rfl : (_ : List (Fin 132)) = _)
    | split

theorem Keeps.markWritten {z : State} {s : State} {m : Fin 12} {x : Session} {t : Nat} (hk : Keeps z s) :
    Keeps z (State.markWritten s m x t) := by
  dsimp only [State.markWritten]
  repeat' first
    | with_reducible assumption
    | with_reducible apply Keeps.modStation

theorem Keeps.fillLegends {z : State} {s : State} {c : Fin 64} {m : Fin 12} {lay : Layout} {legendAddr : Nat} {l : Legend} {k : Option TileKey} (hk : Keeps z s) :
    Keeps z (State.fillLegends s c m lay legendAddr l k) := by
  dsimp only [State.fillLegends]
  repeat' first
    | with_reducible assumption
    | with_reducible apply Keeps.putStack
    | with_reducible apply Keeps.each
    | split
    | dsimp only
    | intro _

theorem Keeps.fillAbsent {z : State} {s : State} {c : Fin 64} {m : Fin 12} {lay : Layout} {legendAddr ceiling version : Nat} (hk : Keeps z s) :
    Keeps z (State.fillAbsent s c m lay legendAddr ceiling version) := by
  dsimp only [State.fillAbsent]
  repeat' first
    | with_reducible assumption
    | with_reducible apply Keeps.fillLegends

end Sys2Proof.Machine
end

