-- ==== Sys2Proof/Laws/KeepsPageBody.lean ====
section
/-! SUPPORT. Keeps, for the operations of Machine/PageBody.lean. -/
namespace Sys2Proof.Machine

theorem Keeps.storeTile {z : State} {s : State} {c : Fin 64} {q : PageAt} {t : Nat} {o : OpenTile} {version : Nat} (hk : Keeps z s) :
    Keeps z (State.storeTile s c q t o version) := by
  dsimp only [State.storeTile]
  repeat' first
    | with_reducible assumption
    | with_reducible apply Keeps.raise
    | with_reducible apply Keeps.countIntegrity
    | with_reducible apply Keeps.putStack
    | with_reducible apply Keeps.countTile
    | split

theorem Keeps.newVersion {z : State} {s : State} {c : Fin 64} {m : Fin 12} {stitch : Nat} (hk : Keeps z s) :
    Keeps z (State.newVersion s c m stitch).1 := by
  dsimp only [State.newVersion]
  repeat' first
    | with_reducible assumption
    | with_reducible apply Keeps.setCounter
    | split

theorem Keeps.countRead {z : State} {s : State} {c : Fin 64} {p : PageAt} {o : OpenTile} (hk : Keeps z s) :
    Keeps z (State.countRead s c p o) := by
  dsimp only [State.countRead]
  repeat' first
    | with_reducible assumption
    | with_reducible apply Keeps.countTile

theorem Keeps.storePage {z : State} {s : State} {c : Fin 64} {p q : PageAt} {version : Nat} {tiles : List (Nat × Option OpenTile)} (hk : Keeps z s) :
    Keeps z (State.storePage s c p q version tiles) := by
  dsimp only [State.storePage]
  repeat' first
    | with_reducible assumption
    | with_reducible apply Keeps.raise
    | with_reducible apply Keeps.putStack
    | with_reducible apply Keeps.storeTile
    | with_reducible apply Keeps.countRead
    | with_reducible apply Keeps.each
    | split
    | dsimp only
    | intro _

theorem Keeps.copyPage {z : State} {s : State} {c : Fin 64} {p q : PageAt} (hk : Keeps z s) :
    Keeps z (State.copyPage s c p q) := by
  dsimp only [State.copyPage]
  repeat' first
    | with_reducible assumption
    | with_reducible apply Keeps.newVersion
    | with_reducible apply Keeps.storePage

theorem Keeps.storeBlock {z : State} {s : State} {c : Fin 64} {m : Fin 12} {stitch version : Nat} {block : Bytes} (hk : Keeps z s) :
    Keeps z (State.storeBlock s c m stitch version block) := by
  dsimp only [State.storeBlock]
  repeat' first
    | with_reducible assumption
    | with_reducible apply Keeps.putStack

theorem Keeps.rewrapDemoted {z : State} {s : State} {c : Fin 64} {p : PageAt} (hk : Keeps z s) :
    Keeps z (State.rewrapDemoted s c p) := by
  dsimp only [State.rewrapDemoted]
  repeat' first
    | with_reducible assumption
    | with_reducible apply Keeps.newVersion
    | with_reducible apply Keeps.storePage
    | with_reducible apply Keeps.storeBlock

end Sys2Proof.Machine
end

