-- ==== Sys2Proof/Laws/KeepsFinish.lean ====
section
/-! SUPPORT. Keeps, for the operations of Machine/Finish.lean. -/
namespace Sys2Proof.Machine

theorem Keeps.dropFetches {z : State} {s : State} {slot : Nat} (hk : Keeps z s) :
    Keeps z (State.dropFetches s slot) := by
  dsimp only [State.dropFetches]
  repeat' first
    | with_reducible assumption
    | ((with_reducible apply Slice.staysDead_of); intro _; rfl)
    | exact (rfl : (_ : List (Fin 132)) = _)
    | split
    | dsimp only
    | intro _
    | fail_if_no_progress with_reducible apply Keeps.fields
    | fail_if_no_progress with_reducible apply Keeps.fieldsSlices

theorem Keeps.lastReports {z : State} {s : State} {slot : Nat} (hk : Keeps z s) :
    Keeps z (State.lastReports s slot) := by
  dsimp only [State.lastReports]
  repeat' first
    | with_reducible assumption
    | with_reducible apply Keeps.modStep
    | with_reducible apply Keeps.each
    | exact (rfl : (_ : List (Fin 132)) = _)
    | split
    | dsimp only
    | intro _
    | fail_if_no_progress with_reducible apply Keeps.fields

theorem Keeps.queueFrame {z : State} {s : State} {l : Fin 16} {h : FrameHeader} {recs : List Record} (hk : Keeps z s) :
    Keeps z (State.queueFrame s l h recs) := by
  dsimp only [State.queueFrame]
  repeat' first
    | with_reducible assumption
    | with_reducible apply Keeps.modLink
    | exact (rfl : (_ : List (Fin 132)) = _)
    | split

theorem Keeps.dropPeer {z : State} {s : State} {l : Fin 16} {q : FrameHeader} (hk : Keeps z s) :
    Keeps z (State.dropPeer s l q) := by
  dsimp only [State.dropPeer]
  repeat' first
    | with_reducible assumption
    | exact (rfl : (_ : List (Fin 132)) = _)
    | split
    | dsimp only
    | intro _
    | fail_if_no_progress with_reducible apply Keeps.fields

theorem Keeps.answerAbsent {z : State} {s : State} {l : Fin 16} {q : FrameHeader} (hk : Keeps z s) :
    Keeps z (State.answerAbsent s l q) := by
  dsimp only [State.answerAbsent]
  repeat' first
    | with_reducible assumption
    | with_reducible apply Keeps.queueFrame
    | with_reducible apply Keeps.dropPeer

theorem Keeps.quietLinks {z : State} {s : State} {c : Fin 64} (hk : Keeps z s) :
    Keeps z (State.quietLinks s c) := by
  dsimp only [State.quietLinks]
  repeat' first
    | with_reducible assumption
    | with_reducible apply Keeps.answerAbsent
    | with_reducible apply Keeps.each
    | exact (rfl : (_ : List (Fin 132)) = _)
    | split
    | dsimp only
    | intro _
    | fail_if_no_progress with_reducible apply Keeps.fields

theorem Keeps.dropShares {z : State} {s0 : State} {slot : Nat} (hk : Keeps z s0) :
    Keeps z (State.dropShares s0 slot) := by
  dsimp only [State.dropShares]
  repeat' first
    | with_reducible assumption
    | ((with_reducible apply Slice.staysDead_of); intro _; rfl)
    | with_reducible apply Keeps.dropFetches
    | exact (rfl : (_ : List (Fin 132)) = _)
    | split
    | dsimp only
    | intro _
    | fail_if_no_progress with_reducible apply Keeps.fields
    | fail_if_no_progress with_reducible apply Keeps.fieldsSlices

theorem Keeps.settleQuiesce {z : State} {s : State} (hk : Keeps z s) :
    Keeps z (State.settleQuiesce s) := by
  dsimp only [State.settleQuiesce]
  repeat' first
    | with_reducible assumption
    | ((with_reducible apply Hub.sparesStay_of); intro _; rfl)
    | with_reducible apply Keeps.modHub
    | exact (rfl : (_ : List (Fin 132)) = _)
    | split

theorem Keeps.removeStep {z : State} {s : State} {slot : Nat} (hk : Keeps z s) :
    Keeps z (State.removeStep s slot) := by
  dsimp only [State.removeStep]
  repeat' first
    | with_reducible assumption
    | ((with_reducible apply Hub.sparesStay_of); intro _; rfl)
    | with_reducible apply Keeps.modHub
    | with_reducible apply Keeps.dropShares

theorem Keeps.endCatchup {z : State} {s : State} {x : Step} {parent : Nat} (hk : Keeps z s) :
    Keeps z (State.endCatchup s x parent) := by
  dsimp only [State.endCatchup]
  repeat' first
    | with_reducible assumption
    | with_reducible apply Keeps.modStep
    | with_reducible apply Keeps.removeStep

theorem Keeps.escalationEvent {z : State} {s : State} {x : Step} {status : Nat} (hk : Keeps z s) :
    Keeps z (State.escalationEvent s x status).1 := by
  dsimp only [State.escalationEvent]
  repeat' first
    | with_reducible assumption
    | with_reducible apply Keeps.raise
    | with_reducible apply Keeps.modStep
    | exact (rfl : (_ : List (Fin 132)) = _)
    | split

theorem Keeps.countLatency {z : State} {s : State} {x : Step} (hk : Keeps z s) :
    Keeps z (State.countLatency s x) := by
  dsimp only [State.countLatency]
  repeat' first
    | with_reducible assumption
    | with_reducible apply Keeps.count
    | exact (rfl : (_ : List (Fin 132)) = _)
    | split

theorem Keeps.writeEnd {z : State} {s : State} {x y : Step} {c : Cond} (hk : Keeps z s) :
    Keeps z (State.writeEnd s x y c) := by
  dsimp only [State.writeEnd]
  repeat' first
    | with_reducible assumption
    | with_reducible apply Keeps.modCtx
    | with_reducible apply Keeps.modRing
    | with_reducible apply Keeps.tallyAdd
    | with_reducible apply Keeps.modStep
    | with_reducible apply Keeps.closeSessionsOf
    | with_reducible apply Keeps.dropShares
    | with_reducible apply Keeps.settleQuiesce
    | with_reducible apply Keeps.removeStep
    | with_reducible apply Keeps.escalationEvent
    | with_reducible apply Keeps.countLatency
    | with_reducible apply Keeps.each
    | exact (rfl : (_ : List (Fin 132)) = _)
    | split
    | dsimp only
    | intro _

theorem Keeps.completeWith {z : State} {s : State} {x y : Step} {c : Cond} (hk : Keeps z s) :
    Keeps z (State.completeWith s x y c) := by
  dsimp only [State.completeWith]
  repeat' first
    | with_reducible assumption
    | with_reducible apply Keeps.endCatchup
    | with_reducible apply Keeps.writeEnd
    | split

theorem Keeps.finish {z : State} {s0 : State} {slot : Nat} {c : Cond} (hk : Keeps z s0) :
    Keeps z (State.finish s0 slot c) := by
  dsimp only [State.finish]
  repeat' first
    | with_reducible assumption
    | ((with_reducible apply Hub.sparesStay_of); intro _; rfl)
    | with_reducible apply Keeps.modHub
    | with_reducible apply Keeps.modCtx
    | with_reducible apply Keeps.modStep
    | with_reducible apply Keeps.closeSessionsOf
    | with_reducible apply Keeps.lastReports
    | with_reducible apply Keeps.dropShares
    | with_reducible apply Keeps.settleQuiesce
    | with_reducible apply Keeps.completeWith
    | with_reducible apply Keeps.each
    | exact (rfl : (_ : List (Fin 132)) = _)
    | split

theorem Keeps.cancelStrict {z : State} {n : Nat} {s : State} (hk : Keeps z s) : Keeps z (State.cancelStrict n s) := by
  induction n generalizing s with
  | zero => exact hk
  | succ n ih =>
    unfold State.cancelStrict
    split
    · exact hk
    · exact ih hk.finish

theorem Keeps.settle {z : State} {s : State} (hk : Keeps z s) :
    Keeps z (State.settle s) := by
  dsimp only [State.settle]
  repeat' first
    | with_reducible assumption
    | with_reducible apply Keeps.cancelStrict

theorem Keeps.complete {z : State} {s : State} {slot status cause : Nat} {tile : Option Nat} (hk : Keeps z s) :
    Keeps z (State.complete s slot status cause tile) := by
  dsimp only [State.complete]
  repeat' first
    | with_reducible assumption
    | with_reducible apply Keeps.finish
    | with_reducible apply Keeps.settle

theorem Keeps.putRecord {z : State} {s : State} {c : Fin 64} {ring : Fin 4} {w : CompRecord} {ws : List CompRecord} (hk : Keeps z s) :
    Keeps z (State.putRecord s c ring w ws) := by
  dsimp only [State.putRecord]
  repeat' first
    | with_reducible assumption
    | ((with_reducible apply Hub.sparesStay_of); intro _; rfl)
    | with_reducible apply Keeps.modHub
    | with_reducible apply Keeps.modRing
    | with_reducible apply Keeps.cRequest
    | with_reducible apply Keeps.settleQuiesce
    | with_reducible apply Keeps.each
    | exact (rfl : (_ : List (Fin 132)) = _)
    | split
    | dsimp only
    | intro _

theorem Keeps.putRecords {z : State} {c : Fin 64} {ring : Fin 4} {n : Nat} {s : State} (hk : Keeps z s) :
    Keeps z (State.putRecords c ring n s) := by
  induction n generalizing s with
  | zero => exact hk
  | succ n ih =>
    unfold State.putRecords
    split
    · exact hk
    · exact ih hk.putRecord

theorem Keeps.askScrubTable {z : State} {c : Fin 64} {n : Nat} {s : State} (hk : Keeps z s) :
    Keeps z (State.askScrubTable s c n) := by
  induction n generalizing s with
  | zero => exact hk
  | succ n ih =>
    unfold State.askScrubTable
    split
    · exact hk
    · dsimp only
      split
      · exact hk
      · exact ih (Keeps.modCtx hk.cRequest)

theorem Keeps.quietNet {z : State} {s : State} {c : Fin 64} (hk : Keeps z s) :
    Keeps z (State.quietNet s c) := by
  dsimp only [State.quietNet]
  repeat' first
    | with_reducible assumption
    | ((with_reducible apply Slice.staysDead_of); intro _; rfl)
    | with_reducible apply Keeps.setLeaf
    | exact (rfl : (_ : List (Fin 132)) = _)
    | split
    | dsimp only
    | intro _
    | fail_if_no_progress with_reducible apply Keeps.fields
    | fail_if_no_progress with_reducible apply Keeps.fieldsSlices

theorem Keeps.quiet {z : State} {s : State} {c : Fin 64} (hk : Keeps z s) :
    Keeps z (State.quiet s c) := by
  dsimp only [State.quiet]
  repeat' first
    | with_reducible assumption
    | with_reducible apply Keeps.quietLinks
    | with_reducible apply Keeps.quietNet

theorem Keeps.startScrub {z : State} {s : State} {c : Fin 64} (hk : Keeps z s) :
    Keeps z (State.startScrub s c) := by
  dsimp only [State.startScrub]
  repeat' first
    | with_reducible assumption
    | ((with_reducible apply Hub.sparesStay_of); intro _; rfl)
    | ((with_reducible apply Slice.staysDead_of); intro _; rfl)
    | with_reducible apply Keeps.modHub
    | with_reducible apply Keeps.modCtx
    | with_reducible apply Keeps.forget
    | with_reducible apply Keeps.settleQuiesce
    | with_reducible apply Keeps.askScrubTable
    | with_reducible apply Keeps.quiet
    | exact (rfl : (_ : List (Fin 132)) = _)
    | split
    | dsimp only
    | intro _
    | fail_if_no_progress with_reducible apply Keeps.fields
    | fail_if_no_progress with_reducible apply Keeps.fieldsSlices

theorem Keeps.settleClosing {z : State} {s : State} {c : Fin 64} (hk : Keeps z s) :
    Keeps z (State.settleClosing s c) := by
  dsimp only [State.settleClosing]
  repeat' first
    | with_reducible assumption
    | with_reducible apply Keeps.startScrub
    | split

theorem Keeps.abortSteps {z : State} {s : State} {cause : Nat} {xs : List Step} (hk : Keeps z s) :
    Keeps z (State.abortSteps s cause xs) := by
  dsimp only [State.abortSteps]
  repeat' first
    | with_reducible assumption
    | with_reducible apply Keeps.completeWith
    | with_reducible apply Keeps.each
    | split
    | dsimp only
    | intro _

theorem Keeps.abortCtx {z : State} {s : State} {c : Fin 64} {cause : Nat} (hk : Keeps z s) :
    Keeps z (State.abortCtx s c cause) := by
  dsimp only [State.abortCtx]
  repeat' first
    | with_reducible assumption
    | with_reducible apply Keeps.putRecords
    | with_reducible apply Keeps.quiet
    | with_reducible apply Keeps.startScrub
    | with_reducible apply Keeps.abortSteps
    | with_reducible apply Keeps.each
    | exact (rfl : (_ : List (Fin 132)) = _)
    | split
    | dsimp only
    | intro _
    | fail_if_no_progress with_reducible apply Keeps.fields

theorem Keeps.parkShares {z : State} {s : State} {x : Step} (hk : Keeps z s) :
    Keeps z (State.parkShares s x) := by
  dsimp only [State.parkShares]
  repeat' first
    | with_reducible assumption
    | with_reducible apply Keeps.modShares
    | with_reducible apply Keeps.closeSessionsOf
    | with_reducible apply Keeps.dropFetches

theorem Keeps.suspendStep {z : State} {s0 : State} {x0 : Step} {m : Miss} (hk : Keeps z s0) :
    Keeps z (State.suspendStep s0 x0 m) := by
  dsimp only [State.suspendStep]
  repeat' first
    | with_reducible assumption
    | ((with_reducible apply Hub.sparesStay_of); intro _; rfl)
    | with_reducible apply Keeps.modHub
    | with_reducible apply Keeps.modRing
    | with_reducible apply Keeps.modStep
    | with_reducible apply Keeps.lastReports
    | with_reducible apply Keeps.countLatency
    | with_reducible apply Keeps.completeWith
    | with_reducible apply Keeps.settle
    | with_reducible apply Keeps.parkShares
    | exact (rfl : (_ : List (Fin 132)) = _)
    | split

end Sys2Proof.Machine
end

