-- ==== Sys2Proof/Laws/KeepsShares.lean ====
section
/-! SUPPORT. Keeps, for the operations of Machine/Shares.lean. -/
namespace Sys2Proof.Machine

theorem Keeps.closeUp {z : State} {s : State} {n : Fin 132} {slot : Nat} {r : Role} {p : Nat} (hk : Keeps z s) :
    Keeps z (State.closeUp s n slot r p) := by
  dsimp only [State.closeUp]
  repeat' first
    | with_reducible assumption
    | ((with_reducible apply Slice.staysDead_of); intro _; rfl)
    | with_reducible apply Keeps.modSlice
    | with_reducible apply Keeps.modShare
    | exact (rfl : (_ : List (Fin 132)) = _)
    | split
    | dsimp only
    | intro _
    | fail_if_no_progress with_reducible apply Keeps.fields

theorem Keeps.dropHeads {z : State} {s : State} {n : Fin 132} {h : Share} (hk : Keeps z s) :
    Keeps z (State.dropHeads s n h) := by
  dsimp only [State.dropHeads]
  repeat' first
    | with_reducible assumption
    | with_reducible apply Keeps.modShare
    | with_reducible apply Keeps.closeUp
    | with_reducible apply Keeps.each
    | exact (rfl : (_ : List (Fin 132)) = _)
    | split
    | dsimp only
    | intro _

theorem Keeps.settleShare {z : State} {s : State} {n : Fin 132} {slot : Nat} (hk : Keeps z s) :
    Keeps z (State.settleShare s n slot) := by
  dsimp only [State.settleShare]
  repeat' first
    | with_reducible assumption
    | ((with_reducible apply Slice.staysDead_of); intro _; rfl)
    | with_reducible apply Keeps.modSlice
    | with_reducible apply Keeps.modShare
    | with_reducible apply Keeps.stopOthers
    | with_reducible apply Keeps.report
    | exact (rfl : (_ : List (Fin 132)) = _)
    | split

theorem Keeps.progress {z : State} {s : State} {n : Fin 132} {slot : Nat} {f : Report → Report} (hk : Keeps z s) :
    Keeps z (State.progress s n slot f) := by
  dsimp only [State.progress]
  repeat' first
    | with_reducible assumption
    | with_reducible apply Keeps.report
    | split

theorem Keeps.stopHere {z : State} {s : State} {n : Fin 132} {slot status cause tile : Nat} (hk : Keeps z s) :
    Keeps z (State.stopHere s n slot status cause tile) := by
  dsimp only [State.stopHere]
  repeat' first
    | with_reducible assumption
    | with_reducible apply Keeps.stopOthers
    | with_reducible apply Keeps.stopStep
    | with_reducible apply Keeps.progress
    | exact (rfl : (_ : List (Fin 132)) = _)
    | split

end Sys2Proof.Machine
end

