-- ==== Sys2Proof/Laws/KeepsAtlas.lean ====
section
/-! SUPPORT. Keeps, for the operations of Machine/Atlas.lean. -/
namespace Sys2Proof.Machine

/-- What one item of a step over pages gives keeps what an operation keeps. -/
def KeepsItem (z : State) : ItemRes → Prop
  | .done t _ => Keeps z t
  | .stop t _ _ => Keeps z t
  | .miss t _ _ _ _ => Keeps z t
  | .wait t => Keeps z t

theorem KeepsItem.done {z t : State} {o : Opened} (h : Keeps z t) : KeepsItem z (.done t o) := h

theorem KeepsItem.stop {z t : State} {a b : Nat} (h : Keeps z t) : KeepsItem z (.stop t a b) := h

theorem KeepsItem.miss {z t : State} {a b c d : Nat} (h : Keeps z t) : KeepsItem z (.miss t a b c d) := h

theorem KeepsItem.wait {z t : State} (h : Keeps z t) : KeepsItem z (.wait t) := h

theorem KeepsItem.out_wait {z t : State} {r : ItemRes} (h : KeepsItem z r) (e : r = .wait t) : Keeps z t := by
  subst e; exact h

theorem KeepsItem.ite {z : State} {p : Prop} [Decidable p] {r q : ItemRes} (h : KeepsItem z r) (k : KeepsItem z q) :
    KeepsItem z (if p then r else q) := by
  split
  · exact h
  · exact k

theorem KeepsItem.out_done {z t : State} {r : ItemRes} {o : Opened} (h : KeepsItem z r) (e : r = .done t o) : Keeps z t := by
  subst e; exact h

theorem KeepsItem.out_stop {z t : State} {r : ItemRes} {a b : Nat} (h : KeepsItem z r) (e : r = .stop t a b) : Keeps z t := by
  subst e; exact h

theorem KeepsItem.out_miss {z t : State} {r : ItemRes} {a b c d : Nat} (h : KeepsItem z r) (e : r = .miss t a b c d) : Keeps z t := by
  subst e; exact h

theorem Keeps.runItems {z : State} {slot total : Nat} {one : State → Opened → Nat → ItemRes}
    (h1 : ∀ s o i, Keeps z s → KeepsItem z (one s o i)) {n : Nat} {s : State} (hk : Keeps z s) :
    Keeps z (State.runItems slot total one n s) := by
  induction n generalizing s with
  | zero => exact Keeps.modStep hk
  | succ n ih =>
    unfold State.runItems
    have k := h1 s (((s.step? slot).map (·.opened)).getD []) (total - (n + 1)) hk
    dsimp only
    split
    · rename_i e; rw [e] at k; exact ih (Keeps.modStep k)
    · rename_i e; rw [e] at k; exact Keeps.modStep (Keeps.addCond k)
    · rename_i e; rw [e] at k; exact Keeps.modStep k
    · rename_i e; rw [e] at k; exact k

theorem Keeps.runFrom {z : State} {s : State} {x : Step} {total : Nat} {one : State → Opened → Nat → ItemRes}
    (hk : Keeps z s) (h1 : ∀ s o i, Keeps z s → KeepsItem z (one s o i)) : Keeps z (s.runFrom x total one) :=
  Keeps.runItems h1 hk

theorem Keeps.gate {z : State} {s : State} {x : Step} {ls : List Look} {go : ItemRes} (hk : Keeps z s) (hg : KeepsItem z go) :
    KeepsItem z (s.gate x ls go) := by
  unfold State.gate
  split
  · rename_i e; exact KeepsItem.wait (KeepsO.out (Keeps.need hk) e)
  · exact hg

theorem Keeps.change {z : State} {s : State} {x : Step} {p : Nat} {ls : List Look} {go : ItemRes} (hk : Keeps z s)
    (hg : KeepsItem z go) : KeepsItem z (s.change x p ls go) := by
  unfold State.change
  split
  · exact KeepsItem.wait hk
  · exact Keeps.gate hk hg

theorem Keeps.hubNeed {z : State} {s : State} {x : Step} {rs : List (Nat × Nat)} (hk : Keeps z s) :
    KeepsO z (State.hubNeed s x rs) := by
  dsimp only [State.hubNeed]
  repeat' first
    | with_reducible assumption
    | with_reducible apply Keeps.modStep
    | with_reducible apply Keeps.cRequest
    | with_reducible exact KeepsO.none
    | with_reducible apply KeepsO.some
    | with_reducible refine KeepsItem.out_done ?_ (by assumption)
    | with_reducible refine KeepsItem.out_stop ?_ (by assumption)
    | with_reducible refine KeepsItem.out_miss ?_ (by assumption)
    | with_reducible refine KeepsItem.out_wait ?_ (by assumption)
    | exact (rfl : (_ : List (Fin 132)) = _)
    | split

theorem Keeps.addCounts {z : State} {s : State} {slot a b r : Nat} (hk : Keeps z s) :
    Keeps z (State.addCounts s slot a b r) := by
  dsimp only [State.addCounts]
  repeat' first
    | with_reducible assumption
    | with_reducible apply Keeps.modStep

theorem Keeps.walkItem {z : State} {s : State} {c : Fin 64} {p : Nat} {go : Leaf → Nat → Nat → ItemRes} {missing : Nat → ItemRes}
    (hk : Keeps z s) (hg : ∀ l n a, KeepsItem z (go l n a)) (hm : ∀ l, KeepsItem z (missing l)) :
    KeepsItem z (s.walkItem c p go missing) := by
  unfold State.walkItem
  split
  · exact hg _ _ _
  · exact hm _
  · exact hk
  · exact hk

theorem Keeps.nodeMiss {z : State} {s : State} {c : Fin 64} {p level : Nat} (hk : Keeps z s) :
    KeepsItem z (State.nodeMiss s c p level) := by
  dsimp only [State.nodeMiss]
  repeat' first
    | with_reducible assumption
    | with_reducible apply KeepsItem.done
    | with_reducible apply KeepsItem.stop
    | with_reducible apply KeepsItem.miss

theorem Keeps.replaceLeaf {z : State} {s : State} {o : Opened} {c : Fin 64} {p : Nat} {old new : Leaf} {node addr : Nat} {keep : Bool} (hk : Keeps z s) :
    Keeps z (State.replaceLeaf s o c p old new node addr keep).1 := by
  dsimp only [State.replaceLeaf]
  repeat' first
    | with_reducible assumption
    | with_reducible apply Keeps.writeEntry
    | with_reducible apply Keeps.dropRef
    | with_reducible refine KeepsItem.out_done ?_ (by assumption)
    | with_reducible refine KeepsItem.out_stop ?_ (by assumption)
    | with_reducible refine KeepsItem.out_miss ?_ (by assumption)
    | with_reducible refine KeepsItem.out_wait ?_ (by assumption)
    | split

theorem Keeps.leafImage {z : State} {s : State} {o : Opened} {x : Step} {p : Nat} {entry : Bytes} (hk : Keeps z s) :
    KeepsItem z (State.leafImage s o x p entry) := by
  dsimp only [State.leafImage]
  repeat' first
    | with_reducible assumption
    | with_reducible apply Keeps.change
    | with_reducible apply Keeps.addCounts
    | with_reducible apply Keeps.walkItem
    | with_reducible apply Keeps.nodeMiss
    | with_reducible apply Keeps.replaceLeaf
    | with_reducible apply KeepsItem.done
    | with_reducible apply KeepsItem.stop
    | with_reducible apply KeepsItem.miss
    | with_reducible apply KeepsItem.wait
    | with_reducible apply KeepsItem.ite
    | with_reducible refine KeepsItem.out_done ?_ (by assumption)
    | with_reducible refine KeepsItem.out_stop ?_ (by assumption)
    | with_reducible refine KeepsItem.out_miss ?_ (by assumption)
    | with_reducible refine KeepsItem.out_wait ?_ (by assumption)
    | exact (rfl : (_ : List (Fin 132)) = _)
    | split
    | dsimp only
    | intro _

theorem Keeps.interiorImage {z : State} {s : State} {o : Opened} {x : Step} {m : Fin 12} {middle : Bool} {idx : Nat} {entry : Bytes} (hk : Keeps z s) :
    KeepsItem z (State.interiorImage s o x m middle idx entry) := by
  dsimp only [State.interiorImage]
  repeat' first
    | with_reducible assumption
    | with_reducible apply Keeps.writeEntry
    | with_reducible apply Keeps.initNode
    | with_reducible apply Keeps.gate
    | with_reducible apply Keeps.addCounts
    | with_reducible apply KeepsItem.done
    | with_reducible apply KeepsItem.stop
    | with_reducible apply KeepsItem.miss
    | with_reducible apply KeepsItem.wait
    | with_reducible apply KeepsItem.ite
    | with_reducible refine KeepsItem.out_done ?_ (by assumption)
    | with_reducible refine KeepsItem.out_stop ?_ (by assumption)
    | with_reducible refine KeepsItem.out_miss ?_ (by assumption)
    | with_reducible refine KeepsItem.out_wait ?_ (by assumption)
    | split

theorem Keeps.atlasImage {z : State} {x0 : Step} {s : State} {o : Opened} {i : Nat} (hk : Keeps z s) :
    KeepsItem z (State.atlasImage x0 s o i) := by
  dsimp only [State.atlasImage]
  repeat' first
    | with_reducible assumption
    | with_reducible apply Keeps.hubNeed
    | with_reducible apply Keeps.leafImage
    | with_reducible apply Keeps.interiorImage
    | with_reducible apply KeepsItem.done
    | with_reducible apply KeepsItem.stop
    | with_reducible apply KeepsItem.miss
    | with_reducible apply KeepsItem.wait
    | with_reducible apply KeepsItem.ite
    | with_reducible refine KeepsO.out ?_ (by assumption)
    | with_reducible refine KeepsItem.out_done ?_ (by assumption)
    | with_reducible refine KeepsItem.out_stop ?_ (by assumption)
    | with_reducible refine KeepsItem.out_miss ?_ (by assumption)
    | with_reducible refine KeepsItem.out_wait ?_ (by assumption)
    | split

theorem Keeps.leafCame {z : State} {s : State} {c : Fin 64} {p : Nat} {l : Leaf} {slot : Nat} (hk : Keeps z s) :
    Keeps z (State.leafCame s c p l slot) := by
  dsimp only [State.leafCame]
  repeat' first
    | with_reducible assumption
    | with_reducible apply Keeps.modStep
    | with_reducible apply Keeps.addCond
    | with_reducible apply Keeps.addCounts
    | with_reducible apply Keeps.replaceLeaf
    | with_reducible refine KeepsItem.out_done ?_ (by assumption)
    | with_reducible refine KeepsItem.out_stop ?_ (by assumption)
    | with_reducible refine KeepsItem.out_miss ?_ (by assumption)
    | with_reducible refine KeepsItem.out_wait ?_ (by assumption)
    | exact (rfl : (_ : List (Fin 132)) = _)
    | split

theorem Keeps.sharePage {z : State} {x : Step} {s : State} {o : Opened} {i : Nat} (hk : Keeps z s) :
    KeepsItem z (State.sharePage x s o i) := by
  dsimp only [State.sharePage]
  repeat' first
    | with_reducible assumption
    | with_reducible apply Keeps.post
    | with_reducible apply Keeps.modStep
    | with_reducible apply Keeps.writeEntry
    | with_reducible apply Keeps.setLeaf
    | with_reducible apply Keeps.setShare
    | with_reducible apply Keeps.change
    | with_reducible apply Keeps.addCounts
    | with_reducible apply Keeps.walkItem
    | with_reducible apply Keeps.nodeMiss
    | with_reducible apply Keeps.replaceLeaf
    | with_reducible apply KeepsItem.done
    | with_reducible apply KeepsItem.stop
    | with_reducible apply KeepsItem.miss
    | with_reducible apply KeepsItem.wait
    | with_reducible apply KeepsItem.ite
    | with_reducible refine KeepsItem.out_done ?_ (by assumption)
    | with_reducible refine KeepsItem.out_stop ?_ (by assumption)
    | with_reducible refine KeepsItem.out_miss ?_ (by assumption)
    | with_reducible refine KeepsItem.out_wait ?_ (by assumption)
    | exact (rfl : (_ : List (Fin 132)) = _)
    | split
    | dsimp only
    | intro _

theorem Keeps.freePage {z : State} {x : Step} {s : State} {o : Opened} {i : Nat} (hk : Keeps z s) :
    KeepsItem z (State.freePage x s o i) := by
  dsimp only [State.freePage]
  repeat' first
    | with_reducible assumption
    | with_reducible apply Keeps.change
    | with_reducible apply Keeps.addCounts
    | with_reducible apply Keeps.walkItem
    | with_reducible apply Keeps.replaceLeaf
    | with_reducible apply KeepsItem.done
    | with_reducible apply KeepsItem.stop
    | with_reducible apply KeepsItem.miss
    | with_reducible apply KeepsItem.wait
    | with_reducible apply KeepsItem.ite
    | with_reducible refine KeepsItem.out_done ?_ (by assumption)
    | with_reducible refine KeepsItem.out_stop ?_ (by assumption)
    | with_reducible refine KeepsItem.out_miss ?_ (by assumption)
    | with_reducible refine KeepsItem.out_wait ?_ (by assumption)
    | split
    | dsimp only
    | intro _

theorem Keeps.frogPage {z : State} {x : Step} {s : State} {o : Opened} {i : Nat} (hk : Keeps z s) :
    KeepsItem z (State.frogPage x s o i) := by
  dsimp only [State.frogPage]
  repeat' first
    | with_reducible assumption
    | with_reducible apply Keeps.change
    | with_reducible apply Keeps.addCounts
    | with_reducible apply Keeps.walkItem
    | with_reducible apply Keeps.nodeMiss
    | with_reducible apply Keeps.replaceLeaf
    | with_reducible apply KeepsItem.done
    | with_reducible apply KeepsItem.stop
    | with_reducible apply KeepsItem.miss
    | with_reducible apply KeepsItem.wait
    | with_reducible apply KeepsItem.ite
    | with_reducible refine KeepsItem.out_done ?_ (by assumption)
    | with_reducible refine KeepsItem.out_stop ?_ (by assumption)
    | with_reducible refine KeepsItem.out_miss ?_ (by assumption)
    | with_reducible refine KeepsItem.out_wait ?_ (by assumption)
    | split
    | dsimp only
    | intro _

theorem Keeps.allocItem {z : State} {s : State} {c : Fin 64} {p span : Nat} {go : Frame → State → ItemRes}
    (hk : Keeps z s) (hg : ∀ f t, Keeps z t → KeepsItem z (go f t)) : KeepsItem z (s.allocItem c p span go) := by
  unfold State.allocItem
  split
  · rename_i e
    split
    · exact hk
    · exact hg _ _ (hk.allocate e)
  · exact hk
  · exact hk

theorem Keeps.retireMoved {z : State} {s : State} {c : Fin 64} {home : Fin 12} {l : Leaf} {f : Frame} (hk : Keeps z s) :
    Keeps z (State.retireMoved s c home l f).1 := by
  dsimp only [State.retireMoved]
  repeat' first
    | with_reducible assumption
    | with_reducible apply Keeps.retire
    | with_reducible apply Keeps.dropRef
    | with_reducible refine KeepsItem.out_done ?_ (by assumption)
    | with_reducible refine KeepsItem.out_stop ?_ (by assumption)
    | with_reducible refine KeepsItem.out_miss ?_ (by assumption)
    | with_reducible refine KeepsItem.out_wait ?_ (by assumption)
    | split

theorem Keeps.demotePage {z : State} {x : Step} {s : State} {o : Opened} {i : Nat} (hk : Keeps z s) :
    KeepsItem z (State.demotePage x s o i) := by
  dsimp only [State.demotePage]
  repeat' first
    | with_reducible assumption
    | with_reducible apply Keeps.writeEntry
    | with_reducible apply Keeps.newVersion
    | with_reducible apply Keeps.storePage
    | with_reducible apply Keeps.storeBlock
    | with_reducible apply Keeps.change
    | with_reducible apply Keeps.addCounts
    | with_reducible apply Keeps.walkItem
    | with_reducible apply Keeps.nodeMiss
    | with_reducible apply Keeps.allocItem
    | with_reducible apply Keeps.retireMoved
    | with_reducible apply KeepsItem.done
    | with_reducible apply KeepsItem.stop
    | with_reducible apply KeepsItem.miss
    | with_reducible apply KeepsItem.wait
    | with_reducible apply KeepsItem.ite
    | with_reducible refine KeepsItem.out_done ?_ (by assumption)
    | with_reducible refine KeepsItem.out_stop ?_ (by assumption)
    | with_reducible refine KeepsItem.out_miss ?_ (by assumption)
    | with_reducible refine KeepsItem.out_wait ?_ (by assumption)
    | exact (rfl : (_ : List (Fin 132)) = _)
    | split
    | dsimp only
    | intro _

theorem Keeps.restoreInto {z : State} {t : State} {o : Opened} {c : Fin 64} {pg : Nat} {l : Leaf} {node addr : Nat} {p : PageAt} {tiles : List (Nat × Option OpenTile)} {body : Bytes} {f : Frame} (hk : Keeps z t) :
    Keeps z (State.restoreInto t o c pg l node addr p tiles body f).1 := by
  dsimp only [State.restoreInto]
  repeat' first
    | with_reducible assumption
    | with_reducible apply Keeps.putStack
    | with_reducible apply Keeps.writeEntry
    | with_reducible apply Keeps.newVersion
    | with_reducible apply Keeps.storePage
    | with_reducible apply Keeps.retireMoved
    | with_reducible refine KeepsItem.out_done ?_ (by assumption)
    | with_reducible refine KeepsItem.out_stop ?_ (by assumption)
    | with_reducible refine KeepsItem.out_miss ?_ (by assumption)
    | with_reducible refine KeepsItem.out_wait ?_ (by assumption)
    | exact (rfl : (_ : List (Fin 132)) = _)
    | split

theorem Keeps.promote {z : State} {s : State} {o : Opened} {c : Fin 64} {pg : Nat} {l : Leaf} {node addr : Nat} (hk : Keeps z s) :
    KeepsItem z (State.promote s o c pg l node addr) := by
  unfold State.promote
  split
  · exact KeepsItem.stop hk
  · refine KeepsItem.ite (KeepsItem.stop hk) (KeepsItem.ite (KeepsItem.stop hk) (KeepsItem.ite (KeepsItem.wait hk)
      (KeepsItem.ite (KeepsItem.stop hk) (KeepsItem.ite (KeepsItem.stop hk) ?_))))
    split
    · exact KeepsItem.stop hk
    · exact Keeps.allocItem hk (fun f t ht => KeepsItem.ite (KeepsItem.stop hk) (KeepsItem.done (Keeps.restoreInto ht)))

theorem Keeps.promotePage {z : State} {x : Step} {s : State} {o : Opened} {i : Nat} (hk : Keeps z s) :
    KeepsItem z (State.promotePage x s o i) := by
  dsimp only [State.promotePage]
  repeat' first
    | with_reducible assumption
    | with_reducible apply Keeps.change
    | with_reducible apply Keeps.addCounts
    | with_reducible apply Keeps.walkItem
    | with_reducible apply Keeps.nodeMiss
    | with_reducible apply Keeps.promote
    | with_reducible apply KeepsItem.done
    | with_reducible apply KeepsItem.stop
    | with_reducible apply KeepsItem.miss
    | with_reducible apply KeepsItem.wait
    | with_reducible apply KeepsItem.ite
    | with_reducible refine KeepsItem.out_done ?_ (by assumption)
    | with_reducible refine KeepsItem.out_stop ?_ (by assumption)
    | with_reducible refine KeepsItem.out_miss ?_ (by assumption)
    | with_reducible refine KeepsItem.out_wait ?_ (by assumption)
    | split
    | dsimp only
    | intro _

theorem Keeps.copyOnWrite {z : State} {s : State} {o : Opened} {c : Fin 64} {pg : Nat} {l : Leaf} {node addr : Nat} (hk : Keeps z s) :
    KeepsItem z (State.copyOnWrite s o c pg l node addr) := by
  dsimp only [State.copyOnWrite]
  repeat' first
    | with_reducible assumption
    | with_reducible apply Keeps.writeEntry
    | with_reducible apply Keeps.dropRef
    | with_reducible apply Keeps.storeTile
    | with_reducible apply Keeps.newVersion
    | with_reducible apply Keeps.copyPage
    | with_reducible apply Keeps.allocItem
    | with_reducible apply Keeps.each
    | with_reducible apply KeepsItem.done
    | with_reducible apply KeepsItem.stop
    | with_reducible apply KeepsItem.miss
    | with_reducible apply KeepsItem.wait
    | with_reducible apply KeepsItem.ite
    | with_reducible refine KeepsItem.out_done ?_ (by assumption)
    | with_reducible refine KeepsItem.out_stop ?_ (by assumption)
    | with_reducible refine KeepsItem.out_miss ?_ (by assumption)
    | with_reducible refine KeepsItem.out_wait ?_ (by assumption)
    | exact (rfl : (_ : List (Fin 132)) = _)
    | split
    | dsimp only
    | intro _

theorem Keeps.placePage {z : State} {s : State} {o : Opened} {c : Fin 64} {pg slot : Nat} {load : Option (Fin 16)} {layout tileMap ceiling node addr : Nat} (hk : Keeps z s) :
    KeepsItem z (State.placePage s o c pg slot load layout tileMap ceiling node addr) := by
  dsimp only [State.placePage]
  repeat' first
    | with_reducible assumption
    | with_reducible apply Keeps.writeEntry
    | with_reducible apply Keeps.openSession
    | with_reducible apply Keeps.markWritten
    | with_reducible apply Keeps.fillLegends
    | with_reducible apply Keeps.fillAbsent
    | with_reducible apply Keeps.allocItem
    | with_reducible apply Keeps.each
    | with_reducible apply KeepsItem.done
    | with_reducible apply KeepsItem.stop
    | with_reducible apply KeepsItem.miss
    | with_reducible apply KeepsItem.wait
    | with_reducible apply KeepsItem.ite
    | with_reducible refine KeepsItem.out_done ?_ (by assumption)
    | with_reducible refine KeepsItem.out_stop ?_ (by assumption)
    | with_reducible refine KeepsItem.out_miss ?_ (by assumption)
    | with_reducible refine KeepsItem.out_wait ?_ (by assumption)
    | split
    | dsimp only
    | intro _

theorem Keeps.gatherNeed {z : State} {s : State} {x : Step} (hk : Keeps z s) :
    KeepsO z (State.gatherNeed s x) := by
  dsimp only [State.gatherNeed]
  repeat' first
    | with_reducible assumption
    | with_reducible apply Keeps.hubNeed
    | with_reducible exact KeepsO.none
    | with_reducible apply KeepsO.some
    | with_reducible refine KeepsO.out ?_ (by assumption)
    | with_reducible refine KeepsItem.out_done ?_ (by assumption)
    | with_reducible refine KeepsItem.out_stop ?_ (by assumption)
    | with_reducible refine KeepsItem.out_miss ?_ (by assumption)
    | with_reducible refine KeepsItem.out_wait ?_ (by assumption)
    | split

end Sys2Proof.Machine
end

