-- ==== Sys2Proof/Laws/KeepsRings.lean ====
section
/-! SUPPORT. Keeps, for the operations of Machine/Rings.lean. -/
namespace Sys2Proof.Machine

theorem Keeps.enableRing {z : State} {s : State} {c : Fin 64} {r : Fin 4} {log2 : BitVec 8} (hk : Keeps z s) :
    Keeps z (State.enableRing s c r log2) := by
  dsimp only [State.enableRing]
  repeat' first
    | with_reducible assumption
    | ((with_reducible apply Hub.sparesStay_of); intro _; rfl)
    | with_reducible apply Keeps.modHub
    | with_reducible apply Keeps.modCtx
    | with_reducible apply Keeps.modRing

theorem Keeps.dropBurst {z : State} {s : State} {c : Fin 64} {r : Fin 4} (hk : Keeps z s) :
    Keeps z (State.dropBurst s c r) := by
  dsimp only [State.dropBurst]
  repeat' first
    | with_reducible assumption
    | ((with_reducible apply Hub.sparesStay_of); intro _; rfl)
    | with_reducible apply Keeps.modHub
    | with_reducible apply Keeps.modRing

theorem Keeps.disableRing {z : State} {s : State} {c : Fin 64} {r : Fin 4} (hk : Keeps z s) :
    Keeps z (State.disableRing s c r) := by
  dsimp only [State.disableRing]
  repeat' first
    | with_reducible assumption
    | with_reducible apply Keeps.modRing
    | with_reducible apply Keeps.dropBurst

theorem Keeps.refuseDoorbell {z : State} {s : State} {c : Fin 64} {r : Fin 4} {cq : Bool} {count : BitVec 32} (hk : Keeps z s) :
    Keeps z (State.refuseDoorbell s c r cq count) := by
  dsimp only [State.refuseDoorbell]
  repeat' first
    | with_reducible assumption
    | with_reducible apply Keeps.raise

theorem Keeps.execSubmissionDoorbell {z : State} {c : Fin 64} {ring : Fin 4} {count : BitVec 32} {s : State} (hk : Keeps z s) :
    KeepsX z (Sys2Proof.Machine.execSubmissionDoorbell c ring count s) := by
  dsimp only [Sys2Proof.Machine.execSubmissionDoorbell]
  repeat' first
    | with_reducible assumption
    | with_reducible apply Keeps.modRing
    | with_reducible apply Keeps.refuseDoorbell
    | with_reducible exact KeepsX.fault
    | with_reducible apply KeepsX.next
    | with_reducible refine KeepsO.out ?_ (by assumption)
    | with_reducible refine KeepsItem.out_done ?_ (by assumption)
    | with_reducible refine KeepsItem.out_stop ?_ (by assumption)
    | with_reducible refine KeepsItem.out_miss ?_ (by assumption)
    | with_reducible refine KeepsItem.out_wait ?_ (by assumption)
    | exact (rfl : (_ : List (Fin 132)) = _)
    | split

theorem Keeps.execCompletionDoorbell {z : State} {c : Fin 64} {ring : Fin 4} {count : BitVec 32} {s : State} (hk : Keeps z s) :
    KeepsX z (Sys2Proof.Machine.execCompletionDoorbell c ring count s) := by
  dsimp only [Sys2Proof.Machine.execCompletionDoorbell]
  repeat' first
    | with_reducible assumption
    | with_reducible apply Keeps.modRing
    | with_reducible apply Keeps.refuseDoorbell
    | with_reducible exact KeepsX.fault
    | with_reducible apply KeepsX.next
    | with_reducible refine KeepsO.out ?_ (by assumption)
    | with_reducible refine KeepsItem.out_done ?_ (by assumption)
    | with_reducible refine KeepsItem.out_stop ?_ (by assumption)
    | with_reducible refine KeepsItem.out_miss ?_ (by assumption)
    | with_reducible refine KeepsItem.out_wait ?_ (by assumption)
    | exact (rfl : (_ : List (Fin 132)) = _)
    | split

theorem Keeps.enterStep {z : State} {s : State} {c : Fin 64} {ring : Fin 4} {pattern index : Nat} {serial ok : Bool} {bs : Bytes} (hk : Keeps z s) :
    Keeps z (State.enterStep s c ring pattern index serial ok bs) := by
  dsimp only [State.enterStep]
  repeat' first
    | with_reducible assumption
    | ((with_reducible apply Hub.sparesStay_of); intro _; rfl)
    | with_reducible apply Keeps.modHub
    | with_reducible apply Keeps.settleOpReq
    | with_reducible apply Keeps.complete
    | with_reducible refine KeepsItem.out_done ?_ (by assumption)
    | with_reducible refine KeepsItem.out_stop ?_ (by assumption)
    | with_reducible refine KeepsItem.out_miss ?_ (by assumption)
    | with_reducible refine KeepsItem.out_wait ?_ (by assumption)
    | exact (rfl : (_ : List (Fin 132)) = _)
    | split

theorem Keeps.readEntryAt {z : State} {s : State} {c : Fin 64} {ring : Fin 4} {bs : Bytes} {bad : Bool} (hk : Keeps z s) :
    Keeps z (State.readEntryAt s c ring bs bad) := by
  dsimp only [State.readEntryAt]
  repeat' first
    | with_reducible assumption
    | with_reducible apply Keeps.modRing
    | with_reducible apply Keeps.enterStep
    | with_reducible refine KeepsItem.out_done ?_ (by assumption)
    | with_reducible refine KeepsItem.out_stop ?_ (by assumption)
    | with_reducible refine KeepsItem.out_miss ?_ (by assumption)
    | with_reducible refine KeepsItem.out_wait ?_ (by assumption)
    | exact (rfl : (_ : List (Fin 132)) = _)
    | split

theorem Keeps.beginBurst {z : State} {s : State} {c : Fin 64} {ring : Fin 4} {n : Nat} (hk : Keeps z s) :
    Keeps z (State.beginBurst s c ring n) := by
  dsimp only [State.beginBurst]
  repeat' first
    | with_reducible assumption
    | with_reducible apply Keeps.modCtx
    | with_reducible apply Keeps.modRing
    | with_reducible apply Keeps.cRequest

theorem Keeps.burstCame {z : State} {s : State} {c : Fin 64} {ring : Fin 4} (hk : Keeps z s) :
    Keeps z (State.burstCame s c ring) := by
  dsimp only [State.burstCame]
  repeat' first
    | with_reducible assumption
    | with_reducible apply Keeps.modRing

theorem Keeps.takeBurst {z : State} {s : State} {c : Fin 64} {ring : Fin 4} {n : Nat} {d : Bytes × List Nat} (hk : Keeps z s) :
    Keeps z (State.takeBurst s c ring n d) := by
  dsimp only [State.takeBurst]
  repeat' first
    | with_reducible assumption
    | with_reducible apply Keeps.modRing
    | with_reducible apply Keeps.settle
    | with_reducible apply Keeps.readEntryAt
    | with_reducible apply Keeps.each
    | with_reducible refine KeepsItem.out_done ?_ (by assumption)
    | with_reducible refine KeepsItem.out_stop ?_ (by assumption)
    | with_reducible refine KeepsItem.out_miss ?_ (by assumption)
    | with_reducible refine KeepsItem.out_wait ?_ (by assumption)
    | exact (rfl : (_ : List (Fin 132)) = _)
    | split
    | dsimp only
    | intro _

theorem Keeps.execEntryRead {z : State} {c : Fin 64} {ring : Fin 4} {n : Nat} {w_data : Bytes} {w_errs : List Nat} {s : State} (hk : Keeps z s) :
    KeepsX z (Sys2Proof.Machine.execEntryRead c ring n w_data w_errs s) := by
  dsimp only [Sys2Proof.Machine.execEntryRead]
  repeat' first
    | with_reducible assumption
    | with_reducible apply Keeps.count
    | with_reducible apply Keeps.beginBurst
    | with_reducible apply Keeps.takeBurst
    | with_reducible exact KeepsX.fault
    | with_reducible apply KeepsX.next
    | with_reducible refine KeepsO.out ?_ (by assumption)
    | with_reducible refine KeepsItem.out_done ?_ (by assumption)
    | with_reducible refine KeepsItem.out_stop ?_ (by assumption)
    | with_reducible refine KeepsItem.out_miss ?_ (by assumption)
    | with_reducible refine KeepsItem.out_wait ?_ (by assumption)
    | split

theorem Keeps.putResults {z : State} {s : State} {x : Step} (hk : Keeps z s) :
    Keeps z (State.putResults s x) := by
  dsimp only [State.putResults]
  repeat' first
    | with_reducible assumption
    | with_reducible apply Keeps.modStep
    | with_reducible apply Keeps.cRequest
    | with_reducible apply Keeps.naccWrite
    | with_reducible apply Keeps.each
    | with_reducible refine KeepsItem.out_done ?_ (by assumption)
    | with_reducible refine KeepsItem.out_stop ?_ (by assumption)
    | with_reducible refine KeepsItem.out_miss ?_ (by assumption)
    | with_reducible refine KeepsItem.out_wait ?_ (by assumption)
    | exact (rfl : (_ : List (Fin 132)) = _)
    | split
    | dsimp only
    | intro _

theorem Keeps.closeLost {z : State} {s : State} {x : Step} (hk : Keeps z s) :
    Keeps z (State.closeLost s x) := by
  dsimp only [State.closeLost]
  repeat' first
    | with_reducible assumption
    | ((with_reducible apply Slice.staysDead_of); intro _; rfl)
    | with_reducible apply Keeps.modSlice
    | with_reducible apply Keeps.each
    | with_reducible apply KeepsO.findSome
    | with_reducible apply KeepsO.bind
    | with_reducible apply KeepsO.getD
    | with_reducible refine KeepsItem.out_done ?_ (by assumption)
    | with_reducible refine KeepsItem.out_stop ?_ (by assumption)
    | with_reducible refine KeepsItem.out_miss ?_ (by assumption)
    | with_reducible refine KeepsItem.out_wait ?_ (by assumption)
    | exact (rfl : (_ : List (Fin 132)) = _)
    | split
    | dsimp only
    | intro _

theorem Keeps.execStepCompletion {z : State} {slot : Nat} {s : State} (hk : Keeps z s) :
    KeepsX z (Sys2Proof.Machine.execStepCompletion slot s) := by
  dsimp only [Sys2Proof.Machine.execStepCompletion]
  repeat' first
    | with_reducible assumption
    | with_reducible apply Keeps.complete
    | with_reducible apply Keeps.putResults
    | with_reducible apply Keeps.closeLost
    | with_reducible exact KeepsX.fault
    | with_reducible apply KeepsX.next
    | with_reducible refine KeepsO.out ?_ (by assumption)
    | with_reducible refine KeepsItem.out_done ?_ (by assumption)
    | with_reducible refine KeepsItem.out_stop ?_ (by assumption)
    | with_reducible refine KeepsItem.out_miss ?_ (by assumption)
    | with_reducible refine KeepsItem.out_wait ?_ (by assumption)
    | split

theorem Keeps.execCompletionRecordWrite {z : State} {c : Fin 64} {ring : Fin 4} {s : State} (hk : Keeps z s) :
    KeepsX z (Sys2Proof.Machine.execCompletionRecordWrite c ring s) := by
  dsimp only [Sys2Proof.Machine.execCompletionRecordWrite]
  repeat' first
    | with_reducible assumption
    | with_reducible apply Keeps.putRecord
    | with_reducible apply Keeps.settleClosing
    | with_reducible exact KeepsX.fault
    | with_reducible apply KeepsX.next
    | with_reducible refine KeepsO.out ?_ (by assumption)
    | with_reducible refine KeepsItem.out_done ?_ (by assumption)
    | with_reducible refine KeepsItem.out_stop ?_ (by assumption)
    | with_reducible refine KeepsItem.out_miss ?_ (by assumption)
    | with_reducible refine KeepsItem.out_wait ?_ (by assumption)
    | split

end Sys2Proof.Machine
end

