-- ==== Sys2Proof/Laws/KeepsContexts.lean ====
section
/-! SUPPORT. Keeps, for the operations of Machine/Contexts.lean. -/
namespace Sys2Proof.Machine

theorem Keeps.openCtx {z : State} {s : State} {c : Fin 64} {keyed : Bool} (hk : Keeps z s) :
    Keeps z (State.openCtx s c keyed) := by
  dsimp only [State.openCtx]
  repeat' first
    | with_reducible assumption
    | with_reducible apply Keeps.modCtx
    | with_reducible refine KeepsItem.out_done ?_ (by assumption)
    | with_reducible refine KeepsItem.out_stop ?_ (by assumption)
    | with_reducible refine KeepsItem.out_miss ?_ (by assumption)
    | with_reducible refine KeepsItem.out_wait ?_ (by assumption)
    | exact (rfl : (_ : List (Fin 132)) = _)
    | split
    | dsimp only
    | intro _
    | fail_if_no_progress with_reducible apply Keeps.fields

theorem Keeps.closeCtx {z : State} {s : State} {c : Fin 64} (hk : Keeps z s) :
    Keeps z (State.closeCtx s c) := by
  dsimp only [State.closeCtx]
  repeat' first
    | with_reducible assumption
    | with_reducible apply Keeps.modCtx
    | with_reducible apply Keeps.settle
    | with_reducible apply Keeps.settleClosing
    | with_reducible apply Keeps.abortSteps
    | with_reducible refine KeepsItem.out_done ?_ (by assumption)
    | with_reducible refine KeepsItem.out_stop ?_ (by assumption)
    | with_reducible refine KeepsItem.out_miss ?_ (by assumption)
    | with_reducible refine KeepsItem.out_wait ?_ (by assumption)
    | exact (rfl : (_ : List (Fin 132)) = _)
    | split

theorem Keeps.clearStage {z : State} {s : State} (hk : Keeps z s) :
    Keeps z (State.clearStage s) := by
  dsimp only [State.clearStage]
  repeat' first
    | with_reducible assumption
    | ((with_reducible apply Hub.sparesStay_of); intro _; rfl)
    | with_reducible apply Keeps.modHub

theorem Keeps.initRoot {z : State} {s : State} {m : Fin 12} {c : Fin 64} (hk : Keeps z s) :
    Keeps z (State.initRoot s m c) := by
  dsimp only [State.initRoot]
  repeat' first
    | with_reducible assumption
    | with_reducible apply Keeps.modCtx
    | with_reducible apply Keeps.need
    | with_reducible apply Keeps.forgetLooks
    | with_reducible apply Keeps.initNode
    | with_reducible refine KeepsO.out ?_ (by assumption)
    | with_reducible refine KeepsItem.out_done ?_ (by assumption)
    | with_reducible refine KeepsItem.out_stop ?_ (by assumption)
    | with_reducible refine KeepsItem.out_miss ?_ (by assumption)
    | with_reducible refine KeepsItem.out_wait ?_ (by assumption)
    | exact (rfl : (_ : List (Fin 132)) = _)
    | split

theorem Keeps.initRoots {z : State} {s : State} {m : Fin 12} (hk : Keeps z s) :
    Keeps z (State.initRoots s m) := by
  dsimp only [State.initRoots]
  repeat' first
    | with_reducible assumption
    | with_reducible apply Keeps.initRoot
    | with_reducible apply Keeps.each
    | with_reducible refine KeepsItem.out_done ?_ (by assumption)
    | with_reducible refine KeepsItem.out_stop ?_ (by assumption)
    | with_reducible refine KeepsItem.out_miss ?_ (by assumption)
    | with_reducible refine KeepsItem.out_wait ?_ (by assumption)
    | split
    | dsimp only
    | intro _

theorem Keeps.loadKey {z : State} {s : State} {c : Fin 64} (hk : Keeps z s) :
    Keeps z (State.loadKey s c) := by
  dsimp only [State.loadKey]
  repeat' first
    | with_reducible assumption
    | with_reducible apply Keeps.modCtx
    | with_reducible apply Keeps.initRoot
    | with_reducible apply Keeps.each
    | with_reducible refine KeepsItem.out_done ?_ (by assumption)
    | with_reducible refine KeepsItem.out_stop ?_ (by assumption)
    | with_reducible refine KeepsItem.out_miss ?_ (by assumption)
    | with_reducible refine KeepsItem.out_wait ?_ (by assumption)
    | exact (rfl : (_ : List (Fin 132)) = _)
    | split
    | dsimp only
    | intro _

theorem Keeps.loadWeightKey {z : State} {s : State} {w : Fin 16} (hk : Keeps z s) :
    Keeps z (State.loadWeightKey s w) := by
  dsimp only [State.loadWeightKey]
  repeat' first
    | with_reducible assumption
    | ((with_reducible apply Hub.sparesStay_of); intro _; rfl)
    | with_reducible apply Keeps.modHub

theorem Keeps.zeroWeight {z : State} {s : State} {w : Fin 16} (hk : Keeps z s) :
    Keeps z (State.zeroWeight s w) := by
  dsimp only [State.zeroWeight]
  repeat' first
    | with_reducible assumption
    | ((with_reducible apply Hub.sparesStay_of); intro _; rfl)
    | with_reducible apply Keeps.modHub

theorem Keeps.abortKeyed {z : State} {s : State} {cause : Nat} (hk : Keeps z s) :
    Keeps z (State.abortKeyed s cause) := by
  dsimp only [State.abortKeyed]
  repeat' first
    | with_reducible assumption
    | with_reducible apply Keeps.abortCtx
    | with_reducible apply Keeps.each
    | with_reducible refine KeepsItem.out_done ?_ (by assumption)
    | with_reducible refine KeepsItem.out_stop ?_ (by assumption)
    | with_reducible refine KeepsItem.out_miss ?_ (by assumption)
    | with_reducible refine KeepsItem.out_wait ?_ (by assumption)
    | split
    | dsimp only
    | intro _

theorem Keeps.zeroAllKeys {z : State} {s : State} (hk : Keeps z s) :
    Keeps z (State.zeroAllKeys s) := by
  dsimp only [State.zeroAllKeys]
  repeat' first
    | with_reducible assumption
    | with_reducible refine KeepsItem.out_done ?_ (by assumption)
    | with_reducible refine KeepsItem.out_stop ?_ (by assumption)
    | with_reducible refine KeepsItem.out_miss ?_ (by assumption)
    | with_reducible refine KeepsItem.out_wait ?_ (by assumption)
    | exact (rfl : (_ : List (Fin 132)) = _)
    | split
    | dsimp only
    | intro _
    | fail_if_no_progress with_reducible apply Keeps.fields

theorem Keeps.zeroiseEverything {z : State} {s : State} (hk : Keeps z s) :
    Keeps z (State.zeroiseEverything s) := by
  dsimp only [State.zeroiseEverything]
  repeat' first
    | with_reducible assumption
    | ((with_reducible apply Hub.sparesStay_of); intro _; rfl)
    | with_reducible apply Keeps.modHub
    | with_reducible apply Keeps.raise
    | with_reducible apply Keeps.clearStage
    | with_reducible apply Keeps.abortKeyed
    | with_reducible apply Keeps.zeroAllKeys
    | with_reducible refine KeepsItem.out_done ?_ (by assumption)
    | with_reducible refine KeepsItem.out_stop ?_ (by assumption)
    | with_reducible refine KeepsItem.out_miss ?_ (by assumption)
    | with_reducible refine KeepsItem.out_wait ?_ (by assumption)
    | exact (rfl : (_ : List (Fin 132)) = _)
    | split
    | dsimp only
    | intro _
    | fail_if_no_progress with_reducible apply Keeps.fields

theorem Keeps.sweepResident {z : State} {s : State} {c : Fin 64} {m : Fin 12} {lay : Layout} {l : Leaf} {p : PageAt} (hk : Keeps z s) :
    Keeps z (State.sweepResident s c m lay l p) := by
  dsimp only [State.sweepResident]
  repeat' first
    | with_reducible assumption
    | with_reducible apply Keeps.closeSession
    | with_reducible apply Keeps.openSession
    | with_reducible apply Keeps.markWritten
    | with_reducible apply Keeps.storeTile
    | with_reducible apply Keeps.countRead
    | with_reducible apply Keeps.rewrapDemoted
    | with_reducible apply Keeps.each
    | with_reducible refine KeepsItem.out_done ?_ (by assumption)
    | with_reducible refine KeepsItem.out_stop ?_ (by assumption)
    | with_reducible refine KeepsItem.out_miss ?_ (by assumption)
    | with_reducible refine KeepsItem.out_wait ?_ (by assumption)
    | split
    | dsimp only
    | intro _

theorem Keeps.sweepNear {z : State} {s : State} {c : Fin 64} {m : Fin 12} {l : Leaf} {lay : Layout} {t : Nat} (hk : Keeps z s) :
    Keeps z (State.sweepNear s c m l lay t) := by
  dsimp only [State.sweepNear]
  repeat' first
    | with_reducible assumption
    | with_reducible apply Keeps.putNear
    | with_reducible refine KeepsItem.out_done ?_ (by assumption)
    | with_reducible refine KeepsItem.out_stop ?_ (by assumption)
    | with_reducible refine KeepsItem.out_miss ?_ (by assumption)
    | with_reducible refine KeepsItem.out_wait ?_ (by assumption)
    | split

theorem Keeps.sweepLeaf {z : State} {s : State} {c : Fin 64} {m : Fin 12} {p : Nat} {l : Leaf} (hk : Keeps z s) :
    KeepsO z (State.sweepLeaf s c m p l) := by
  dsimp only [State.sweepLeaf]
  repeat' first
    | with_reducible assumption
    | with_reducible apply Keeps.modCtx
    | with_reducible apply Keeps.sweepResident
    | with_reducible apply Keeps.sweepNear
    | with_reducible apply Keeps.each
    | with_reducible exact KeepsO.none
    | with_reducible apply KeepsO.some
    | with_reducible refine KeepsItem.out_done ?_ (by assumption)
    | with_reducible refine KeepsItem.out_stop ?_ (by assumption)
    | with_reducible refine KeepsItem.out_miss ?_ (by assumption)
    | with_reducible refine KeepsItem.out_wait ?_ (by assumption)
    | exact (rfl : (_ : List (Fin 132)) = _)
    | split
    | dsimp only
    | intro _

theorem Keeps.sweepTo {z : State} {s : State} {c : Fin 64} {m : Fin 12} {q : Nat} (hk : Keeps z s) :
    Keeps z (State.sweepTo s c m q) := by
  dsimp only [State.sweepTo]
  repeat' first
    | with_reducible assumption
    | with_reducible apply Keeps.modCtx

theorem Keeps.sweepItem {z : State} {s : State} {c : Fin 64} {m : Fin 12} {q : Nat} (hk : Keeps z s) :
    Keeps z (State.sweepItem s c m q).1 := by
  dsimp only [State.sweepItem]
  repeat' first
    | with_reducible assumption
    | with_reducible apply Keeps.need
    | with_reducible apply Keeps.forgetLooks
    | with_reducible apply Keeps.sweepLeaf
    | with_reducible refine KeepsO.out ?_ (by assumption)
    | with_reducible refine KeepsItem.out_done ?_ (by assumption)
    | with_reducible refine KeepsItem.out_stop ?_ (by assumption)
    | with_reducible refine KeepsItem.out_miss ?_ (by assumption)
    | with_reducible refine KeepsItem.out_wait ?_ (by assumption)
    | split

theorem Keeps.sweepRun {z : State} {c : Fin 64} {m : Fin 12} {n : Nat} {s : State} (hk : Keeps z s) :
    Keeps z (State.sweepRun c m n s) := by
  induction n generalizing s with
  | zero => exact hk
  | succ n ih =>
    unfold State.sweepRun
    dsimp only
    split
    · exact hk
    · have k := Keeps.sweepItem (c := c) (m := m) (q := (s.ctx c).sweepAt[m.1]) hk
      split
      · rename_i e; rw [e] at k; exact ih (Keeps.sweepTo k)
      · rename_i e; rw [e] at k; exact k

theorem Keeps.sweepOn {z : State} {s : State} {c : Fin 64} (hk : Keeps z s) :
    Keeps z (State.sweepOn s c) := by
  dsimp only [State.sweepOn]
  repeat' first
    | with_reducible assumption
    | with_reducible apply Keeps.asSweep
    | with_reducible apply Keeps.sweepRun
    | with_reducible apply Keeps.each
    | with_reducible refine KeepsItem.out_done ?_ (by assumption)
    | with_reducible refine KeepsItem.out_stop ?_ (by assumption)
    | with_reducible refine KeepsItem.out_miss ?_ (by assumption)
    | with_reducible refine KeepsItem.out_wait ?_ (by assumption)
    | split
    | dsimp only
    | intro _

theorem Keeps.sweepAll {z : State} {s : State} (hk : Keeps z s) :
    Keeps z (State.sweepAll s) := by
  dsimp only [State.sweepAll]
  repeat' first
    | with_reducible assumption
    | with_reducible apply Keeps.sweepOn
    | with_reducible apply Keeps.each

theorem Keeps.execSweepDone {z : State} {c : Fin 64} {s : State} (hk : Keeps z s) :
    KeepsX z (Sys2Proof.Machine.execSweepDone c s) := by
  dsimp only [Sys2Proof.Machine.execSweepDone]
  repeat' first
    | with_reducible assumption
    | ((with_reducible apply Hub.sparesStay_of); intro _; rfl)
    | with_reducible apply Keeps.modHub
    | with_reducible apply Keeps.modCtx
    | with_reducible apply Keeps.sweepOn
    | with_reducible exact KeepsX.fault
    | with_reducible apply KeepsX.next
    | with_reducible refine KeepsO.out ?_ (by assumption)
    | with_reducible refine KeepsItem.out_done ?_ (by assumption)
    | with_reducible refine KeepsItem.out_stop ?_ (by assumption)
    | with_reducible refine KeepsItem.out_miss ?_ (by assumption)
    | with_reducible refine KeepsItem.out_wait ?_ (by assumption)
    | exact (rfl : (_ : List (Fin 132)) = _)
    | split

theorem Keeps.rotateKey {z : State} {s : State} {c : Fin 64} (hk : Keeps z s) :
    Keeps z (State.rotateKey s c) := by
  dsimp only [State.rotateKey]
  repeat' first
    | with_reducible assumption
    | with_reducible apply Keeps.modCtx
    | with_reducible apply Keeps.sweepOn

theorem Keeps.execPrevSlotRelease {z : State} {c : Fin 64} {s : State} (hk : Keeps z s) :
    KeepsX z (Sys2Proof.Machine.execPrevSlotRelease c s) := by
  dsimp only [Sys2Proof.Machine.execPrevSlotRelease]
  repeat' first
    | with_reducible assumption
    | with_reducible apply Keeps.modCtx
    | with_reducible exact KeepsX.fault
    | with_reducible apply KeepsX.next
    | with_reducible refine KeepsO.out ?_ (by assumption)
    | with_reducible refine KeepsItem.out_done ?_ (by assumption)
    | with_reducible refine KeepsItem.out_stop ?_ (by assumption)
    | with_reducible refine KeepsItem.out_miss ?_ (by assumption)
    | with_reducible refine KeepsItem.out_wait ?_ (by assumption)
    | exact (rfl : (_ : List (Fin 132)) = _)
    | split

theorem Keeps.execScrubPhase2 {z : State} {c : Fin 64} {s : State} (hk : Keeps z s) :
    KeepsX z (Sys2Proof.Machine.execScrubPhase2 c s) := by
  dsimp only [Sys2Proof.Machine.execScrubPhase2]
  repeat' first
    | with_reducible assumption
    | with_reducible apply Keeps.modCtx
    | with_reducible apply Keeps.raise
    | with_reducible apply Keeps.each
    | with_reducible exact KeepsX.fault
    | with_reducible apply KeepsX.next
    | with_reducible refine KeepsO.out ?_ (by assumption)
    | with_reducible refine KeepsItem.out_done ?_ (by assumption)
    | with_reducible refine KeepsItem.out_stop ?_ (by assumption)
    | with_reducible refine KeepsItem.out_miss ?_ (by assumption)
    | with_reducible refine KeepsItem.out_wait ?_ (by assumption)
    | exact (rfl : (_ : List (Fin 132)) = _)
    | split
    | dsimp only
    | intro _

theorem Keeps.execScrubUnit {z : State} {c : Fin 64} {u : UnitId} {s : State} (hk : Keeps z s) :
    KeepsX z (Sys2Proof.Machine.execScrubUnit c u s) := by
  dsimp only [Sys2Proof.Machine.execScrubUnit]
  repeat' first
    | with_reducible assumption
    | with_reducible apply Keeps.modCtx
    | with_reducible apply Keeps.modStation
    | with_reducible apply Keeps.writeStack
    | with_reducible apply Keeps.tallyAdd
    | with_reducible apply Keeps.cRequest
    | with_reducible apply Keeps.mSent
    | with_reducible apply Keeps.naccWrite
    | with_reducible exact KeepsX.fault
    | with_reducible apply KeepsX.next
    | with_reducible refine KeepsO.out ?_ (by assumption)
    | with_reducible refine KeepsItem.out_done ?_ (by assumption)
    | with_reducible refine KeepsItem.out_stop ?_ (by assumption)
    | with_reducible refine KeepsItem.out_miss ?_ (by assumption)
    | with_reducible refine KeepsItem.out_wait ?_ (by assumption)
    | exact (rfl : (_ : List (Fin 132)) = _)
    | split

theorem Keeps.execScrubEnd {z : State} {c : Fin 64} {s : State} (hk : Keeps z s) :
    KeepsX z (Sys2Proof.Machine.execScrubEnd c s) := by
  dsimp only [Sys2Proof.Machine.execScrubEnd]
  repeat' first
    | with_reducible assumption
    | with_reducible apply Keeps.modCtx
    | with_reducible exact KeepsX.fault
    | with_reducible apply KeepsX.next
    | with_reducible refine KeepsO.out ?_ (by assumption)
    | with_reducible refine KeepsItem.out_done ?_ (by assumption)
    | with_reducible refine KeepsItem.out_stop ?_ (by assumption)
    | with_reducible refine KeepsItem.out_miss ?_ (by assumption)
    | with_reducible refine KeepsItem.out_wait ?_ (by assumption)
    | exact (rfl : (_ : List (Fin 132)) = _)
    | split

theorem Keeps.measureNow {z : State} {s : State} (hk : Keeps z s) :
    Keeps z (State.measureNow s) := by
  dsimp only [State.measureNow]
  repeat' first
    | with_reducible assumption
    | ((with_reducible apply Hub.sparesStay_of); intro _; rfl)
    | with_reducible apply Keeps.modHub

end Sys2Proof.Machine
end

