-- ==== Sys2Proof/Laws/KeepsReady.lean ====
section
/-! SUPPORT. Keeps, for the operations of Machine/Ready.lean. -/
namespace Sys2Proof.Machine

theorem Keeps.modStream {z : State} {s : State} {x : Step} {f : PStream → PStream} (hk : Keeps z s) :
    Keeps z (State.modStream s x f) := by
  dsimp only [State.modStream]
  repeat' first
    | with_reducible assumption
    | with_reducible apply Keeps.modCtx

theorem Keeps.makeReady {z : State} {s : State} {x : Step} (hk : Keeps z s) :
    Keeps z (State.makeReady s x) := by
  dsimp only [State.makeReady]
  repeat' first
    | with_reducible assumption
    | with_reducible apply Keeps.modStep
    | with_reducible apply Keeps.modStream
    | with_reducible refine KeepsItem.out_done ?_ (by assumption)
    | with_reducible refine KeepsItem.out_stop ?_ (by assumption)
    | with_reducible refine KeepsItem.out_miss ?_ (by assumption)
    | with_reducible refine KeepsItem.out_wait ?_ (by assumption)
    | exact (rfl : (_ : List (Fin 132)) = _)
    | split

theorem Keeps.findReady {z : State} {s : State} (hk : Keeps z s) :
    Keeps z (State.findReady s) := by
  dsimp only [State.findReady]
  repeat' first
    | with_reducible assumption
    | with_reducible apply Keeps.makeReady
    | with_reducible apply Keeps.each
    | with_reducible refine KeepsItem.out_done ?_ (by assumption)
    | with_reducible refine KeepsItem.out_stop ?_ (by assumption)
    | with_reducible refine KeepsItem.out_miss ?_ (by assumption)
    | with_reducible refine KeepsItem.out_wait ?_ (by assumption)
    | split
    | dsimp only
    | intro _

theorem Keeps.ask {z : State} {s : State} {slot a : Nat} (hk : Keeps z s) :
    Keeps z (State.ask s slot a) := by
  dsimp only [State.ask]
  repeat' first
    | with_reducible assumption
    | with_reducible apply Keeps.post
    | with_reducible apply Keeps.modStep
    | with_reducible refine KeepsItem.out_done ?_ (by assumption)
    | with_reducible refine KeepsItem.out_stop ?_ (by assumption)
    | with_reducible refine KeepsItem.out_miss ?_ (by assumption)
    | with_reducible refine KeepsItem.out_wait ?_ (by assumption)
    | exact (rfl : (_ : List (Fin 132)) = _)
    | split

theorem Keeps.askNew {z : State} {s : State} {x : Step} {a : Nat} (hk : Keeps z s) :
    KeepsO z (State.askNew s x a) := by
  dsimp only [State.askNew]
  repeat' first
    | with_reducible assumption
    | with_reducible apply Keeps.ask
    | with_reducible exact KeepsO.none
    | with_reducible apply KeepsO.some
    | with_reducible refine KeepsItem.out_done ?_ (by assumption)
    | with_reducible refine KeepsItem.out_stop ?_ (by assumption)
    | with_reducible refine KeepsItem.out_miss ?_ (by assumption)
    | with_reducible refine KeepsItem.out_wait ?_ (by assumption)
    | split

theorem Keeps.askMasks {z : State} {s : State} {x : Step} (hk : Keeps z s) :
    Keeps z (State.askMasks s x) := by
  dsimp only [State.askMasks]
  repeat' first
    | with_reducible assumption
    | with_reducible apply Keeps.ask
    | with_reducible apply Keeps.each
    | with_reducible refine KeepsItem.out_done ?_ (by assumption)
    | with_reducible refine KeepsItem.out_stop ?_ (by assumption)
    | with_reducible refine KeepsItem.out_miss ?_ (by assumption)
    | with_reducible refine KeepsItem.out_wait ?_ (by assumption)
    | split
    | dsimp only
    | intro _

theorem Keeps.markDispatched {z : State} {s : State} {x : Step} {ls : List Nat} (hk : Keeps z s) :
    Keeps z (State.markDispatched s x ls) := by
  dsimp only [State.markDispatched]
  repeat' first
    | with_reducible assumption
    | with_reducible apply Keeps.modStep

theorem Keeps.bindSlices {z : State} {s : State} {c : Fin 64} {ls : List Nat} (hk : Keeps z s) :
    Keeps z (State.bindSlices s c ls) := by
  dsimp only [State.bindSlices]
  repeat' first
    | with_reducible assumption
    | ((with_reducible apply Slice.staysDead_of); intro _; rfl)
    | with_reducible apply Keeps.modSlice
    | with_reducible apply Keeps.post
    | with_reducible apply Keeps.each
    | with_reducible refine KeepsItem.out_done ?_ (by assumption)
    | with_reducible refine KeepsItem.out_stop ?_ (by assumption)
    | with_reducible refine KeepsItem.out_miss ?_ (by assumption)
    | with_reducible refine KeepsItem.out_wait ?_ (by assumption)
    | exact (rfl : (_ : List (Fin 132)) = _)
    | split
    | dsimp only
    | intro _

theorem Keeps.openSets {z : State} {s : State} {x : Step} {ls : List Nat} (hk : Keeps z s) :
    Keeps z (State.openSets s x ls) := by
  dsimp only [State.openSets]
  repeat' first
    | with_reducible assumption
    | ((with_reducible apply Slice.staysDead_of); intro _; rfl)
    | with_reducible apply Keeps.modSlice
    | with_reducible apply Keeps.each
    | with_reducible refine KeepsItem.out_done ?_ (by assumption)
    | with_reducible refine KeepsItem.out_stop ?_ (by assumption)
    | with_reducible refine KeepsItem.out_miss ?_ (by assumption)
    | with_reducible refine KeepsItem.out_wait ?_ (by assumption)
    | exact (rfl : (_ : List (Fin 132)) = _)
    | split
    | dsimp only
    | intro _

theorem Keeps.sendShares {z : State} {s : State} {x : Step} {ls : List Nat} (hk : Keeps z s) :
    Keeps z (State.sendShares s x ls) := by
  dsimp only [State.sendShares]
  repeat' first
    | with_reducible assumption
    | with_reducible apply Keeps.post
    | with_reducible apply Keeps.each
    | with_reducible refine KeepsItem.out_done ?_ (by assumption)
    | with_reducible refine KeepsItem.out_stop ?_ (by assumption)
    | with_reducible refine KeepsItem.out_miss ?_ (by assumption)
    | with_reducible refine KeepsItem.out_wait ?_ (by assumption)
    | split
    | dsimp only
    | intro _

theorem Keeps.dispatch {z : State} {s : State} {x : Step} {ls : List Nat} (hk : Keeps z s) :
    Keeps z (State.dispatch s x ls) := by
  dsimp only [State.dispatch]
  repeat' first
    | with_reducible assumption
    | with_reducible apply Keeps.failTile
    | with_reducible apply Keeps.markDispatched
    | with_reducible apply Keeps.bindSlices
    | with_reducible apply Keeps.openSets
    | with_reducible apply Keeps.sendShares
    | with_reducible apply Keeps.each
    | with_reducible refine KeepsItem.out_done ?_ (by assumption)
    | with_reducible refine KeepsItem.out_stop ?_ (by assumption)
    | with_reducible refine KeepsItem.out_miss ?_ (by assumption)
    | with_reducible refine KeepsItem.out_wait ?_ (by assumption)
    | split
    | dsimp only
    | intro _

theorem Keeps.tryStep {z : State} {s : State} {slot : Nat} {mine : Step → Bool} {go : State → Step → List Nat → State}
    (hk : Keeps z s) (hg : ∀ t x ls, Keeps z t → Keeps z (go t x ls)) : Keeps z (s.tryStep slot mine go) := by
  dsimp only [State.tryStep]
  repeat' first
    | with_reducible assumption
    | with_reducible apply hg
    | with_reducible apply Keeps.complete
    | with_reducible apply Keeps.askMasks
    | with_reducible apply Keeps.makeReady
    | with_reducible apply KeepsO.getD
    | with_reducible apply Keeps.hubNeed
    | split

end Sys2Proof.Machine
end

