-- ==== Sys2Proof/Laws/KeepsOutRound.lean ====
section
/-! SUPPORT. Keeps, for the operations of Machine/OutRound.lean. -/
namespace Sys2Proof.Machine

theorem Keeps.pushEntry {z : State} {s : State} {src : UnitId} {c : Fin 64} {tag : Nat} {e : QEntry} (hk : Keeps z s) :
    KeepsO z (State.pushEntry s src c tag e) := by
  dsimp only [State.pushEntry]
  repeat' first
    | with_reducible assumption
    | with_reducible apply Keeps.post
    | with_reducible apply Keeps.modShare
    | with_reducible exact KeepsO.none
    | with_reducible apply KeepsO.some
    | with_reducible apply KeepsO.bind
    | with_reducible refine KeepsItem.out_done ?_ (by assumption)
    | with_reducible refine KeepsItem.out_stop ?_ (by assumption)
    | with_reducible refine KeepsItem.out_miss ?_ (by assumption)
    | with_reducible refine KeepsItem.out_wait ?_ (by assumption)
    | exact (rfl : (_ : List (Fin 132)) = _)
    | split
    | dsimp only
    | intro _

theorem Keeps.pushFor {z : State} {s : State} {src : UnitId} {x : Step} {tag : Nat} {e : QEntry} (hk : Keeps z s) :
    KeepsO z (s.pushFor src x tag e) := by
  intro t h
  unfold State.pushFor at h
  obtain ⟨u, hu, rfl⟩ := Option.map_eq_some_iff.mp h
  exact Keeps.modStep (KeepsO.out (Keeps.pushEntry hk) hu)

theorem Keeps.pushLinks {z : State} {n : Fin 132} {slot : Nat} {k : Nat} {s : State} (hk : Keeps z s) :
    Keeps z (State.pushLinks s n slot k) := by
  induction k generalizing s with
  | zero => exact hk
  | succ k ih =>
    unfold State.pushLinks
    repeat' first
      | with_reducible assumption
      | with_reducible apply ih
      | with_reducible apply Keeps.modShare
      | split
      | with_reducible refine KeepsO.out (KeepsO.bind (fun _ => Keeps.pushFor ?_)) (by assumption)

theorem Keeps.pushStation {z : State} {s : State} {l : Fin 16} (hk : Keeps z s) :
    Keeps z (State.pushStation s l) := by
  dsimp only [State.pushStation]
  repeat' first
    | with_reducible assumption
    | with_reducible apply Keeps.modLink
    | with_reducible apply Keeps.pushEntry
    | with_reducible apply Keeps.pushFor
    | with_reducible apply Keeps.each
    | with_reducible refine KeepsO.out ?_ (by assumption)
    | with_reducible refine KeepsItem.out_done ?_ (by assumption)
    | with_reducible refine KeepsItem.out_stop ?_ (by assumption)
    | with_reducible refine KeepsItem.out_miss ?_ (by assumption)
    | with_reducible refine KeepsItem.out_wait ?_ (by assumption)
    | exact (rfl : (_ : List (Fin 132)) = _)
    | split
    | dsimp only
    | intro _

theorem Keeps.flushLink {z : State} {s : State} {n : Fin 132} {slot : Nat} (hk : Keeps z s) :
    Keeps z (State.flushLink s n slot) := by
  dsimp only [State.flushLink]
  repeat' first
    | with_reducible assumption
    | with_reducible apply Keeps.settleShare
    | with_reducible apply Keeps.pushLinks

theorem Keeps.sendTile {z : State} {s : State} {n : Fin 132} {x : Step} {h : Share} {o : OutTile} (hk : Keeps z s) :
    Keeps z (State.sendTile s n x h o) := by
  dsimp only [State.sendTile]
  repeat' first
    | with_reducible assumption
    | with_reducible apply Keeps.post
    | with_reducible apply Keeps.lose
    | with_reducible refine KeepsItem.out_done ?_ (by assumption)
    | with_reducible refine KeepsItem.out_stop ?_ (by assumption)
    | with_reducible refine KeepsItem.out_miss ?_ (by assumption)
    | with_reducible refine KeepsItem.out_wait ?_ (by assumption)
    | split

theorem Keeps.flushOut {z : State} {s : State} {n : Fin 132} {slot : Nat} (hk : Keeps z s) :
    Keeps z (State.flushOut s n slot) := by
  dsimp only [State.flushOut]
  repeat' first
    | with_reducible assumption
    | with_reducible apply Keeps.modShare
    | with_reducible apply Keeps.sendTile
    | with_reducible apply Keeps.each
    | with_reducible refine KeepsItem.out_done ?_ (by assumption)
    | with_reducible refine KeepsItem.out_stop ?_ (by assumption)
    | with_reducible refine KeepsItem.out_miss ?_ (by assumption)
    | with_reducible refine KeepsItem.out_wait ?_ (by assumption)
    | exact (rfl : (_ : List (Fin 132)) = _)
    | split
    | dsimp only
    | intro _

theorem Keeps.emit {z : State} {s : State} {n : Fin 132} {slot : Nat} {os : List OutTile} (hk : Keeps z s) :
    Keeps z (State.emit s n slot os) := by
  dsimp only [State.emit]
  repeat' first
    | with_reducible assumption
    | with_reducible apply Keeps.modShare
    | with_reducible apply Keeps.flushOut

theorem Keeps.settlePass {z : State} {s : State} {slot : Nat} (hk : Keeps z s) :
    Keeps z (State.settlePass s slot) := by
  dsimp only [State.settlePass]
  repeat' first
    | with_reducible assumption
    | with_reducible apply Keeps.modStream
    | with_reducible refine KeepsItem.out_done ?_ (by assumption)
    | with_reducible refine KeepsItem.out_stop ?_ (by assumption)
    | with_reducible refine KeepsItem.out_miss ?_ (by assumption)
    | with_reducible refine KeepsItem.out_wait ?_ (by assumption)
    | exact (rfl : (_ : List (Fin 132)) = _)
    | split

theorem Keeps.countCoded {z : State} {s : State} {o : OutTile} (hk : Keeps z s) :
    Keeps z (State.countCoded s o) := by
  dsimp only [State.countCoded]
  repeat' first
    | with_reducible assumption
    | with_reducible apply Keeps.count
    | with_reducible refine KeepsItem.out_done ?_ (by assumption)
    | with_reducible refine KeepsItem.out_stop ?_ (by assumption)
    | with_reducible refine KeepsItem.out_miss ?_ (by assumption)
    | with_reducible refine KeepsItem.out_wait ?_ (by assumption)
    | exact (rfl : (_ : List (Fin 132)) = _)
    | split

theorem Keeps.outVisible {z : State} {s : State} {n : Fin 132} {x : Step} {o : OutTile} (hk : Keeps z s) :
    Keeps z (State.outVisible s n x o) := by
  dsimp only [State.outVisible]
  repeat' first
    | with_reducible assumption
    | with_reducible apply Keeps.tallyAdd
    | with_reducible apply Keeps.post
    | with_reducible apply Keeps.modShare
    | with_reducible apply Keeps.progress
    | with_reducible apply Keeps.flushLink
    | with_reducible apply Keeps.flushOut
    | with_reducible apply Keeps.countCoded
    | with_reducible refine KeepsItem.out_done ?_ (by assumption)
    | with_reducible refine KeepsItem.out_stop ?_ (by assumption)
    | with_reducible refine KeepsItem.out_miss ?_ (by assumption)
    | with_reducible refine KeepsItem.out_wait ?_ (by assumption)
    | exact (rfl : (_ : List (Fin 132)) = _)
    | split

theorem Keeps.sendSummary {z : State} {s : State} {n : Fin 132} {x : Step} {o : OutTile} (hk : Keeps z s) :
    Keeps z (State.sendSummary s n x o) := by
  dsimp only [State.sendSummary]
  repeat' first
    | with_reducible assumption
    | with_reducible apply Keeps.post
    | with_reducible refine KeepsItem.out_done ?_ (by assumption)
    | with_reducible refine KeepsItem.out_stop ?_ (by assumption)
    | with_reducible refine KeepsItem.out_miss ?_ (by assumption)
    | with_reducible refine KeepsItem.out_wait ?_ (by assumption)
    | split

theorem Keeps.ackOut {z : State} {s : State} {n : Fin 132} {slot : Nat} {r : Role} {i : Nat} (hk : Keeps z s) :
    Keeps z (State.ackOut s n slot r i) := by
  dsimp only [State.ackOut]
  repeat' first
    | with_reducible assumption
    | with_reducible apply Keeps.modShare
    | with_reducible apply Keeps.settlePass
    | with_reducible apply Keeps.outVisible
    | with_reducible apply Keeps.sendSummary
    | with_reducible refine KeepsItem.out_done ?_ (by assumption)
    | with_reducible refine KeepsItem.out_stop ?_ (by assumption)
    | with_reducible refine KeepsItem.out_miss ?_ (by assumption)
    | with_reducible refine KeepsItem.out_wait ?_ (by assumption)
    | exact (rfl : (_ : List (Fin 132)) = _)
    | split

theorem Keeps.missTile {z : State} {s : State} {slot : Nat} {m : Miss} (hk : Keeps z s) :
    Keeps z (State.missTile s slot m) := by
  dsimp only [State.missTile]
  repeat' first
    | with_reducible assumption
    | with_reducible apply Keeps.modStep
    | with_reducible apply Keeps.modShares
    | with_reducible apply Keeps.stopStep

theorem Keeps.settleShares {z : State} {s : State} {slot : Nat} (hk : Keeps z s) :
    Keeps z (State.settleShares s slot) := by
  dsimp only [State.settleShares]
  repeat' first
    | with_reducible assumption
    | with_reducible apply Keeps.settleShare
    | with_reducible apply Keeps.each
    | with_reducible refine KeepsItem.out_done ?_ (by assumption)
    | with_reducible refine KeepsItem.out_stop ?_ (by assumption)
    | with_reducible refine KeepsItem.out_miss ?_ (by assumption)
    | with_reducible refine KeepsItem.out_wait ?_ (by assumption)
    | split
    | dsimp only
    | intro _

end Sys2Proof.Machine
end

