-- ==== Sys2Proof/Laws/KeepsSteps.lean ====
section
/-! SUPPORT. Keeps, for the operations of Machine/Steps.lean. -/
namespace Sys2Proof.Machine

theorem Keeps.execDeliver {z : State} {slot : Nat} {s : State} (hk : Keeps z s) :
    KeepsX z (Sys2Proof.Machine.execDeliver slot s) := by
  dsimp only [Sys2Proof.Machine.execDeliver]
  repeat' first
    | with_reducible assumption
    | with_reducible apply Keeps.dispatch
    | with_reducible apply Keeps.tryStep
    | with_reducible exact KeepsX.fault
    | with_reducible apply KeepsX.next

theorem Keeps.execCompress {z : State} {slot : Nat} {s : State} (hk : Keeps z s) :
    KeepsX z (Sys2Proof.Machine.execCompress slot s) := by
  dsimp only [Sys2Proof.Machine.execCompress]
  repeat' first
    | with_reducible assumption
    | with_reducible apply Keeps.dispatch
    | with_reducible apply Keeps.tryStep
    | with_reducible exact KeepsX.fault
    | with_reducible apply KeepsX.next

theorem Keeps.execCCompress {z : State} {slot : Nat} {s : State} (hk : Keeps z s) :
    KeepsX z (Sys2Proof.Machine.execCCompress slot s) := by
  dsimp only [Sys2Proof.Machine.execCCompress]
  repeat' first
    | with_reducible assumption
    | with_reducible apply Keeps.dispatch
    | with_reducible apply Keeps.tryStep
    | with_reducible exact KeepsX.fault
    | with_reducible apply KeepsX.next

theorem Keeps.execCDecompress {z : State} {slot : Nat} {s : State} (hk : Keeps z s) :
    KeepsX z (Sys2Proof.Machine.execCDecompress slot s) := by
  dsimp only [Sys2Proof.Machine.execCDecompress]
  repeat' first
    | with_reducible assumption
    | with_reducible apply Keeps.dispatch
    | with_reducible apply Keeps.tryStep
    | with_reducible exact KeepsX.fault
    | with_reducible apply KeepsX.next

theorem Keeps.execGatherMerge {z : State} {slot : Nat} {s : State} (hk : Keeps z s) :
    KeepsX z (Sys2Proof.Machine.execGatherMerge slot s) := by
  dsimp only [Sys2Proof.Machine.execGatherMerge]
  repeat' first
    | with_reducible assumption
    | with_reducible apply Keeps.dispatch
    | with_reducible apply Keeps.tryStep
    | with_reducible exact KeepsX.fault
    | with_reducible apply KeepsX.next

theorem Keeps.execScatter {z : State} {slot : Nat} {s : State} (hk : Keeps z s) :
    KeepsX z (Sys2Proof.Machine.execScatter slot s) := by
  dsimp only [Sys2Proof.Machine.execScatter]
  repeat' first
    | with_reducible assumption
    | with_reducible apply Keeps.dispatch
    | with_reducible apply Keeps.tryStep
    | with_reducible exact KeepsX.fault
    | with_reducible apply KeepsX.next

theorem Keeps.execMergeOut {z : State} {slot : Nat} {s : State} (hk : Keeps z s) :
    KeepsX z (Sys2Proof.Machine.execMergeOut slot s) := by
  dsimp only [Sys2Proof.Machine.execMergeOut]
  repeat' first
    | with_reducible assumption
    | with_reducible apply Keeps.dispatch
    | with_reducible apply Keeps.tryStep
    | with_reducible exact KeepsX.fault
    | with_reducible apply KeepsX.next

theorem Keeps.execMove {z : State} {slot : Nat} {s : State} (hk : Keeps z s) :
    KeepsX z (Sys2Proof.Machine.execMove slot s) := by
  dsimp only [Sys2Proof.Machine.execMove]
  repeat' first
    | with_reducible assumption
    | with_reducible apply Keeps.dispatch
    | with_reducible apply Keeps.tryStep
    | with_reducible exact KeepsX.fault
    | with_reducible apply KeepsX.next

theorem Keeps.execRecv {z : State} {slot : Nat} {s : State} (hk : Keeps z s) :
    KeepsX z (Sys2Proof.Machine.execRecv slot s) := by
  dsimp only [Sys2Proof.Machine.execRecv]
  repeat' first
    | with_reducible assumption
    | with_reducible apply Keeps.dispatch
    | with_reducible apply Keeps.tryStep
    | with_reducible exact KeepsX.fault
    | with_reducible apply KeepsX.next

theorem Keeps.goRows {z : State} {s : State} {x : Step} {ls : List Nat} (hk : Keeps z s) :
    Keeps z (State.goRows s x ls) := by
  dsimp only [State.goRows]
  repeat' first
    | with_reducible assumption
    | with_reducible apply Keeps.complete
    | with_reducible apply Keeps.ask
    | with_reducible apply Keeps.dispatch
    | with_reducible apply Keeps.each
    | with_reducible refine KeepsItem.out_done ?_ (by assumption)
    | with_reducible refine KeepsItem.out_stop ?_ (by assumption)
    | with_reducible refine KeepsItem.out_miss ?_ (by assumption)
    | with_reducible refine KeepsItem.out_wait ?_ (by assumption)
    | split
    | dsimp only
    | intro _

theorem Keeps.execDeliverRows {z : State} {slot : Nat} {s : State} (hk : Keeps z s) :
    KeepsX z (Sys2Proof.Machine.execDeliverRows slot s) := by
  dsimp only [Sys2Proof.Machine.execDeliverRows]
  repeat' first
    | with_reducible assumption
    | with_reducible apply Keeps.tryStep
    | with_reducible apply Keeps.goRows
    | with_reducible exact KeepsX.fault
    | with_reducible apply KeepsX.next

theorem Keeps.goGather {z : State} {s : State} {x : Step} {ls : List Nat} (hk : Keeps z s) :
    Keeps z (State.goGather s x ls) := by
  dsimp only [State.goGather]
  repeat' first
    | with_reducible assumption
    | with_reducible apply Keeps.modStep
    | with_reducible apply Keeps.complete
    | with_reducible apply Keeps.gatherNeed
    | with_reducible apply Keeps.dispatch
    | with_reducible refine KeepsO.out ?_ (by assumption)
    | with_reducible refine KeepsItem.out_done ?_ (by assumption)
    | with_reducible refine KeepsItem.out_stop ?_ (by assumption)
    | with_reducible refine KeepsItem.out_miss ?_ (by assumption)
    | with_reducible refine KeepsItem.out_wait ?_ (by assumption)
    | exact (rfl : (_ : List (Fin 132)) = _)
    | split

theorem Keeps.execGather {z : State} {slot : Nat} {s : State} (hk : Keeps z s) :
    KeepsX z (Sys2Proof.Machine.execGather slot s) := by
  dsimp only [Sys2Proof.Machine.execGather]
  repeat' first
    | with_reducible assumption
    | with_reducible apply Keeps.tryStep
    | with_reducible apply Keeps.goGather
    | with_reducible exact KeepsX.fault
    | with_reducible apply KeepsX.next

theorem Keeps.openReceivers {z : State} {s : State} {x : Step} {seq : Nat → Nat} (hk : Keeps z s) :
    Keeps z (State.openReceivers s x seq) := by
  dsimp only [State.openReceivers]
  repeat' first
    | with_reducible assumption
    | with_reducible apply Keeps.modLink
    | with_reducible apply Keeps.foldl
    | with_reducible refine KeepsItem.out_done ?_ (by assumption)
    | with_reducible refine KeepsItem.out_stop ?_ (by assumption)
    | with_reducible refine KeepsItem.out_miss ?_ (by assumption)
    | with_reducible refine KeepsItem.out_wait ?_ (by assumption)
    | exact (rfl : (_ : List (Fin 132)) = _)
    | split
    | dsimp only
    | intro _

theorem Keeps.goSend {z : State} {s : State} {x : Step} {ls : List Nat} (hk : Keeps z s) :
    Keeps z (State.goSend s x ls) := by
  dsimp only [State.goSend]
  repeat' first
    | with_reducible assumption
    | with_reducible apply Keeps.modStep
    | with_reducible apply Keeps.complete
    | with_reducible apply Keeps.dispatch
    | with_reducible apply Keeps.openReceivers
    | with_reducible refine KeepsItem.out_done ?_ (by assumption)
    | with_reducible refine KeepsItem.out_stop ?_ (by assumption)
    | with_reducible refine KeepsItem.out_miss ?_ (by assumption)
    | with_reducible refine KeepsItem.out_wait ?_ (by assumption)
    | exact (rfl : (_ : List (Fin 132)) = _)
    | split

theorem Keeps.execSend {z : State} {slot : Nat} {s : State} (hk : Keeps z s) :
    KeepsX z (Sys2Proof.Machine.execSend slot s) := by
  dsimp only [Sys2Proof.Machine.execSend]
  repeat' first
    | with_reducible assumption
    | with_reducible apply Keeps.tryStep
    | with_reducible apply Keeps.goSend
    | with_reducible exact KeepsX.fault
    | with_reducible apply KeepsX.next

theorem Keeps.execMcast {z : State} {slot : Nat} {s : State} (hk : Keeps z s) :
    KeepsX z (Sys2Proof.Machine.execMcast slot s) := by
  dsimp only [Sys2Proof.Machine.execMcast]
  repeat' first
    | with_reducible assumption
    | with_reducible apply Keeps.tryStep
    | with_reducible apply Keeps.goSend
    | with_reducible exact KeepsX.fault
    | with_reducible apply KeepsX.next

theorem Keeps.goCastOn {z : State} {s : State} {x : Step} {ls : List Nat} (hk : Keeps z s) :
    Keeps z (State.goCastOn s x ls) := by
  dsimp only [State.goCastOn]
  repeat' first
    | with_reducible assumption
    | with_reducible apply Keeps.modStep
    | with_reducible apply Keeps.modStream
    | with_reducible apply Keeps.markDispatched
    | with_reducible apply Keeps.bindSlices
    | with_reducible refine KeepsItem.out_done ?_ (by assumption)
    | with_reducible refine KeepsItem.out_stop ?_ (by assumption)
    | with_reducible refine KeepsItem.out_miss ?_ (by assumption)
    | with_reducible refine KeepsItem.out_wait ?_ (by assumption)
    | exact (rfl : (_ : List (Fin 132)) = _)
    | split

theorem Keeps.execCastOn {z : State} {slot : Nat} {s : State} (hk : Keeps z s) :
    KeepsX z (Sys2Proof.Machine.execCastOn slot s) := by
  dsimp only [Sys2Proof.Machine.execCastOn]
  repeat' first
    | with_reducible assumption
    | with_reducible apply Keeps.tryStep
    | with_reducible apply Keeps.goCastOn
    | with_reducible exact KeepsX.fault
    | with_reducible apply KeepsX.next

theorem Keeps.goRebase {z : State} {s : State} {x : Step} {w_ : List Nat} (hk : Keeps z s) :
    Keeps z (State.goRebase s x w_) := by
  dsimp only [State.goRebase]
  repeat' first
    | with_reducible assumption
    | with_reducible apply Keeps.modStream
    | with_reducible apply Keeps.markDispatched

theorem Keeps.execRebase {z : State} {slot : Nat} {s : State} (hk : Keeps z s) :
    KeepsX z (Sys2Proof.Machine.execRebase slot s) := by
  dsimp only [Sys2Proof.Machine.execRebase]
  repeat' first
    | with_reducible assumption
    | with_reducible apply Keeps.tryStep
    | with_reducible apply Keeps.goRebase
    | with_reducible exact KeepsX.fault
    | with_reducible apply KeepsX.next

theorem Keeps.goRechain {z : State} {s : State} {x : Step} {w_ : List Nat} (hk : Keeps z s) :
    Keeps z (State.goRechain s x w_) := by
  dsimp only [State.goRechain]
  repeat' first
    | with_reducible assumption
    | with_reducible apply Keeps.modStream
    | with_reducible apply Keeps.markDispatched

theorem Keeps.execRechain {z : State} {slot : Nat} {s : State} (hk : Keeps z s) :
    KeepsX z (Sys2Proof.Machine.execRechain slot s) := by
  dsimp only [Sys2Proof.Machine.execRechain]
  repeat' first
    | with_reducible assumption
    | with_reducible apply Keeps.tryStep
    | with_reducible apply Keeps.goRechain
    | with_reducible exact KeepsX.fault
    | with_reducible apply KeepsX.next

theorem Keeps.goTeardown {z : State} {s : State} {x : Step} {w_ : List Nat} (hk : Keeps z s) :
    Keeps z (State.goTeardown s x w_) := by
  dsimp only [State.goTeardown]
  repeat' first
    | with_reducible assumption
    | with_reducible apply Keeps.modStream
    | with_reducible apply Keeps.markDispatched

theorem Keeps.execTeardown {z : State} {slot : Nat} {s : State} (hk : Keeps z s) :
    KeepsX z (Sys2Proof.Machine.execTeardown slot s) := by
  dsimp only [Sys2Proof.Machine.execTeardown]
  repeat' first
    | with_reducible assumption
    | with_reducible apply Keeps.tryStep
    | with_reducible apply Keeps.goTeardown
    | with_reducible exact KeepsX.fault
    | with_reducible apply KeepsX.next

theorem Keeps.goNop {z : State} {s : State} {x : Step} {w_ : List Nat} (hk : Keeps z s) :
    Keeps z (State.goNop s x w_) := by
  dsimp only [State.goNop]
  repeat' first
    | with_reducible assumption
    | with_reducible apply Keeps.markDispatched

theorem Keeps.execNop {z : State} {slot : Nat} {s : State} (hk : Keeps z s) :
    KeepsX z (Sys2Proof.Machine.execNop slot s) := by
  dsimp only [Sys2Proof.Machine.execNop]
  repeat' first
    | with_reducible assumption
    | with_reducible apply Keeps.tryStep
    | with_reducible apply Keeps.goNop
    | with_reducible exact KeepsX.fault
    | with_reducible apply KeepsX.next

theorem Keeps.runAtlas {z : State} {s : State} {x : Step} (hk : Keeps z s) :
    Keeps z (State.runAtlas s x) := by
  dsimp only [State.runAtlas]
  repeat' first
    | with_reducible assumption
    | with_reducible apply Keeps.runFrom
    | with_reducible apply Keeps.atlasImage
    | with_reducible apply Keeps.sharePage
    | with_reducible apply Keeps.freePage
    | with_reducible apply Keeps.frogPage
    | with_reducible apply Keeps.demotePage
    | with_reducible apply Keeps.promote
    | with_reducible apply Keeps.promotePage
    | with_reducible refine KeepsItem.out_done ?_ (by assumption)
    | with_reducible refine KeepsItem.out_stop ?_ (by assumption)
    | with_reducible refine KeepsItem.out_miss ?_ (by assumption)
    | with_reducible refine KeepsItem.out_wait ?_ (by assumption)
    | split

theorem Keeps.startItems {z : State} {s : State} {slot : Nat} (hk : Keeps z s) :
    Keeps z (State.startItems s slot) := by
  dsimp only [State.startItems]
  repeat' first
    | with_reducible assumption
    | with_reducible apply Keeps.modStep
    | with_reducible apply Keeps.runAtlas
    | with_reducible refine KeepsItem.out_done ?_ (by assumption)
    | with_reducible refine KeepsItem.out_stop ?_ (by assumption)
    | with_reducible refine KeepsItem.out_miss ?_ (by assumption)
    | with_reducible refine KeepsItem.out_wait ?_ (by assumption)
    | exact (rfl : (_ : List (Fin 132)) = _)
    | split

theorem Keeps.wakeItems {z : State} {s : State} (hk : Keeps z s) :
    Keeps z (State.wakeItems s) := by
  dsimp only [State.wakeItems]
  repeat' first
    | with_reducible assumption
    | with_reducible apply Keeps.runAtlas
    | with_reducible apply Keeps.each
    | with_reducible refine KeepsItem.out_done ?_ (by assumption)
    | with_reducible refine KeepsItem.out_stop ?_ (by assumption)
    | with_reducible refine KeepsItem.out_miss ?_ (by assumption)
    | with_reducible refine KeepsItem.out_wait ?_ (by assumption)
    | split
    | dsimp only
    | intro _

theorem Keeps.wake {z : State} {s : State} {ms : List (Fin 12)} (hk : Keeps z s) :
    Keeps z (State.wake s ms) := by
  dsimp only [State.wake]
  repeat' first
    | with_reducible assumption
    | with_reducible apply Keeps.refreshClosed
    | with_reducible apply Keeps.initRoots
    | with_reducible apply Keeps.sweepAll
    | with_reducible apply Keeps.wakeItems
    | with_reducible apply Keeps.each
    | with_reducible refine KeepsItem.out_done ?_ (by assumption)
    | with_reducible refine KeepsItem.out_stop ?_ (by assumption)
    | with_reducible refine KeepsItem.out_miss ?_ (by assumption)
    | with_reducible refine KeepsItem.out_wait ?_ (by assumption)
    | split
    | dsimp only
    | intro _

theorem Keeps.wakeAll {z : State} {s : State} (hk : Keeps z s) :
    Keeps z (State.wakeAll s) := by
  dsimp only [State.wakeAll]
  repeat' first
    | with_reducible assumption
    | with_reducible apply Keeps.wake

theorem Keeps.goAtlas {z : State} {s : State} {x : Step} {w_ : List Nat} (hk : Keeps z s) :
    Keeps z (State.goAtlas s x w_) := by
  dsimp only [State.goAtlas]
  repeat' first
    | with_reducible assumption
    | with_reducible apply Keeps.markDispatched
    | with_reducible apply Keeps.startItems

theorem Keeps.execAtlasWrite {z : State} {slot : Nat} {s : State} (hk : Keeps z s) :
    KeepsX z (Sys2Proof.Machine.execAtlasWrite slot s) := by
  dsimp only [Sys2Proof.Machine.execAtlasWrite]
  repeat' first
    | with_reducible assumption
    | with_reducible apply Keeps.tryStep
    | with_reducible apply Keeps.goAtlas
    | with_reducible exact KeepsX.fault
    | with_reducible apply KeepsX.next

theorem Keeps.execShare {z : State} {slot : Nat} {s : State} (hk : Keeps z s) :
    KeepsX z (Sys2Proof.Machine.execShare slot s) := by
  dsimp only [Sys2Proof.Machine.execShare]
  repeat' first
    | with_reducible assumption
    | with_reducible apply Keeps.tryStep
    | with_reducible apply Keeps.goAtlas
    | with_reducible exact KeepsX.fault
    | with_reducible apply KeepsX.next

theorem Keeps.execFree {z : State} {slot : Nat} {s : State} (hk : Keeps z s) :
    KeepsX z (Sys2Proof.Machine.execFree slot s) := by
  dsimp only [Sys2Proof.Machine.execFree]
  repeat' first
    | with_reducible assumption
    | with_reducible apply Keeps.tryStep
    | with_reducible apply Keeps.goAtlas
    | with_reducible exact KeepsX.fault
    | with_reducible apply KeepsX.next

theorem Keeps.execFrog {z : State} {slot : Nat} {s : State} (hk : Keeps z s) :
    KeepsX z (Sys2Proof.Machine.execFrog slot s) := by
  dsimp only [Sys2Proof.Machine.execFrog]
  repeat' first
    | with_reducible assumption
    | with_reducible apply Keeps.tryStep
    | with_reducible apply Keeps.goAtlas
    | with_reducible exact KeepsX.fault
    | with_reducible apply KeepsX.next

theorem Keeps.goPages {z : State} {s : State} {x : Step} {ls : List Nat} (hk : Keeps z s) :
    Keeps z (State.goPages s x ls) := by
  dsimp only [State.goPages]
  repeat' first
    | with_reducible assumption
    | with_reducible apply Keeps.modStep
    | with_reducible apply Keeps.markDispatched
    | with_reducible apply Keeps.bindSlices
    | with_reducible apply Keeps.startItems

theorem Keeps.execDemote {z : State} {slot : Nat} {s : State} (hk : Keeps z s) :
    KeepsX z (Sys2Proof.Machine.execDemote slot s) := by
  dsimp only [Sys2Proof.Machine.execDemote]
  repeat' first
    | with_reducible assumption
    | with_reducible apply Keeps.tryStep
    | with_reducible apply Keeps.goPages
    | with_reducible exact KeepsX.fault
    | with_reducible apply KeepsX.next

theorem Keeps.execPromote {z : State} {slot : Nat} {s : State} (hk : Keeps z s) :
    KeepsX z (Sys2Proof.Machine.execPromote slot s) := by
  dsimp only [Sys2Proof.Machine.execPromote]
  repeat' first
    | with_reducible assumption
    | with_reducible apply Keeps.promote
    | with_reducible apply Keeps.tryStep
    | with_reducible apply Keeps.goPages
    | with_reducible exact KeepsX.fault
    | with_reducible apply KeepsX.next

theorem Keeps.clearEntries {z : State} {s : State} {x : Step} (hk : Keeps z s) :
    Keeps z (State.clearEntries s x) := by
  dsimp only [State.clearEntries]
  repeat' first
    | with_reducible assumption
    | with_reducible apply Keeps.modStep
    | with_reducible apply Keeps.addCond
    | with_reducible apply Keeps.naccWrite
    | with_reducible apply Keeps.each
    | with_reducible refine KeepsItem.out_done ?_ (by assumption)
    | with_reducible refine KeepsItem.out_stop ?_ (by assumption)
    | with_reducible refine KeepsItem.out_miss ?_ (by assumption)
    | with_reducible refine KeepsItem.out_wait ?_ (by assumption)
    | exact (rfl : (_ : List (Fin 132)) = _)
    | split
    | dsimp only
    | intro _

theorem Keeps.goGazClear {z : State} {s : State} {x : Step} {w_ : List Nat} (hk : Keeps z s) :
    Keeps z (State.goGazClear s x w_) := by
  dsimp only [State.goGazClear]
  repeat' first
    | with_reducible assumption
    | with_reducible apply Keeps.markDispatched
    | with_reducible apply Keeps.clearEntries

theorem Keeps.execGazClear {z : State} {slot : Nat} {s : State} (hk : Keeps z s) :
    KeepsX z (Sys2Proof.Machine.execGazClear slot s) := by
  dsimp only [Sys2Proof.Machine.execGazClear]
  repeat' first
    | with_reducible assumption
    | with_reducible apply Keeps.tryStep
    | with_reducible apply Keeps.goGazClear
    | with_reducible exact KeepsX.fault
    | with_reducible apply KeepsX.next

theorem Keeps.resumeShares {z : State} {s : State} {slot : Nat} (hk : Keeps z s) :
    Keeps z (State.resumeShares s slot) := by
  dsimp only [State.resumeShares]
  repeat' first
    | with_reducible assumption
    | with_reducible apply Keeps.modStep
    | with_reducible apply Keeps.modShares
    | with_reducible apply Keeps.settleShare
    | with_reducible apply Keeps.dispatch
    | with_reducible apply Keeps.flushOut
    | with_reducible apply Keeps.each
    | with_reducible refine KeepsItem.out_done ?_ (by assumption)
    | with_reducible refine KeepsItem.out_stop ?_ (by assumption)
    | with_reducible refine KeepsItem.out_miss ?_ (by assumption)
    | with_reducible refine KeepsItem.out_wait ?_ (by assumption)
    | exact (rfl : (_ : List (Fin 132)) = _)
    | split
    | dsimp only
    | intro _

theorem Keeps.retryCatchup {z : State} {s : State} {x : Step} (hk : Keeps z s) :
    Keeps z (State.retryCatchup s x) := by
  dsimp only [State.retryCatchup]
  repeat' first
    | with_reducible assumption
    | with_reducible apply Keeps.modStep
    | with_reducible apply Keeps.parkShares
    | with_reducible apply Keeps.resumeShares

theorem Keeps.execStepSuspend {z : State} {slot : Nat} {s : State} (hk : Keeps z s) :
    KeepsX z (Sys2Proof.Machine.execStepSuspend slot s) := by
  dsimp only [Sys2Proof.Machine.execStepSuspend]
  repeat' first
    | with_reducible assumption
    | with_reducible apply Keeps.suspendStep
    | with_reducible apply Keeps.retryCatchup
    | with_reducible exact KeepsX.fault
    | with_reducible apply KeepsX.next
    | with_reducible refine KeepsO.out ?_ (by assumption)
    | with_reducible refine KeepsItem.out_done ?_ (by assumption)
    | with_reducible refine KeepsItem.out_stop ?_ (by assumption)
    | with_reducible refine KeepsItem.out_miss ?_ (by assumption)
    | with_reducible refine KeepsItem.out_wait ?_ (by assumption)
    | split

theorem Keeps.goResume {z : State} {s : State} {x : Step} {w_ : List Nat} (hk : Keeps z s) :
    Keeps z (State.goResume s x w_) := by
  dsimp only [State.goResume]
  repeat' first
    | with_reducible assumption
    | with_reducible apply Keeps.modStep
    | with_reducible apply Keeps.markDispatched
    | with_reducible apply Keeps.startItems
    | with_reducible apply Keeps.clearEntries
    | with_reducible apply Keeps.resumeShares
    | with_reducible refine KeepsItem.out_done ?_ (by assumption)
    | with_reducible refine KeepsItem.out_stop ?_ (by assumption)
    | with_reducible refine KeepsItem.out_miss ?_ (by assumption)
    | with_reducible refine KeepsItem.out_wait ?_ (by assumption)
    | exact (rfl : (_ : List (Fin 132)) = _)
    | split

theorem Keeps.execResume {z : State} {slot : Nat} {s : State} (hk : Keeps z s) :
    KeepsX z (Sys2Proof.Machine.execResume slot s) := by
  dsimp only [Sys2Proof.Machine.execResume]
  repeat' first
    | with_reducible assumption
    | with_reducible apply Keeps.tryStep
    | with_reducible apply Keeps.goResume
    | with_reducible exact KeepsX.fault
    | with_reducible apply KeepsX.next

theorem Keeps.execItemRelease {z : State} {c : Fin 64} {s : State} (hk : Keeps z s) :
    KeepsX z (Sys2Proof.Machine.execItemRelease c s) := by
  dsimp only [Sys2Proof.Machine.execItemRelease]
  repeat' first
    | with_reducible assumption
    | with_reducible apply Keeps.modCtx
    | with_reducible exact KeepsX.fault
    | with_reducible apply KeepsX.next
    | with_reducible refine KeepsO.out ?_ (by assumption)
    | with_reducible refine KeepsItem.out_done ?_ (by assumption)
    | with_reducible refine KeepsItem.out_stop ?_ (by assumption)
    | with_reducible refine KeepsItem.out_miss ?_ (by assumption)
    | with_reducible refine KeepsItem.out_wait ?_ (by assumption)
    | exact (rfl : (_ : List (Fin 132)) = _)
    | split

theorem Keeps.writeReleases {z : State} {c : Fin 64} {n : Nat} {s : State} (hk : Keeps z s) :
    Keeps z (State.writeReleases c n s) := by
  induction n generalizing s with
  | zero => exact hk
  | succ n ih =>
    unfold State.writeReleases
    repeat' first
      | with_reducible assumption
      | with_reducible apply ih
      | with_reducible apply Keeps.modCtx
      | with_reducible apply Keeps.cRequest
      | with_reducible apply Keeps.writeNear
      | split

theorem Keeps.pollRing {z : State} {s : State} {c : Fin 64} (hk : Keeps z s) :
    Keeps z (State.pollRing s c) := by
  dsimp only [State.pollRing]
  repeat' first
    | with_reducible assumption
    | with_reducible apply Keeps.cRequest
    | with_reducible refine KeepsItem.out_done ?_ (by assumption)
    | with_reducible refine KeepsItem.out_stop ?_ (by assumption)
    | with_reducible refine KeepsItem.out_miss ?_ (by assumption)
    | with_reducible refine KeepsItem.out_wait ?_ (by assumption)
    | split

theorem Keeps.execReleaseRecord {z : State} {c : Fin 64} {s : State} (hk : Keeps z s) :
    KeepsX z (Sys2Proof.Machine.execReleaseRecord c s) := by
  dsimp only [Sys2Proof.Machine.execReleaseRecord]
  repeat' first
    | with_reducible assumption
    | with_reducible apply Keeps.modCtx
    | with_reducible apply Keeps.raise
    | with_reducible apply Keeps.writeReleases
    | with_reducible apply Keeps.pollRing
    | with_reducible exact KeepsX.fault
    | with_reducible apply KeepsX.next
    | with_reducible refine KeepsO.out ?_ (by assumption)
    | with_reducible refine KeepsItem.out_done ?_ (by assumption)
    | with_reducible refine KeepsItem.out_stop ?_ (by assumption)
    | with_reducible refine KeepsItem.out_miss ?_ (by assumption)
    | with_reducible refine KeepsItem.out_wait ?_ (by assumption)
    | exact (rfl : (_ : List (Fin 132)) = _)
    | split

theorem Keeps.execReleaseRingPoll {z : State} {c : Fin 64} {s : State} (hk : Keeps z s) :
    KeepsX z (Sys2Proof.Machine.execReleaseRingPoll c s) := by
  dsimp only [Sys2Proof.Machine.execReleaseRingPoll]
  repeat' first
    | with_reducible assumption
    | with_reducible apply Keeps.writeReleases
    | with_reducible apply Keeps.pollRing
    | with_reducible exact KeepsX.fault
    | with_reducible apply KeepsX.next
    | with_reducible refine KeepsO.out ?_ (by assumption)
    | with_reducible refine KeepsItem.out_done ?_ (by assumption)
    | with_reducible refine KeepsItem.out_stop ?_ (by assumption)
    | with_reducible refine KeepsItem.out_miss ?_ (by assumption)
    | with_reducible refine KeepsItem.out_wait ?_ (by assumption)
    | split

end Sys2Proof.Machine
end

