-- ==== Sys2Proof/Laws/KeepsGrants.lean ====
section
/-! SUPPORT. Keeps, for the operations of Machine/Grants.lean. -/
namespace Sys2Proof.Machine

theorem Keeps.dropMarks {z : State} {s : State} {n : Fin 132} {h : Share} {r : Round} (hk : Keeps z s) :
    Keeps z (State.dropMarks s n h r) := by
  dsimp only [State.dropMarks]
  repeat' first
    | with_reducible assumption
    | with_reducible apply Keeps.raise
    | with_reducible apply Keeps.modShare
    | with_reducible apply Keeps.progress
    | with_reducible apply Keeps.each
    | with_reducible refine KeepsItem.out_done ?_ (by assumption)
    | with_reducible refine KeepsItem.out_stop ?_ (by assumption)
    | with_reducible refine KeepsItem.out_miss ?_ (by assumption)
    | with_reducible refine KeepsItem.out_wait ?_ (by assumption)
    | exact (rfl : (_ : List (Fin 132)) = _)
    | split
    | dsimp only
    | intro _

theorem Keeps.withSlot {z : State} {s : State} {n : Fin 132} {x : Step} {h : Share} {r : Round} {go : State → State}
    (hk : Keeps z s) (hg : ∀ t, Keeps z t → Keeps z (go t)) : Keeps z (s.withSlot n x h r go) := by
  dsimp only [State.withSlot]
  repeat' first
    | with_reducible assumption
    | with_reducible apply hg
    | with_reducible apply Keeps.dropMarks
    | split

theorem Keeps.advance {z : State} {s : State} {n : Fin 132} {slot : Nat} {r : Role} (hk : Keeps z s) :
    Keeps z (State.advance s n slot r) := by
  dsimp only [State.advance]
  repeat' first
    | with_reducible assumption
    | with_reducible apply Keeps.modShare

theorem Keeps.giveSlot {z : State} {s : State} {n : Fin 132} {slot : Nat} {r : Role} {i : Nat} {content : SlotContent} (hk : Keeps z s) :
    Keeps z (State.giveSlot s n slot r i content) := by
  dsimp only [State.giveSlot]
  repeat' first
    | with_reducible assumption
    | with_reducible apply Keeps.modShare

theorem Keeps.meetFrog {z : State} {s : State} {n : Fin 132} {x : Step} {h : Share} {r : Role} {i t cookie : Nat} (hk : Keeps z s) :
    Keeps z (State.meetFrog s n x h r i t cookie) := by
  dsimp only [State.meetFrog]
  repeat' first
    | with_reducible assumption
    | ((with_reducible apply Slice.staysDead_of); intro _; rfl)
    | with_reducible apply Keeps.modSlice
    | with_reducible apply Keeps.modStep
    | with_reducible apply Keeps.modShare
    | with_reducible apply Keeps.progress
    | with_reducible refine KeepsItem.out_done ?_ (by assumption)
    | with_reducible refine KeepsItem.out_stop ?_ (by assumption)
    | with_reducible refine KeepsItem.out_miss ?_ (by assumption)
    | with_reducible refine KeepsItem.out_wait ?_ (by assumption)
    | exact (rfl : (_ : List (Fin 132)) = _)
    | split

theorem Keeps.meetFrogs {z : State} {s : State} {n : Fin 132} {x : Step} {i : Nat} {fs : List (Role × Nat × Nat)} (hk : Keeps z s) :
    Keeps z (State.meetFrogs s n x i fs) := by
  dsimp only [State.meetFrogs]
  repeat' first
    | with_reducible assumption
    | with_reducible apply Keeps.meetFrog
    | with_reducible apply Keeps.each
    | with_reducible refine KeepsItem.out_done ?_ (by assumption)
    | with_reducible refine KeepsItem.out_stop ?_ (by assumption)
    | with_reducible refine KeepsItem.out_miss ?_ (by assumption)
    | with_reducible refine KeepsItem.out_wait ?_ (by assumption)
    | split
    | dsimp only
    | intro _

theorem Keeps.fetchTile {z : State} {s : State} {n : Fin 132} {x : Step} {r : Role} {i t pos : Nat} {word : Option Nat} (hk : Keeps z s) :
    Keeps z (State.fetchTile s n x r i t pos word) := by
  dsimp only [State.fetchTile]
  repeat' first
    | with_reducible assumption
    | with_reducible apply Keeps.post

theorem Keeps.returnCredit {z : State} {s : State} {n : Fin 132} {slot j : Nat} {src : UnitId} (hk : Keeps z s) :
    Keeps z (State.returnCredit s n slot j src) := by
  dsimp only [State.returnCredit]
  repeat' first
    | with_reducible assumption
    | with_reducible apply Keeps.post
    | with_reducible apply Keeps.flushLink
    | with_reducible apply Keeps.each
    | with_reducible refine KeepsItem.out_done ?_ (by assumption)
    | with_reducible refine KeepsItem.out_stop ?_ (by assumption)
    | with_reducible refine KeepsItem.out_miss ?_ (by assumption)
    | with_reducible refine KeepsItem.out_wait ?_ (by assumption)
    | split
    | dsimp only
    | intro _

theorem Keeps.popLinks {z : State} {n : Fin 132} {x : Step} {i k : Nat} {s : State} (hk : Keeps z s) :
    Keeps z (State.popLinks s n x i k) := by
  induction k generalizing s with
  | zero => exact hk
  | succ k ih =>
    unfold State.popLinks
    repeat' first
      | with_reducible assumption
      | with_reducible apply ih
      | with_reducible apply Keeps.returnCredit
      | with_reducible apply Keeps.modShare
      | split

theorem Keeps.walkTile {z : State} {s : State} {n : Fin 132} {x : Step} {h : Share} {r : Round} {i t : Nat} (hk : Keeps z s) :
    Keeps z (State.walkTile s n x h r i t) := by
  dsimp only [State.walkTile]
  repeat' first
    | with_reducible assumption
    | with_reducible apply Keeps.failTile
    | with_reducible apply Keeps.progress
    | with_reducible apply Keeps.ask
    | with_reducible apply Keeps.withSlot
    | with_reducible apply Keeps.advance
    | with_reducible apply Keeps.giveSlot
    | with_reducible apply Keeps.meetFrogs
    | with_reducible apply Keeps.fetchTile
    | with_reducible apply Keeps.popLinks
    | with_reducible refine KeepsItem.out_done ?_ (by assumption)
    | with_reducible refine KeepsItem.out_stop ?_ (by assumption)
    | with_reducible refine KeepsItem.out_miss ?_ (by assumption)
    | with_reducible refine KeepsItem.out_wait ?_ (by assumption)
    | exact (rfl : (_ : List (Fin 132)) = _)
    | split
    | dsimp only
    | intro _

theorem Keeps.execSlotGrant {z : State} {sl : Fin 132} {slot : Nat} {role : Role} {s : State} (hk : Keeps z s) :
    KeepsX z (Sys2Proof.Machine.execSlotGrant sl slot role s) := by
  dsimp only [Sys2Proof.Machine.execSlotGrant]
  repeat' first
    | with_reducible assumption
    | ((with_reducible apply Slice.staysDead_alive); intro _ q; exact Slice.touch_power q)
    | with_reducible apply Keeps.modSlice
    | with_reducible apply Keeps.need
    | with_reducible apply Keeps.settleShare
    | with_reducible apply Keeps.progress
    | with_reducible apply Keeps.settlePass
    | with_reducible apply Keeps.advance
    | with_reducible apply Keeps.walkTile
    | with_reducible exact KeepsX.fault
    | with_reducible apply KeepsX.next
    | with_reducible refine KeepsO.out ?_ (by assumption)
    | with_reducible refine KeepsItem.out_done ?_ (by assumption)
    | with_reducible refine KeepsItem.out_stop ?_ (by assumption)
    | with_reducible refine KeepsItem.out_miss ?_ (by assumption)
    | with_reducible refine KeepsItem.out_wait ?_ (by assumption)
    | exact (rfl : (_ : List (Fin 132)) = _)
    | split

end Sys2Proof.Machine
end

