-- ==== Sys2Proof/Laws/KeepsFaults.lean ====
section
/-! SUPPORT. Keeps, for the operations of Machine/Faults.lean. -/
namespace Sys2Proof.Machine

theorem Keeps.fenceShare {z : State} {s : State} {slot j : Nat} (hk : Keeps z s) :
    Keeps z (State.fenceShare s slot j) := by
  dsimp only [State.fenceShare]
  repeat' first
    | with_reducible assumption
    | with_reducible apply Keeps.modStep
    | with_reducible apply Keeps.addCond

theorem Keeps.redispatch {z : State} {s : State} {slot j : Nat} {l : Nat} {last : Option Nat} (hk : Keeps z s) :
    Keeps z (State.redispatch s slot j l last) := by
  dsimp only [State.redispatch]
  repeat' first
    | with_reducible assumption
    | ((with_reducible apply Slice.staysDead_of); intro _; rfl)
    | with_reducible apply Keeps.modSlice
    | with_reducible apply Keeps.post
    | with_reducible apply Keeps.modStep
    | with_reducible apply Keeps.dispatch
    | with_reducible refine KeepsItem.out_done ?_ (by assumption)
    | with_reducible refine KeepsItem.out_stop ?_ (by assumption)
    | with_reducible refine KeepsItem.out_miss ?_ (by assumption)
    | with_reducible refine KeepsItem.out_wait ?_ (by assumption)
    | exact (rfl : (_ : List (Fin 132)) = _)
    | split

theorem Keeps.continueStep {z : State} {s : State} {x : Step} {j l : Nat} {lost : Option Share} {replaced : Bool} (hk : Keeps z s) :
    Keeps z (State.continueStep s x j l lost replaced) := by
  dsimp only [State.continueStep]
  repeat' first
    | with_reducible assumption
    | with_reducible apply Keeps.fenceShare
    | with_reducible apply Keeps.redispatch
    | with_reducible refine KeepsItem.out_done ?_ (by assumption)
    | with_reducible refine KeepsItem.out_stop ?_ (by assumption)
    | with_reducible refine KeepsItem.out_miss ?_ (by assumption)
    | with_reducible refine KeepsItem.out_wait ?_ (by assumption)
    | split

theorem Keeps.tornSummaries {z : State} {s : State} {torn : List (UnitId × Fin 64 × SummaryRec × Nat × Nat)} (hk : Keeps z s) :
    Keeps z (State.tornSummaries s torn) := by
  dsimp only [State.tornSummaries]
  repeat' first
    | with_reducible assumption
    | with_reducible apply Keeps.nRange
    | with_reducible apply Keeps.each
    | with_reducible refine KeepsItem.out_done ?_ (by assumption)
    | with_reducible refine KeepsItem.out_stop ?_ (by assumption)
    | with_reducible refine KeepsItem.out_miss ?_ (by assumption)
    | with_reducible refine KeepsItem.out_wait ?_ (by assumption)
    | split
    | dsimp only
    | intro _

theorem Keeps.remakeNaccs {z : State} {s : State} {l : Option Nat} {as : List (UnitId × Nat × Bool × Nat × Nat)} (hk : Keeps z s) :
    Keeps z (State.remakeNaccs s l as) := by
  dsimp only [State.remakeNaccs]
  repeat' first
    | with_reducible assumption
    | with_reducible apply Keeps.post
    | with_reducible apply Keeps.each
    | with_reducible refine KeepsItem.out_done ?_ (by assumption)
    | with_reducible refine KeepsItem.out_stop ?_ (by assumption)
    | with_reducible refine KeepsItem.out_miss ?_ (by assumption)
    | with_reducible refine KeepsItem.out_wait ?_ (by assumption)
    | split
    | dsimp only
    | intro _

theorem Keeps.clearAgain {z : State} {s : State} {n : Fin 132} {x : Step} {es : List Nat} (hk : Keeps z s) :
    Keeps z (State.clearAgain s n x es) := by
  dsimp only [State.clearAgain]
  repeat' first
    | with_reducible assumption
    | with_reducible apply Keeps.modStep
    | with_reducible apply Keeps.naccWrite
    | with_reducible apply Keeps.each
    | with_reducible refine KeepsItem.out_done ?_ (by assumption)
    | with_reducible refine KeepsItem.out_stop ?_ (by assumption)
    | with_reducible refine KeepsItem.out_miss ?_ (by assumption)
    | with_reducible refine KeepsItem.out_wait ?_ (by assumption)
    | exact (rfl : (_ : List (Fin 132)) = _)
    | split
    | dsimp only
    | intro _
    | fail_if_no_progress with_reducible apply Keeps.fields

theorem Keeps.fence {z : State} {s : State} {n : Fin 132} (hk : Keeps z s) : Keeps z (State.fence s n) := by
  dsimp only [State.fence]
  by_cases ha : (s.slice n).alive = true
  · rw [if_neg (by simp [ha])]
    repeat' first
      | with_reducible assumption
      | refine Keeps.modSlice ?_ (Slice.staysDead_of fun _ => rfl)
      | ((with_reducible refine Keeps.modSliceAlive ?_ ?_); rotate_left; exact ha)
      | (refine Keeps.modHubSub ?_ (fun _ => List.filter_sublist))
      | (refine Keeps.modHubSub ?_ (fun _ => List.drop_sublist _ _))
      | with_reducible apply Keeps.modSlice
      | with_reducible apply Keeps.raise
      | with_reducible apply Keeps.count
      | with_reducible apply Keeps.continueStep
      | with_reducible apply Keeps.tornSummaries
      | with_reducible apply Keeps.remakeNaccs
      | with_reducible apply Keeps.clearAgain
      | with_reducible apply Keeps.reseek
      | with_reducible apply Keeps.wakeAll
      | with_reducible apply Keeps.each
      | with_reducible apply Keeps.foldl
      | split
      | dsimp only
      | intro _
      | exact (rfl : (_ : List (Fin 132)) = _)
      | fail_if_no_progress with_reducible apply Keeps.fields
  · rw [if_pos (by simp [ha])]
    exact hk

theorem Keeps.scrubLoses {z : State} {s : State} {c : Fin 64} {m : Fin 12} (hk : Keeps z s) :
    Keeps z (State.scrubLoses s c m) := by
  dsimp only [State.scrubLoses]
  repeat' first
    | with_reducible assumption
    | with_reducible apply Keeps.modCtx
    | with_reducible apply Keeps.foldl
    | with_reducible refine KeepsItem.out_done ?_ (by assumption)
    | with_reducible refine KeepsItem.out_stop ?_ (by assumption)
    | with_reducible refine KeepsItem.out_miss ?_ (by assumption)
    | with_reducible refine KeepsItem.out_wait ?_ (by assumption)
    | exact (rfl : (_ : List (Fin 132)) = _)
    | split

theorem Keeps.failStation {z : State} {s : State} {m : Fin 12} (hk : Keeps z s) :
    Keeps z (State.failStation s m) := by
  dsimp only [State.failStation]
  repeat' first
    | with_reducible assumption
    | ((with_reducible apply Hub.sparesStay_of); intro _; rfl)
    | with_reducible apply Keeps.modHub
    | with_reducible apply Keeps.modStation
    | with_reducible apply Keeps.draw
    | with_reducible apply Keeps.raise
    | with_reducible apply Keeps.failTile
    | with_reducible apply Keeps.abortCtx
    | with_reducible apply Keeps.settleShares
    | with_reducible apply Keeps.wakeAll
    | with_reducible apply Keeps.scrubLoses
    | with_reducible apply Keeps.each
    | with_reducible refine KeepsItem.out_done ?_ (by assumption)
    | with_reducible refine KeepsItem.out_stop ?_ (by assumption)
    | with_reducible refine KeepsItem.out_miss ?_ (by assumption)
    | with_reducible refine KeepsItem.out_wait ?_ (by assumption)
    | exact (rfl : (_ : List (Fin 132)) = _)
    | split
    | dsimp only
    | intro _
    | fail_if_no_progress with_reducible apply Keeps.fields

theorem Keeps.judgeLost {z : State} {s : State} {l : Fin 16} {f : RxFrame} (hk : Keeps z s) :
    Keeps z (State.judgeLost s l f) := by
  dsimp only [State.judgeLost]
  repeat' first
    | with_reducible assumption
    | with_reducible apply Keeps.post
    | with_reducible apply Keeps.modStep
    | with_reducible apply Keeps.each
    | with_reducible refine KeepsItem.out_done ?_ (by assumption)
    | with_reducible refine KeepsItem.out_stop ?_ (by assumption)
    | with_reducible refine KeepsItem.out_miss ?_ (by assumption)
    | with_reducible refine KeepsItem.out_wait ?_ (by assumption)
    | exact (rfl : (_ : List (Fin 132)) = _)
    | split
    | dsimp only
    | intro _

theorem Keeps.endRecv {z : State} {s : State} {l : Fin 16} {x : Step} (hk : Keeps z s) :
    Keeps z (State.endRecv s l x) := by
  dsimp only [State.endRecv]
  repeat' first
    | with_reducible assumption
    | with_reducible apply Keeps.failTile
    | with_reducible apply Keeps.settleShares
    | with_reducible refine KeepsItem.out_done ?_ (by assumption)
    | with_reducible refine KeepsItem.out_stop ?_ (by assumption)
    | with_reducible refine KeepsItem.out_miss ?_ (by assumption)
    | with_reducible refine KeepsItem.out_wait ?_ (by assumption)
    | split

theorem Keeps.endServing {z : State} {s : State} {l : Fin 16} (hk : Keeps z s) :
    Keeps z (State.endServing s l) := by
  dsimp only [State.endServing]
  repeat' first
    | with_reducible assumption
    | ((with_reducible apply Slice.staysDead_of); intro _; rfl)
    | with_reducible refine KeepsItem.out_done ?_ (by assumption)
    | with_reducible refine KeepsItem.out_stop ?_ (by assumption)
    | with_reducible refine KeepsItem.out_miss ?_ (by assumption)
    | with_reducible refine KeepsItem.out_wait ?_ (by assumption)
    | exact (rfl : (_ : List (Fin 132)) = _)
    | split
    | dsimp only
    | intro _
    | fail_if_no_progress with_reducible apply Keeps.fields
    | fail_if_no_progress with_reducible apply Keeps.fieldsSlices

theorem Keeps.failLink {z : State} {s : State} {l : Fin 16} (hk : Keeps z s) :
    Keeps z (State.failLink s l) := by
  dsimp only [State.failLink]
  repeat' first
    | with_reducible assumption
    | ((with_reducible apply Hub.sparesStay_of); intro _; rfl)
    | with_reducible apply Keeps.modHub
    | with_reducible apply Keeps.modLink
    | with_reducible apply Keeps.draw
    | with_reducible apply Keeps.raise
    | with_reducible apply Keeps.modStep
    | with_reducible apply Keeps.addCond
    | with_reducible apply Keeps.failTile
    | with_reducible apply Keeps.haltShares
    | with_reducible apply Keeps.settleShares
    | with_reducible apply Keeps.judgeLost
    | with_reducible apply Keeps.endRecv
    | with_reducible apply Keeps.endServing
    | with_reducible apply Keeps.each
    | with_reducible refine KeepsItem.out_done ?_ (by assumption)
    | with_reducible refine KeepsItem.out_stop ?_ (by assumption)
    | with_reducible refine KeepsItem.out_miss ?_ (by assumption)
    | with_reducible refine KeepsItem.out_wait ?_ (by assumption)
    | exact (rfl : (_ : List (Fin 132)) = _)
    | split
    | dsimp only
    | intro _
    | fail_if_no_progress with_reducible apply Keeps.fields

theorem Keeps.failHub {z : State} {s : State} (hk : Keeps z s) : Keeps z (State.failHub s) := by
  have k : Keeps z s.draw.2.zeroAllKeys.clearStage := Keeps.clearStage (Keeps.zeroAllKeys hk.draw)
  refine k.trans ?_
  unfold State.failHub
  exact
    { (Keeps.refl s.draw.2.zeroAllKeys.clearStage) with
      phase := .inr rfl }

theorem Keeps.failUnit {z : State} {s : State} {q : UnitId} (hk : Keeps z s) :
    Keeps z (State.failUnit s q) := by
  unfold State.failUnit
  repeat' first
    | with_reducible assumption
    | with_reducible apply Keeps.fence
    | with_reducible apply Keeps.failStation
    | with_reducible apply Keeps.failLink
    | with_reducible apply Keeps.failHub
    | with_reducible refine KeepsItem.out_done ?_ (by assumption)
    | with_reducible refine KeepsItem.out_stop ?_ (by assumption)
    | with_reducible refine KeepsItem.out_miss ?_ (by assumption)
    | with_reducible refine KeepsItem.out_wait ?_ (by assumption)
    | split

theorem Keeps.countSram {z : State} {s : State} {u : UnitId} {correctable : Bool} (hk : Keeps z s) :
    Keeps z (State.countSram s u correctable) := by
  dsimp only [State.countSram]
  repeat' first
    | with_reducible assumption
    | ((with_reducible apply Slice.staysDead_of); intro _; rfl)
    | with_reducible apply Keeps.modStation
    | with_reducible apply Keeps.modSlice
    | with_reducible apply Keeps.count
    | with_reducible refine KeepsItem.out_done ?_ (by assumption)
    | with_reducible refine KeepsItem.out_stop ?_ (by assumption)
    | with_reducible refine KeepsItem.out_miss ?_ (by assumption)
    | with_reducible refine KeepsItem.out_wait ?_ (by assumption)
    | exact (rfl : (_ : List (Fin 132)) = _)
    | split

theorem Keeps.sliceError {z : State} {s : State} {n : Fin 132} {q : SramPlace} (hk : Keeps z s) :
    Keeps z (State.sliceError s n q) := by
  unfold State.sliceError
  repeat' first
    | with_reducible assumption
    | ((with_reducible apply Slice.staysDead_of); intro _; rfl)
    | with_reducible apply Keeps.draw
    | with_reducible apply Keeps.modSlice
    | with_reducible apply Keeps.countIntegrity
    | with_reducible apply Keeps.modShare
    | with_reducible apply Keeps.fence
    | with_reducible refine KeepsItem.out_done ?_ (by assumption)
    | with_reducible refine KeepsItem.out_stop ?_ (by assumption)
    | with_reducible refine KeepsItem.out_miss ?_ (by assumption)
    | with_reducible refine KeepsItem.out_wait ?_ (by assumption)
    | exact (rfl : (_ : List (Fin 132)) = _)
    | split

theorem Keeps.stationError {z : State} {s : State} {m : Fin 12} {q : SramPlace} (hk : Keeps z s) :
    Keeps z (State.stationError s m q) := by
  unfold State.stationError
  repeat' first
    | with_reducible assumption
    | with_reducible apply Keeps.modStation
    | with_reducible apply Keeps.failStation
    | with_reducible refine KeepsItem.out_done ?_ (by assumption)
    | with_reducible refine KeepsItem.out_stop ?_ (by assumption)
    | with_reducible refine KeepsItem.out_miss ?_ (by assumption)
    | with_reducible refine KeepsItem.out_wait ?_ (by assumption)
    | exact (rfl : (_ : List (Fin 132)) = _)
    | split

theorem Keeps.linkError {z : State} {s : State} {l : Fin 16} {q : SramPlace} (hk : Keeps z s) :
    Keeps z (State.linkError s l q) := by
  unfold State.linkError
  repeat' first
    | with_reducible assumption
    | with_reducible apply Keeps.modLink
    | with_reducible apply Keeps.failLink
    | with_reducible refine KeepsItem.out_done ?_ (by assumption)
    | with_reducible refine KeepsItem.out_stop ?_ (by assumption)
    | with_reducible refine KeepsItem.out_miss ?_ (by assumption)
    | with_reducible refine KeepsItem.out_wait ?_ (by assumption)
    | exact (rfl : (_ : List (Fin 132)) = _)
    | split

theorem Keeps.hubError {z : State} {s : State} {q : SramPlace} (hk : Keeps z s) :
    Keeps z (State.hubError s q) := by
  unfold State.hubError
  repeat' first
    | with_reducible assumption
    | with_reducible apply Keeps.modCtx
    | with_reducible apply Keeps.abortCtx
    | with_reducible apply Keeps.zeroWeight
    | with_reducible apply Keeps.failHub
    | with_reducible apply Keeps.each
    | with_reducible refine KeepsItem.out_done ?_ (by assumption)
    | with_reducible refine KeepsItem.out_stop ?_ (by assumption)
    | with_reducible refine KeepsItem.out_miss ?_ (by assumption)
    | with_reducible refine KeepsItem.out_wait ?_ (by assumption)
    | exact (rfl : (_ : List (Fin 132)) = _)
    | split
    | dsimp only
    | intro _

theorem Keeps.execSramError {z : State} {u : UnitId} {correctable : Bool} {place : SramPlace} {addr : BitVec 32} {s : State} (hk : Keeps z s) :
    KeepsX z (Sys2Proof.Machine.execSramError u correctable place addr s) := by
  dsimp only [Sys2Proof.Machine.execSramError]
  repeat' first
    | with_reducible assumption
    | with_reducible apply Keeps.raise
    | with_reducible apply Keeps.countSram
    | with_reducible apply Keeps.sliceError
    | with_reducible apply Keeps.stationError
    | with_reducible apply Keeps.linkError
    | with_reducible apply Keeps.hubError
    | with_reducible exact KeepsX.fault
    | with_reducible apply KeepsX.next
    | with_reducible refine KeepsO.out ?_ (by assumption)
    | with_reducible refine KeepsItem.out_done ?_ (by assumption)
    | with_reducible refine KeepsItem.out_stop ?_ (by assumption)
    | with_reducible refine KeepsItem.out_miss ?_ (by assumption)
    | with_reducible refine KeepsItem.out_wait ?_ (by assumption)
    | split

theorem Keeps.execProbe {z : State} {s : State} (hk : Keeps z s) :
    KeepsX z (Sys2Proof.Machine.execProbe s) := by
  dsimp only [Sys2Proof.Machine.execProbe]
  repeat' first
    | with_reducible assumption
    | ((with_reducible apply Hub.sparesStay_of); intro _; rfl)
    | with_reducible apply Keeps.modHub
    | with_reducible apply Keeps.post
    | with_reducible apply Keeps.each
    | with_reducible exact KeepsX.fault
    | with_reducible apply KeepsX.next
    | with_reducible refine KeepsO.out ?_ (by assumption)
    | with_reducible refine KeepsItem.out_done ?_ (by assumption)
    | with_reducible refine KeepsItem.out_stop ?_ (by assumption)
    | with_reducible refine KeepsItem.out_miss ?_ (by assumption)
    | with_reducible refine KeepsItem.out_wait ?_ (by assumption)
    | exact (rfl : (_ : List (Fin 132)) = _)
    | split
    | dsimp only
    | intro _

theorem Keeps.execProbeTimeout {z : State} {u : UnitId} {s : State} (hk : Keeps z s) :
    KeepsX z (Sys2Proof.Machine.execProbeTimeout u s) := by
  dsimp only [Sys2Proof.Machine.execProbeTimeout]
  repeat' first
    | with_reducible assumption
    | ((with_reducible apply Hub.sparesStay_of); intro _; rfl)
    | with_reducible apply Keeps.modHub
    | with_reducible apply Keeps.failUnit
    | with_reducible exact KeepsX.fault
    | with_reducible apply KeepsX.next
    | with_reducible refine KeepsO.out ?_ (by assumption)
    | with_reducible refine KeepsItem.out_done ?_ (by assumption)
    | with_reducible refine KeepsItem.out_stop ?_ (by assumption)
    | with_reducible refine KeepsItem.out_miss ?_ (by assumption)
    | with_reducible refine KeepsItem.out_wait ?_ (by assumption)
    | exact (rfl : (_ : List (Fin 132)) = _)
    | split

end Sys2Proof.Machine
end

