-- ==== Sys2Proof/Laws/KeepsDict.lean ====
section
/-! SUPPORT. Keeps, for the operations of Machine/Dict.lean. -/
namespace Sys2Proof.Machine

theorem Keeps.latch {z : State} {s : State} (hk : Keeps z s) :
    Keeps z (State.latch s) := by
  dsimp only [State.latch]
  repeat' first
    | with_reducible assumption
    | ((with_reducible apply Hub.sparesStay_of); intro _; rfl)
    | with_reducible apply Keeps.modHub

end Sys2Proof.Machine
end

