-- ==== Sys2Proof/Laws/KeepsDictWrite.lean ====
section
/-! SUPPORT. Keeps, for the operations of Machine/DictWrite.lean. -/
namespace Sys2Proof.Machine

theorem Keeps.haltStep {z : State} {s : State} {x : Step} (hk : Keeps z s) :
    Keeps z (State.haltStep s x) := by
  dsimp only [State.haltStep]
  repeat' first
    | with_reducible assumption
    | ((with_reducible apply Slice.staysDead_of); intro _; rfl)
    | with_reducible apply Keeps.modStep
    | with_reducible apply Keeps.addCond
    | with_reducible apply Keeps.haltShares
    | with_reducible apply Keeps.dispatch
    | with_reducible refine KeepsItem.out_done ?_ (by assumption)
    | with_reducible refine KeepsItem.out_stop ?_ (by assumption)
    | with_reducible refine KeepsItem.out_miss ?_ (by assumption)
    | with_reducible refine KeepsItem.out_wait ?_ (by assumption)
    | exact (rfl : (_ : List (Fin 132)) = _)
    | split
    | dsimp only
    | intro _
    | fail_if_no_progress with_reducible apply Keeps.fields
    | fail_if_no_progress with_reducible apply Keeps.fieldsSlices

theorem Keeps.quiesceCmd {z : State} {s : State} {v : Nat} (hk : Keeps z s) :
    Keeps z (State.quiesceCmd s v) := by
  dsimp only [State.quiesceCmd]
  repeat' first
    | with_reducible assumption
    | ((with_reducible apply Hub.sparesStay_of); intro _; rfl)
    | with_reducible apply Keeps.modHub
    | with_reducible apply Keeps.settleQuiesce
    | with_reducible apply Keeps.haltStep
    | with_reducible apply Keeps.each
    | with_reducible refine KeepsItem.out_done ?_ (by assumption)
    | with_reducible refine KeepsItem.out_stop ?_ (by assumption)
    | with_reducible refine KeepsItem.out_miss ?_ (by assumption)
    | with_reducible refine KeepsItem.out_wait ?_ (by assumption)
    | exact (rfl : (_ : List (Fin 132)) = _)
    | split

theorem Keeps.setStations {z : State} {s : State} {v : Nat} (hk : Keeps z s) :
    Keeps z (State.setStations s v) := by
  dsimp only [State.setStations]
  repeat' first
    | with_reducible assumption
    | ((with_reducible apply Hub.sparesStay_of); intro _; rfl)
    | with_reducible apply Keeps.modHub
    | with_reducible apply Keeps.modStation
    | with_reducible apply Keeps.failStation
    | with_reducible apply Keeps.each
    | with_reducible refine KeepsItem.out_done ?_ (by assumption)
    | with_reducible refine KeepsItem.out_stop ?_ (by assumption)
    | with_reducible refine KeepsItem.out_miss ?_ (by assumption)
    | with_reducible refine KeepsItem.out_wait ?_ (by assumption)
    | exact (rfl : (_ : List (Fin 132)) = _)
    | split
    | dsimp only
    | intro _

theorem Keeps.setLinks {z : State} {s : State} {v : Nat} (hk : Keeps z s) :
    Keeps z (State.setLinks s v) := by
  dsimp only [State.setLinks]
  repeat' first
    | with_reducible assumption
    | ((with_reducible apply Hub.sparesStay_of); intro _; rfl)
    | with_reducible apply Keeps.modHub
    | with_reducible apply Keeps.modLink
    | with_reducible apply Keeps.failLink
    | with_reducible apply Keeps.each
    | with_reducible refine KeepsItem.out_done ?_ (by assumption)
    | with_reducible refine KeepsItem.out_stop ?_ (by assumption)
    | with_reducible refine KeepsItem.out_miss ?_ (by assumption)
    | with_reducible refine KeepsItem.out_wait ?_ (by assumption)
    | exact (rfl : (_ : List (Fin 132)) = _)
    | split
    | dsimp only
    | intro _

theorem Keeps.patchCmd {z : State} {s : State} {v : Nat} (hk : Keeps z s) :
    Keeps z (State.patchCmd s v) := by
  dsimp only [State.patchCmd]
  repeat' first
    | with_reducible assumption
    | ((with_reducible apply Hub.sparesStay_of); intro _; rfl)
    | with_reducible apply Keeps.modHub
    | with_reducible apply Keeps.raise
    | with_reducible apply Keeps.measureNow
    | with_reducible refine KeepsItem.out_done ?_ (by assumption)
    | with_reducible refine KeepsItem.out_stop ?_ (by assumption)
    | with_reducible refine KeepsItem.out_miss ?_ (by assumption)
    | with_reducible refine KeepsItem.out_wait ?_ (by assumption)
    | exact (rfl : (_ : List (Fin 132)) = _)
    | split

theorem Keeps.keyCmd {z : State} {s : State} {v : Nat} (hk : Keeps z s) :
    Keeps z (State.keyCmd s v) := by
  dsimp only [State.keyCmd]
  repeat' first
    | with_reducible assumption
    | ((with_reducible apply Hub.sparesStay_of); intro _; rfl)
    | with_reducible apply Keeps.modHub
    | with_reducible apply Keeps.modCtx
    | with_reducible apply Keeps.raise
    | with_reducible apply Keeps.abortCtx
    | with_reducible apply Keeps.loadKey
    | with_reducible apply Keeps.loadWeightKey
    | with_reducible apply Keeps.zeroWeight
    | with_reducible apply Keeps.rotateKey
    | with_reducible apply Keeps.measureNow
    | with_reducible refine KeepsItem.out_done ?_ (by assumption)
    | with_reducible refine KeepsItem.out_stop ?_ (by assumption)
    | with_reducible refine KeepsItem.out_miss ?_ (by assumption)
    | with_reducible refine KeepsItem.out_wait ?_ (by assumption)
    | exact (rfl : (_ : List (Fin 132)) = _)
    | split

theorem Keeps.ctxCmd {z : State} {s : State} {c : Fin 64} {v : Nat} (hk : Keeps z s) :
    Keeps z (State.ctxCmd s c v) := by
  dsimp only [State.ctxCmd]
  repeat' first
    | with_reducible assumption
    | with_reducible apply Keeps.abortCtx
    | with_reducible apply Keeps.openCtx
    | with_reducible apply Keeps.closeCtx
    | with_reducible refine KeepsItem.out_done ?_ (by assumption)
    | with_reducible refine KeepsItem.out_stop ?_ (by assumption)
    | with_reducible refine KeepsItem.out_miss ?_ (by assumption)
    | with_reducible refine KeepsItem.out_wait ?_ (by assumption)
    | split

theorem Keeps.checkpoint {z : State} {s : State} (hk : Keeps z s) :
    Keeps z (State.checkpoint s) := by
  dsimp only [State.checkpoint]
  repeat' first
    | with_reducible assumption
    | ((with_reducible apply Hub.sparesStay_of); intro _; rfl)
    | with_reducible apply Keeps.modHub
    | with_reducible apply Keeps.raise

theorem Keeps.restore {z : State} {s : State} (hk : Keeps z s) : Keeps z s.restore := by
  unfold State.restore
  dsimp only
  split
  · with_reducible refine Keeps.ofFnSlices (Keeps.modHub hk ?_) ?_ ?_
    · exact fun _ => rfl
    · exact fun _ => rfl
    · rfl
  · exact Keeps.modHub hk (Hub.sparesStay_of fun _ => rfl)

theorem Keeps.startSwatch {z : State} {s : State} {ls : List (Fin 128)} (hk : Keeps z s) :
    Keeps z (State.startSwatch s ls) := by
  dsimp only [State.startSwatch]
  repeat' first
    | with_reducible assumption
    | ((with_reducible apply Hub.sparesStay_of); intro _; rfl)
    | with_reducible apply Keeps.modHub
    | with_reducible apply Keeps.each
    | with_reducible refine KeepsItem.out_done ?_ (by assumption)
    | with_reducible refine KeepsItem.out_stop ?_ (by assumption)
    | with_reducible refine KeepsItem.out_miss ?_ (by assumption)
    | with_reducible refine KeepsItem.out_wait ?_ (by assumption)
    | exact (rfl : (_ : List (Fin 132)) = _)
    | split
    | dsimp only
    | intro _

theorem Keeps.writeRing {z : State} {s : State} {c : Fin 64} {sub v : Nat} (hk : Keeps z s) :
    Keeps z (State.writeRing s c sub v) := by
  dsimp only [State.writeRing]
  repeat' first
    | with_reducible assumption
    | with_reducible apply Keeps.modRing
    | with_reducible apply Keeps.enableRing
    | with_reducible apply Keeps.disableRing
    | with_reducible refine KeepsItem.out_done ?_ (by assumption)
    | with_reducible refine KeepsItem.out_stop ?_ (by assumption)
    | with_reducible refine KeepsItem.out_miss ?_ (by assumption)
    | with_reducible refine KeepsItem.out_wait ?_ (by assumption)
    | exact (rfl : (_ : List (Fin 132)) = _)
    | split

theorem Keeps.writeAtlas {z : State} {s : State} {c : Fin 64} {sub v : Nat} (hk : Keeps z s) :
    Keeps z (State.writeAtlas s c sub v) := by
  dsimp only [State.writeAtlas]
  repeat' first
    | with_reducible assumption
    | with_reducible apply Keeps.modCtx

theorem Keeps.writeContext {z : State} {s : State} {c : Fin 64} {sub v : Nat} (hk : Keeps z s) :
    Keeps z (State.writeContext s c sub v) := by
  dsimp only [State.writeContext]
  repeat' first
    | with_reducible assumption
    | with_reducible apply Keeps.modCtx
    | with_reducible apply Keeps.ctxCmd
    | with_reducible refine KeepsItem.out_done ?_ (by assumption)
    | with_reducible refine KeepsItem.out_stop ?_ (by assumption)
    | with_reducible refine KeepsItem.out_miss ?_ (by assumption)
    | with_reducible refine KeepsItem.out_wait ?_ (by assumption)
    | exact (rfl : (_ : List (Fin 132)) = _)
    | split

theorem Keeps.pin {z : State} {s : State} {pinned : Bool} (hk : Keeps z s) :
    Keeps z (State.pin s pinned) := by
  dsimp only [State.pin]
  repeat' first
    | with_reducible assumption
    | ((with_reducible apply Slice.staysDead_of); intro _; rfl)
    | with_reducible apply Keeps.modSlice
    | with_reducible apply Keeps.foldl
    | with_reducible refine KeepsItem.out_done ?_ (by assumption)
    | with_reducible refine KeepsItem.out_stop ?_ (by assumption)
    | with_reducible refine KeepsItem.out_miss ?_ (by assumption)
    | with_reducible refine KeepsItem.out_wait ?_ (by assumption)
    | exact (rfl : (_ : List (Fin 132)) = _)
    | split
    | dsimp only
    | intro _

theorem Keeps.writeScalar {z : State} {s : State} {idx sub v : Nat} (hk : Keeps z s) :
    Keeps z (State.writeScalar s idx sub v) := by
  dsimp only [State.writeScalar]
  repeat' first
    | with_reducible assumption
    | ((with_reducible apply Hub.sparesStay_of); intro _; rfl)
    | with_reducible apply Keeps.modHub
    | with_reducible apply Keeps.settleOpReq
    | with_reducible apply Keeps.zeroiseEverything
    | with_reducible apply Keeps.fence
    | with_reducible apply Keeps.quiesceCmd
    | with_reducible apply Keeps.setStations
    | with_reducible apply Keeps.setLinks
    | with_reducible apply Keeps.patchCmd
    | with_reducible apply Keeps.keyCmd
    | with_reducible apply Keeps.checkpoint
    | with_reducible apply Keeps.writeRing
    | with_reducible apply Keeps.writeAtlas
    | with_reducible apply Keeps.writeContext
    | with_reducible apply Keeps.pin
    | with_reducible refine KeepsItem.out_done ?_ (by assumption)
    | with_reducible refine KeepsItem.out_stop ?_ (by assumption)
    | with_reducible refine KeepsItem.out_miss ?_ (by assumption)
    | with_reducible refine KeepsItem.out_wait ?_ (by assumption)
    | exact (rfl : (_ : List (Fin 132)) = _)
    | split

theorem Keeps.writeSegment {z : State} {s : State} {f : HReq} (hk : Keeps z s) :
    Keeps z (State.writeSegment s f) := by
  dsimp only [State.writeSegment]
  repeat' first
    | with_reducible assumption
    | ((with_reducible apply Hub.sparesStay_of); intro _; rfl)
    | with_reducible apply Keeps.modHub
    | with_reducible apply Keeps.restore
    | with_reducible apply Keeps.startSwatch
    | with_reducible refine KeepsItem.out_done ?_ (by assumption)
    | with_reducible refine KeepsItem.out_stop ?_ (by assumption)
    | with_reducible refine KeepsItem.out_miss ?_ (by assumption)
    | with_reducible refine KeepsItem.out_wait ?_ (by assumption)
    | exact (rfl : (_ : List (Fin 132)) = _)
    | split

theorem Keeps.applyWrite {z : State} {s : State} {f : HReq} (hk : Keeps z s) :
    Keeps z (State.applyWrite s f) := by
  dsimp only [State.applyWrite]
  repeat' first
    | with_reducible assumption
    | ((with_reducible apply Hub.sparesStay_of); intro _; rfl)
    | with_reducible apply Keeps.modHub
    | with_reducible apply Keeps.writeScalar
    | with_reducible apply Keeps.writeSegment
    | with_reducible refine KeepsItem.out_done ?_ (by assumption)
    | with_reducible refine KeepsItem.out_stop ?_ (by assumption)
    | with_reducible refine KeepsItem.out_miss ?_ (by assumption)
    | with_reducible refine KeepsItem.out_wait ?_ (by assumption)
    | exact (rfl : (_ : List (Fin 132)) = _)
    | split

theorem Keeps.readEffect {z : State} {s : State} {f : HReq} {rot : Bool} (hk : Keeps z s) :
    Keeps z (State.readEffect s f rot) := by
  dsimp only [State.readEffect]
  repeat' first
    | with_reducible assumption
    | ((with_reducible apply Hub.sparesStay_of); intro _; rfl)
    | with_reducible apply Keeps.modHub
    | with_reducible refine KeepsItem.out_done ?_ (by assumption)
    | with_reducible refine KeepsItem.out_stop ?_ (by assumption)
    | with_reducible refine KeepsItem.out_miss ?_ (by assumption)
    | with_reducible refine KeepsItem.out_wait ?_ (by assumption)
    | exact (rfl : (_ : List (Fin 132)) = _)
    | split

theorem Keeps.hFrame {z : State} {s : State} {f : HReq} {rot : Bool} (hk : Keeps z s) :
    Keeps z (State.hFrame s f rot) := by
  dsimp only [State.hFrame]
  repeat' first
    | with_reducible assumption
    | ((with_reducible apply Hub.sparesStay_of); intro _; rfl)
    | with_reducible apply Keeps.modHub
    | with_reducible apply Keeps.spend
    | with_reducible apply Keeps.clearStage
    | with_reducible apply Keeps.applyWrite
    | with_reducible apply Keeps.readEffect
    | with_reducible refine KeepsItem.out_done ?_ (by assumption)
    | with_reducible refine KeepsItem.out_stop ?_ (by assumption)
    | with_reducible refine KeepsItem.out_miss ?_ (by assumption)
    | with_reducible refine KeepsItem.out_wait ?_ (by assumption)
    | exact (rfl : (_ : List (Fin 132)) = _)
    | split

end Sys2Proof.Machine
end

