-- ==== Sys2Proof/Laws/KeepsDictRows.lean ====
section
/-! SUPPORT. Keeps, for the operations of Machine/DictRows.lean. -/
namespace Sys2Proof.Machine

theorem Keeps.execDictionaryWrite {z : State} {frame : BitVec 128} {rot : Bool} {s : State} (hk : Keeps z s) :
    KeepsX z (Sys2Proof.Machine.execDictionaryWrite frame rot s) := by
  dsimp only [Sys2Proof.Machine.execDictionaryWrite]
  repeat' first
    | with_reducible assumption
    | with_reducible apply Keeps.hFrame
    | with_reducible exact KeepsX.fault
    | with_reducible apply KeepsX.next

theorem Keeps.execRingEnable {z : State} {c : Fin 64} {ring : Fin 4} {log2 seq : BitVec 8} {rot : Bool} {s : State} (hk : Keeps z s) :
    KeepsX z (Sys2Proof.Machine.execRingEnable c ring log2 seq rot s) := by
  dsimp only [Sys2Proof.Machine.execRingEnable]
  repeat' first
    | with_reducible assumption
    | with_reducible apply Keeps.hFrame
    | with_reducible exact KeepsX.fault
    | with_reducible apply KeepsX.next

theorem Keeps.execRingDisable {z : State} {c : Fin 64} {ring : Fin 4} {seq : BitVec 8} {rot : Bool} {s : State} (hk : Keeps z s) :
    KeepsX z (Sys2Proof.Machine.execRingDisable c ring seq rot s) := by
  dsimp only [Sys2Proof.Machine.execRingDisable]
  repeat' first
    | with_reducible assumption
    | with_reducible apply Keeps.hFrame
    | with_reducible exact KeepsX.fault
    | with_reducible apply KeepsX.next

theorem Keeps.execOpenUnkeyed {z : State} {c : Fin 64} {seq : BitVec 8} {rot : Bool} {s : State} (hk : Keeps z s) :
    KeepsX z (Sys2Proof.Machine.execOpenUnkeyed c seq rot s) := by
  dsimp only [Sys2Proof.Machine.execOpenUnkeyed]
  repeat' first
    | with_reducible assumption
    | with_reducible apply Keeps.hFrame
    | with_reducible exact KeepsX.fault
    | with_reducible apply KeepsX.next

theorem Keeps.execOpenKeyed {z : State} {c : Fin 64} {seq : BitVec 8} {rot : Bool} {s : State} (hk : Keeps z s) :
    KeepsX z (Sys2Proof.Machine.execOpenKeyed c seq rot s) := by
  dsimp only [Sys2Proof.Machine.execOpenKeyed]
  repeat' first
    | with_reducible assumption
    | with_reducible apply Keeps.hFrame
    | with_reducible exact KeepsX.fault
    | with_reducible apply KeepsX.next

theorem Keeps.execClose {z : State} {c : Fin 64} {seq : BitVec 8} {rot : Bool} {s : State} (hk : Keeps z s) :
    KeepsX z (Sys2Proof.Machine.execClose c seq rot s) := by
  dsimp only [Sys2Proof.Machine.execClose]
  repeat' first
    | with_reducible assumption
    | with_reducible apply Keeps.hFrame
    | with_reducible exact KeepsX.fault
    | with_reducible apply KeepsX.next

theorem Keeps.execAbort {z : State} {c : Fin 64} {seq : BitVec 8} {rot : Bool} {s : State} (hk : Keeps z s) :
    KeepsX z (Sys2Proof.Machine.execAbort c seq rot s) := by
  dsimp only [Sys2Proof.Machine.execAbort]
  repeat' first
    | with_reducible assumption
    | with_reducible apply Keeps.hFrame
    | with_reducible exact KeepsX.fault
    | with_reducible apply KeepsX.next

theorem Keeps.execLoadContext {z : State} {c : Fin 64} {seq : BitVec 8} {rot : Bool} {s : State} (hk : Keeps z s) :
    KeepsX z (Sys2Proof.Machine.execLoadContext c seq rot s) := by
  dsimp only [Sys2Proof.Machine.execLoadContext]
  repeat' first
    | with_reducible assumption
    | with_reducible apply Keeps.hFrame
    | with_reducible exact KeepsX.fault
    | with_reducible apply KeepsX.next

theorem Keeps.execRotate {z : State} {c : Fin 64} {seq : BitVec 8} {rot : Bool} {s : State} (hk : Keeps z s) :
    KeepsX z (Sys2Proof.Machine.execRotate c seq rot s) := by
  dsimp only [Sys2Proof.Machine.execRotate]
  repeat' first
    | with_reducible assumption
    | with_reducible apply Keeps.hFrame
    | with_reducible exact KeepsX.fault
    | with_reducible apply KeepsX.next

theorem Keeps.execLoadWeight {z : State} {w : Fin 16} {seq : BitVec 8} {rot : Bool} {s : State} (hk : Keeps z s) :
    KeepsX z (Sys2Proof.Machine.execLoadWeight w seq rot s) := by
  dsimp only [Sys2Proof.Machine.execLoadWeight]
  repeat' first
    | with_reducible assumption
    | with_reducible apply Keeps.hFrame
    | with_reducible exact KeepsX.fault
    | with_reducible apply KeepsX.next

theorem Keeps.execSealWeight {z : State} {w : Fin 16} {seq : BitVec 8} {rot : Bool} {s : State} (hk : Keeps z s) :
    KeepsX z (Sys2Proof.Machine.execSealWeight w seq rot s) := by
  dsimp only [Sys2Proof.Machine.execSealWeight]
  repeat' first
    | with_reducible assumption
    | with_reducible apply Keeps.hFrame
    | with_reducible exact KeepsX.fault
    | with_reducible apply KeepsX.next

theorem Keeps.execZeroiseContext {z : State} {c : Fin 64} {seq : BitVec 8} {rot : Bool} {s : State} (hk : Keeps z s) :
    KeepsX z (Sys2Proof.Machine.execZeroiseContext c seq rot s) := by
  dsimp only [Sys2Proof.Machine.execZeroiseContext]
  repeat' first
    | with_reducible assumption
    | with_reducible apply Keeps.hFrame
    | with_reducible exact KeepsX.fault
    | with_reducible apply KeepsX.next

theorem Keeps.execZeroiseWeight {z : State} {w : Fin 16} {seq : BitVec 8} {rot : Bool} {s : State} (hk : Keeps z s) :
    KeepsX z (Sys2Proof.Machine.execZeroiseWeight w seq rot s) := by
  dsimp only [Sys2Proof.Machine.execZeroiseWeight]
  repeat' first
    | with_reducible assumption
    | with_reducible apply Keeps.hFrame
    | with_reducible exact KeepsX.fault
    | with_reducible apply KeepsX.next

theorem Keeps.execMeasure {z : State} {seq : BitVec 8} {rot : Bool} {s : State} (hk : Keeps z s) :
    KeepsX z (Sys2Proof.Machine.execMeasure seq rot s) := by
  dsimp only [Sys2Proof.Machine.execMeasure]
  repeat' first
    | with_reducible assumption
    | with_reducible apply Keeps.hFrame
    | with_reducible exact KeepsX.fault
    | with_reducible apply KeepsX.next

theorem Keeps.execBindMaskWrite {z : State} {w : Fin 16} {mask : BitVec 64} {seq : BitVec 8} {rot : Bool} {s : State} (hk : Keeps z s) :
    KeepsX z (Sys2Proof.Machine.execBindMaskWrite w mask seq rot s) := by
  dsimp only [Sys2Proof.Machine.execBindMaskWrite]
  repeat' first
    | with_reducible assumption
    | with_reducible apply Keeps.hFrame
    | with_reducible exact KeepsX.fault
    | with_reducible apply KeepsX.next

theorem Keeps.execDrain {z : State} {seq : BitVec 8} {rot : Bool} {s : State} (hk : Keeps z s) :
    KeepsX z (Sys2Proof.Machine.execDrain seq rot s) := by
  dsimp only [Sys2Proof.Machine.execDrain]
  repeat' first
    | with_reducible assumption
    | with_reducible apply Keeps.hFrame
    | with_reducible exact KeepsX.fault
    | with_reducible apply KeepsX.next

theorem Keeps.execQuiesceResume {z : State} {seq : BitVec 8} {rot : Bool} {s : State} (hk : Keeps z s) :
    KeepsX z (Sys2Proof.Machine.execQuiesceResume seq rot s) := by
  dsimp only [Sys2Proof.Machine.execQuiesceResume]
  repeat' first
    | with_reducible assumption
    | with_reducible apply Keeps.hFrame
    | with_reducible exact KeepsX.fault
    | with_reducible apply KeepsX.next

theorem Keeps.execHalt {z : State} {seq : BitVec 8} {rot : Bool} {s : State} (hk : Keeps z s) :
    KeepsX z (Sys2Proof.Machine.execHalt seq rot s) := by
  dsimp only [Sys2Proof.Machine.execHalt]
  repeat' first
    | with_reducible assumption
    | with_reducible apply Keeps.hFrame
    | with_reducible exact KeepsX.fault
    | with_reducible apply KeepsX.next

theorem Keeps.execStationEnableWrite {z : State} {v : BitVec 16} {seq : BitVec 8} {rot : Bool} {s : State} (hk : Keeps z s) :
    KeepsX z (Sys2Proof.Machine.execStationEnableWrite v seq rot s) := by
  dsimp only [Sys2Proof.Machine.execStationEnableWrite]
  repeat' first
    | with_reducible assumption
    | with_reducible apply Keeps.hFrame
    | with_reducible exact KeepsX.fault
    | with_reducible apply KeepsX.next

theorem Keeps.execLinkEnableWrite {z : State} {v : BitVec 16} {seq : BitVec 8} {rot : Bool} {s : State} (hk : Keeps z s) :
    KeepsX z (Sys2Proof.Machine.execLinkEnableWrite v seq rot s) := by
  dsimp only [Sys2Proof.Machine.execLinkEnableWrite]
  repeat' first
    | with_reducible assumption
    | with_reducible apply Keeps.hFrame
    | with_reducible exact KeepsX.fault
    | with_reducible apply KeepsX.next

theorem Keeps.execActivate {z : State} {seq : BitVec 8} {rot : Bool} {s : State} (hk : Keeps z s) :
    KeepsX z (Sys2Proof.Machine.execActivate seq rot s) := by
  dsimp only [Sys2Proof.Machine.execActivate]
  repeat' first
    | with_reducible assumption
    | with_reducible apply Keeps.hFrame
    | with_reducible exact KeepsX.fault
    | with_reducible apply KeepsX.next

theorem Keeps.execClear {z : State} {seq : BitVec 8} {rot : Bool} {s : State} (hk : Keeps z s) :
    KeepsX z (Sys2Proof.Machine.execClear seq rot s) := by
  dsimp only [Sys2Proof.Machine.execClear]
  repeat' first
    | with_reducible assumption
    | with_reducible apply Keeps.hFrame
    | with_reducible exact KeepsX.fault
    | with_reducible apply KeepsX.next

theorem Keeps.execCheckpointNow {z : State} {v seq : BitVec 8} {rot : Bool} {s : State} (hk : Keeps z s) :
    KeepsX z (Sys2Proof.Machine.execCheckpointNow v seq rot s) := by
  dsimp only [Sys2Proof.Machine.execCheckpointNow]
  repeat' first
    | with_reducible assumption
    | with_reducible apply Keeps.hFrame
    | with_reducible exact KeepsX.fault
    | with_reducible apply KeepsX.next

theorem Keeps.execLifetimeRestore {z : State} {v : BitVec 64} {len seq : BitVec 8} {rot : Bool} {s : State} (hk : Keeps z s) :
    KeepsX z (Sys2Proof.Machine.execLifetimeRestore v len seq rot s) := by
  dsimp only [Sys2Proof.Machine.execLifetimeRestore]
  repeat' first
    | with_reducible assumption
    | with_reducible apply Keeps.hFrame
    | with_reducible exact KeepsX.fault
    | with_reducible apply KeepsX.next

theorem Keeps.execSwatchControl {z : State} {seg : BitVec 16} {v : BitVec 64} {len seq : BitVec 8} {rot : Bool} {s : State} (hk : Keeps z s) :
    KeepsX z (Sys2Proof.Machine.execSwatchControl seg v len seq rot s) := by
  dsimp only [Sys2Proof.Machine.execSwatchControl]
  repeat' first
    | with_reducible assumption
    | with_reducible apply Keeps.hFrame
    | with_reducible exact KeepsX.fault
    | with_reducible apply KeepsX.next

theorem Keeps.execEventNext {z : State} {seq : BitVec 8} {rot : Bool} {s : State} (hk : Keeps z s) :
    KeepsX z (Sys2Proof.Machine.execEventNext seq rot s) := by
  dsimp only [Sys2Proof.Machine.execEventNext]
  repeat' first
    | with_reducible assumption
    | with_reducible apply Keeps.hFrame
    | with_reducible exact KeepsX.fault
    | with_reducible apply KeepsX.next

theorem Keeps.execFenceSlice {z : State} {n seq : BitVec 8} {rot : Bool} {s : State} (hk : Keeps z s) :
    KeepsX z (Sys2Proof.Machine.execFenceSlice n seq rot s) := by
  dsimp only [Sys2Proof.Machine.execFenceSlice]
  repeat' first
    | with_reducible assumption
    | with_reducible apply Keeps.hFrame
    | with_reducible exact KeepsX.fault
    | with_reducible apply KeepsX.next

theorem Keeps.execZeroiseAll {z : State} {v seq : BitVec 8} {rot : Bool} {s : State} (hk : Keeps z s) :
    KeepsX z (Sys2Proof.Machine.execZeroiseAll v seq rot s) := by
  dsimp only [Sys2Proof.Machine.execZeroiseAll]
  repeat' first
    | with_reducible assumption
    | with_reducible apply Keeps.hFrame
    | with_reducible exact KeepsX.fault
    | with_reducible apply KeepsX.next

theorem Keeps.execFrameServiceTimeout {z : State} {frame : BitVec 128} {w4 : Bool} {s : State} (hk : Keeps z s) :
    KeepsX z (Sys2Proof.Machine.execFrameServiceTimeout frame w4 s) := by
  dsimp only [Sys2Proof.Machine.execFrameServiceTimeout]
  repeat' first
    | with_reducible assumption
    | ((with_reducible apply Hub.sparesStay_of); intro _; rfl)
    | with_reducible apply Keeps.modHub
    | with_reducible apply Keeps.spend
    | with_reducible exact KeepsX.fault
    | with_reducible apply KeepsX.next
    | with_reducible refine KeepsO.out ?_ (by assumption)
    | with_reducible refine KeepsItem.out_done ?_ (by assumption)
    | with_reducible refine KeepsItem.out_stop ?_ (by assumption)
    | with_reducible refine KeepsItem.out_miss ?_ (by assumption)
    | with_reducible refine KeepsItem.out_wait ?_ (by assumption)
    | exact (rfl : (_ : List (Fin 132)) = _)
    | split

theorem Keeps.execLifetimeCheckpoint {z : State} {s : State} (hk : Keeps z s) :
    KeepsX z (Sys2Proof.Machine.execLifetimeCheckpoint s) := by
  dsimp only [Sys2Proof.Machine.execLifetimeCheckpoint]
  repeat' first
    | with_reducible assumption
    | ((with_reducible apply Hub.sparesStay_of); intro _; rfl)
    | with_reducible apply Keeps.modHub
    | with_reducible apply Keeps.checkpoint
    | with_reducible exact KeepsX.fault
    | with_reducible apply KeepsX.next
    | with_reducible refine KeepsO.out ?_ (by assumption)
    | with_reducible refine KeepsItem.out_done ?_ (by assumption)
    | with_reducible refine KeepsItem.out_stop ?_ (by assumption)
    | with_reducible refine KeepsItem.out_miss ?_ (by assumption)
    | with_reducible refine KeepsItem.out_wait ?_ (by assumption)
    | exact (rfl : (_ : List (Fin 132)) = _)
    | split

theorem Keeps.endBuilding {z : State} {s : State} (hk : Keeps z s) :
    Keeps z (State.endBuilding s) := by
  dsimp only [State.endBuilding]
  repeat' first
    | with_reducible assumption
    | ((with_reducible apply Hub.sparesStay_of); intro _; rfl)
    | with_reducible apply Keeps.modHub
    | with_reducible apply Keeps.checkpoint
    | with_reducible refine KeepsItem.out_done ?_ (by assumption)
    | with_reducible refine KeepsItem.out_stop ?_ (by assumption)
    | with_reducible refine KeepsItem.out_miss ?_ (by assumption)
    | with_reducible refine KeepsItem.out_wait ?_ (by assumption)
    | exact (rfl : (_ : List (Fin 132)) = _)
    | split

theorem Keeps.execCounterTick {z : State} {s : State} (hk : Keeps z s) :
    KeepsX z (Sys2Proof.Machine.execCounterTick s) := by
  dsimp only [Sys2Proof.Machine.execCounterTick]
  repeat' first
    | with_reducible assumption
    | ((with_reducible apply Hub.sparesStay_of); intro _; rfl)
    | ((with_reducible apply Slice.staysDead_of); intro _; rfl)
    | with_reducible apply Keeps.modHub
    | with_reducible apply Keeps.latch
    | with_reducible apply Keeps.endBuilding
    | with_reducible exact KeepsX.fault
    | with_reducible apply KeepsX.next
    | with_reducible refine KeepsO.out ?_ (by assumption)
    | with_reducible refine KeepsItem.out_done ?_ (by assumption)
    | with_reducible refine KeepsItem.out_stop ?_ (by assumption)
    | with_reducible refine KeepsItem.out_miss ?_ (by assumption)
    | with_reducible refine KeepsItem.out_wait ?_ (by assumption)
    | exact (rfl : (_ : List (Fin 132)) = _)
    | split
    | dsimp only
    | intro _
    | fail_if_no_progress with_reducible apply Keeps.fields
    | fail_if_no_progress with_reducible apply Keeps.fieldsSlices

theorem Keeps.execSwatchDone {z : State} {l : Fin 128} {s : State} (hk : Keeps z s) :
    KeepsX z (Sys2Proof.Machine.execSwatchDone l s) := by
  dsimp only [Sys2Proof.Machine.execSwatchDone]
  repeat' first
    | with_reducible assumption
    | ((with_reducible apply Hub.sparesStay_of); intro _; rfl)
    | with_reducible apply Keeps.modHub
    | with_reducible apply Keeps.raise
    | with_reducible exact KeepsX.fault
    | with_reducible apply KeepsX.next
    | with_reducible refine KeepsO.out ?_ (by assumption)
    | with_reducible refine KeepsItem.out_done ?_ (by assumption)
    | with_reducible refine KeepsItem.out_stop ?_ (by assumption)
    | with_reducible refine KeepsItem.out_miss ?_ (by assumption)
    | with_reducible refine KeepsItem.out_wait ?_ (by assumption)
    | exact (rfl : (_ : List (Fin 132)) = _)
    | split

end Sys2Proof.Machine
end

