-- ==== Sys2Proof/Laws/KeepsStartup.lean ====
section
/-! SUPPORT. Keeps, for the operations of Machine/Startup.lean. -/
namespace Sys2Proof.Machine

theorem Keeps.execStackIdentityRead {z : State} {ms : Fin 12} {bits : Nat} {s : State} (hk : Keeps z s) :
    KeepsX z (Sys2Proof.Machine.execStackIdentityRead ms bits s) := by
  dsimp only [Sys2Proof.Machine.execStackIdentityRead]
  repeat' first
    | with_reducible assumption
    | with_reducible apply Keeps.modStation
    | with_reducible apply Keeps.raise
    | with_reducible apply Keeps.failStation
    | with_reducible exact KeepsX.fault
    | with_reducible apply KeepsX.next
    | with_reducible refine KeepsO.out ?_ (by assumption)
    | with_reducible refine KeepsItem.out_done ?_ (by assumption)
    | with_reducible refine KeepsItem.out_stop ?_ (by assumption)
    | with_reducible refine KeepsItem.out_miss ?_ (by assumption)
    | with_reducible refine KeepsItem.out_wait ?_ (by assumption)
    | exact (rfl : (_ : List (Fin 132)) = _)
    | split

theorem Keeps.setPort {z : State} {s : State} {u : UnitId} {own : Bool} {v : PortVer} (hk : Keeps z s) :
    Keeps z (State.setPort s u own v) := by
  dsimp only [State.setPort]
  repeat' first
    | with_reducible assumption
    | ((with_reducible apply Hub.sparesStay_of); intro _; rfl)
    | ((with_reducible apply Slice.staysDead_of); intro _; rfl)
    | with_reducible apply Keeps.modHub
    | with_reducible apply Keeps.modStation
    | with_reducible apply Keeps.modLink
    | with_reducible apply Keeps.modSlice
    | with_reducible refine KeepsItem.out_done ?_ (by assumption)
    | with_reducible refine KeepsItem.out_stop ?_ (by assumption)
    | with_reducible refine KeepsItem.out_miss ?_ (by assumption)
    | with_reducible refine KeepsItem.out_wait ?_ (by assumption)
    | exact (rfl : (_ : List (Fin 132)) = _)
    | split

theorem Keeps.execVersionSample {z : State} {u : UnitId} {own : Bool} {peer : BitVec 4} {s : State} (hk : Keeps z s) :
    KeepsX z (Sys2Proof.Machine.execVersionSample u own peer s) := by
  dsimp only [Sys2Proof.Machine.execVersionSample]
  repeat' first
    | with_reducible assumption
    | with_reducible apply Keeps.raise
    | with_reducible apply Keeps.cIssue
    | with_reducible apply Keeps.failUnit
    | with_reducible apply Keeps.setPort
    | with_reducible apply Keeps.each
    | with_reducible exact KeepsX.fault
    | with_reducible apply KeepsX.next
    | with_reducible refine KeepsO.out ?_ (by assumption)
    | with_reducible refine KeepsItem.out_done ?_ (by assumption)
    | with_reducible refine KeepsItem.out_stop ?_ (by assumption)
    | with_reducible refine KeepsItem.out_miss ?_ (by assumption)
    | with_reducible refine KeepsItem.out_wait ?_ (by assumption)
    | split
    | dsimp only
    | intro _

theorem Keeps.execOpRequestIdle {z : State} {s : State} (hk : Keeps z s) :
    KeepsX z (Sys2Proof.Machine.execOpRequestIdle s) := by
  dsimp only [Sys2Proof.Machine.execOpRequestIdle]
  repeat' first
    | with_reducible assumption
    | ((with_reducible apply Hub.sparesStay_of); intro _; rfl)
    | with_reducible apply Keeps.modHub
    | with_reducible apply Keeps.settleOpReq
    | with_reducible exact KeepsX.fault
    | with_reducible apply KeepsX.next
    | with_reducible refine KeepsO.out ?_ (by assumption)
    | with_reducible refine KeepsItem.out_done ?_ (by assumption)
    | with_reducible refine KeepsItem.out_stop ?_ (by assumption)
    | with_reducible refine KeepsItem.out_miss ?_ (by assumption)
    | with_reducible refine KeepsItem.out_wait ?_ (by assumption)
    | exact (rfl : (_ : List (Fin 132)) = _)
    | split

end Sys2Proof.Machine
end

