-- ==== Sys2Proof/Laws/KeepsTallyRows.lean ====
section
/-! SUPPORT. Keeps, for the operations of Machine/TallyRows.lean. -/
namespace Sys2Proof.Machine

theorem Keeps.spendTally {z : State} {s : State} {n : Nat} (hk : Keeps z s) :
    Keeps z (State.spendTally s n) := by
  dsimp only [State.spendTally]
  repeat' first
    | with_reducible assumption
    | with_reducible apply Keeps.spend
    | with_reducible refine KeepsItem.out_done ?_ (by assumption)
    | with_reducible refine KeepsItem.out_stop ?_ (by assumption)
    | with_reducible refine KeepsItem.out_miss ?_ (by assumption)
    | with_reducible refine KeepsItem.out_wait ?_ (by assumption)
    | split

end Sys2Proof.Machine
end

