-- ==== Sys2Proof/Laws/KeepsPowerRows.lean ====
section
/-! SUPPORT. Keeps, for the operations of Machine/PowerRows.lean. -/
namespace Sys2Proof.Machine

theorem Keeps.execIdleEntry {z : State} {sl : Fin 132} {s : State} (hk : Keeps z s) :
    KeepsX z (Sys2Proof.Machine.execIdleEntry sl s) := by
  unfold Sys2Proof.Machine.execIdleEntry
  dsimp only
  split
  · rename_i h
    refine KeepsX.next (Keeps.modSliceAlive hk ?_)
    simp only [Bool.and_eq_true, beq_iff_eq] at h
    have e : (s.slice sl).power = .active := by tauto
    unfold Slice.alive
    rw [e]
    rfl
  · exact KeepsX.next hk

theorem Keeps.execDormantEntry {z : State} {sl : Fin 132} {s : State} (hk : Keeps z s) :
    KeepsX z (Sys2Proof.Machine.execDormantEntry sl s) := by
  unfold Sys2Proof.Machine.execDormantEntry
  split
  · rename_i h
    refine KeepsX.next (Keeps.modSliceAlive hk ?_)
    simp only [State.unused, Bool.and_eq_true, beq_iff_eq] at h
    have e : (s.slice sl).power = .idle := by tauto
    unfold Slice.alive
    rw [e]
    rfl
  · exact KeepsX.next hk

theorem Keeps.execOffEntry {z : State} {sl : Fin 132} {s : State} (hk : Keeps z s) :
    KeepsX z (Sys2Proof.Machine.execOffEntry sl s) := by
  unfold Sys2Proof.Machine.execOffEntry
  dsimp only
  split
  · rename_i h
    refine KeepsX.next (Keeps.modSliceAlive hk ?_)
    simp only [Bool.and_eq_true, beq_iff_eq] at h
    have e : (s.slice sl).power = .dormant := by tauto
    unfold Slice.alive
    rw [e]
    rfl
  · exact KeepsX.next hk

theorem Keeps.execSliceWake {z : State} {sl : Fin 132} {cause : WakeCause} {s : State} (hk : Keeps z s) :
    KeepsX z (Sys2Proof.Machine.execSliceWake sl cause s) := by
  unfold Sys2Proof.Machine.execSliceWake
  dsimp only
  split
  · exact KeepsX.next (Keeps.modSlice hk (Slice.staysDead_of fun _ => rfl))
  · exact KeepsX.next hk

theorem Keeps.execWakeComplete {z : State} {sl : Fin 132} {s : State} (hk : Keeps z s) :
    KeepsX z (Sys2Proof.Machine.execWakeComplete sl s) := by
  unfold Sys2Proof.Machine.execWakeComplete
  dsimp only
  split
  · rename_i h
    exact KeepsX.next (Keeps.modSliceAlive hk (by simp only [Bool.and_eq_true] at h; exact h.2))
  · exact KeepsX.next hk

theorem Keeps.execPowerWindow {z : State} {s : State} (hk : Keeps z s) :
    KeepsX z (Sys2Proof.Machine.execPowerWindow s) := by
  unfold Sys2Proof.Machine.execPowerWindow
  split
  · exact KeepsX.next hk
  · exact KeepsX.next (hk.trans { (Keeps.refl s) with })

end Sys2Proof.Machine
end

