-- ==== Sys2Proof/Laws/KeepsStations.lean ====
section
/-! SUPPORT. Keeps, for the operations of Machine/Stations.lean. -/
namespace Sys2Proof.Machine

theorem Keeps.refusePeer {z : State} {s : State} {f : FetchRec} (hk : Keeps z s) :
    Keeps z (State.refusePeer s f) := by
  dsimp only [State.refusePeer]
  repeat' first
    | with_reducible assumption
    | with_reducible apply Keeps.answerAbsent
    | with_reducible refine KeepsItem.out_done ?_ (by assumption)
    | with_reducible refine KeepsItem.out_stop ?_ (by assumption)
    | with_reducible refine KeepsItem.out_miss ?_ (by assumption)
    | with_reducible refine KeepsItem.out_wait ?_ (by assumption)
    | split

theorem Keeps.queueAnswer {z : State} {l : Fin 16} {q : FrameHeader} {keyed : Bool} {fs : List (List TxRecord)} {s : State}
    (hk : Keeps z s) : Keeps z (s.queueAnswer l q keyed fs) := by
  induction fs generalizing s with
  | nil => exact hk
  | cons rs rest ih => exact ih (Keeps.queueFrame hk)

theorem Keeps.failFetch {z : State} {s : State} {u : UnitId} {f : FetchRec} {status cause : Nat} (hk : Keeps z s) :
    Keeps z (State.failFetch s u f status cause) := by
  dsimp only [State.failFetch]
  repeat' first
    | with_reducible assumption
    | with_reducible apply Keeps.report
    | with_reducible apply Keeps.refusePeer
    | with_reducible refine KeepsItem.out_done ?_ (by assumption)
    | with_reducible refine KeepsItem.out_stop ?_ (by assumption)
    | with_reducible refine KeepsItem.out_miss ?_ (by assumption)
    | with_reducible refine KeepsItem.out_wait ?_ (by assumption)
    | split

theorem Keeps.missFetch {z : State} {s : State} {u : UnitId} {f : FetchRec} {m : Miss} (hk : Keeps z s) :
    Keeps z (State.missFetch s u f m) := by
  dsimp only [State.missFetch]
  repeat' first
    | with_reducible assumption
    | with_reducible apply Keeps.report
    | with_reducible apply Keeps.refusePeer
    | with_reducible refine KeepsItem.out_done ?_ (by assumption)
    | with_reducible refine KeepsItem.out_stop ?_ (by assumption)
    | with_reducible refine KeepsItem.out_miss ?_ (by assumption)
    | with_reducible refine KeepsItem.out_wait ?_ (by assumption)
    | split

theorem Keeps.servePeer {z : State} {s : State} {f : FetchRec} (hk : Keeps z s) :
    Keeps z (State.servePeer s f) := by
  dsimp only [State.servePeer]
  repeat' first
    | with_reducible assumption
    | with_reducible apply Keeps.dropPeer
    | with_reducible apply Keeps.answerAbsent
    | with_reducible apply Keeps.queueAnswer
    | with_reducible refine KeepsItem.out_done ?_ (by assumption)
    | with_reducible refine KeepsItem.out_stop ?_ (by assumption)
    | with_reducible refine KeepsItem.out_miss ?_ (by assumption)
    | with_reducible refine KeepsItem.out_wait ?_ (by assumption)
    | split

theorem Keeps.forward {z : State} {s : State} {m : Fin 12} {id : Nat} (hk : Keeps z s) :
    Keeps z (State.forward s m id) := by
  dsimp only [State.forward]
  repeat' first
    | with_reducible assumption
    | with_reducible apply Keeps.modStation
    | with_reducible apply Keeps.post
    | with_reducible apply Keeps.endJob
    | with_reducible apply Keeps.servePeer
    | with_reducible refine KeepsItem.out_done ?_ (by assumption)
    | with_reducible refine KeepsItem.out_stop ?_ (by assumption)
    | with_reducible refine KeepsItem.out_miss ?_ (by assumption)
    | with_reducible refine KeepsItem.out_wait ?_ (by assumption)
    | exact (rfl : (_ : List (Fin 132)) = _)
    | split

theorem Keeps.readDone {z : State} {s : State} {m : Fin 12} {id : Nat} {t : SlotTile} (hk : Keeps z s) :
    Keeps z (State.readDone s m id t) := by
  dsimp only [State.readDone]
  repeat' first
    | with_reducible assumption
    | with_reducible apply Keeps.modJob
    | with_reducible apply Keeps.countTile
    | with_reducible apply Keeps.forward
    | with_reducible refine KeepsItem.out_done ?_ (by assumption)
    | with_reducible refine KeepsItem.out_stop ?_ (by assumption)
    | with_reducible refine KeepsItem.out_miss ?_ (by assumption)
    | with_reducible refine KeepsItem.out_wait ?_ (by assumption)
    | exact (rfl : (_ : List (Fin 132)) = _)
    | split

theorem Keeps.startRead {z : State} {s : State} {m : Fin 12} {f : FetchRec} {l : Leaf} {lay : Layout} (hk : Keeps z s) :
    Keeps z (State.startRead s m f l lay) := by
  dsimp only [State.startRead]
  repeat' first
    | with_reducible assumption
    | with_reducible apply Keeps.addRange
    | with_reducible apply Keeps.newJob

theorem Keeps.zeroTile {z : State} {s : State} {f : FetchRec} {legend : Bytes} {pageLegends : List Bytes} (hk : Keeps z s) :
    Keeps z (State.zeroTile s f legend pageLegends).1 := by
  dsimp only [State.zeroTile]
  repeat' first
    | with_reducible assumption
    | with_reducible apply Keeps.countIntegrity

theorem Keeps.legendCame {z : State} {s : State} {m : Fin 12} {id : Nat} {j : Job} {f : FetchRec} {l : Leaf} {known : Option Nat} (hk : Keeps z s) :
    Keeps z (State.legendCame s m id j f l known) := by
  dsimp only [State.legendCame]
  repeat' first
    | with_reducible assumption
    | with_reducible apply Keeps.countIntegrity
    | with_reducible apply Keeps.addRange
    | with_reducible apply Keeps.modJob
    | with_reducible apply Keeps.endJob
    | with_reducible apply Keeps.refusePeer
    | with_reducible apply Keeps.failFetch
    | with_reducible apply Keeps.readDone
    | with_reducible apply Keeps.zeroTile
    | with_reducible refine KeepsItem.out_done ?_ (by assumption)
    | with_reducible refine KeepsItem.out_stop ?_ (by assumption)
    | with_reducible refine KeepsItem.out_miss ?_ (by assumption)
    | with_reducible refine KeepsItem.out_wait ?_ (by assumption)
    | exact (rfl : (_ : List (Fin 132)) = _)
    | split

theorem Keeps.stitchCame {z : State} {s : State} {m : Fin 12} {id : Nat} {j : Job} {f : FetchRec} {l : Leaf} {known : Option Nat} {legends : Bytes} (hk : Keeps z s) :
    Keeps z (State.stitchCame s m id j f l known legends) := by
  dsimp only [State.stitchCame]
  repeat' first
    | with_reducible assumption
    | with_reducible apply Keeps.countIntegrity
    | with_reducible apply Keeps.endJob
    | with_reducible apply Keeps.readDone
    | with_reducible apply Keeps.zeroTile
    | with_reducible refine KeepsItem.out_done ?_ (by assumption)
    | with_reducible refine KeepsItem.out_stop ?_ (by assumption)
    | with_reducible refine KeepsItem.out_miss ?_ (by assumption)
    | with_reducible refine KeepsItem.out_wait ?_ (by assumption)
    | exact (rfl : (_ : List (Fin 132)) = _)
    | split

theorem Keeps.serveTile {z : State} {s : State} {m : Fin 12} {f : FetchRec} {l : Leaf} (hk : Keeps z s) :
    Keeps z (State.serveTile s m f l) := by
  dsimp only [State.serveTile]
  repeat' first
    | with_reducible assumption
    | with_reducible apply Keeps.newJob
    | with_reducible apply Keeps.refusePeer
    | with_reducible apply Keeps.failFetch
    | with_reducible apply Keeps.readDone
    | with_reducible apply Keeps.startRead
    | with_reducible refine KeepsItem.out_done ?_ (by assumption)
    | with_reducible refine KeepsItem.out_stop ?_ (by assumption)
    | with_reducible refine KeepsItem.out_miss ?_ (by assumption)
    | with_reducible refine KeepsItem.out_wait ?_ (by assumption)
    | split

theorem Keeps.servePeerNear {z : State} {s : State} {m : Fin 12} {f : FetchRec} {l : Leaf} (hk : Keeps z s) :
    Keeps z (State.servePeerNear s m f l) := by
  dsimp only [State.servePeerNear]
  repeat' first
    | with_reducible assumption
    | with_reducible apply Keeps.countIntegrity
    | with_reducible apply Keeps.newJob
    | with_reducible apply Keeps.refusePeer
    | with_reducible apply Keeps.readDone
    | with_reducible refine KeepsItem.out_done ?_ (by assumption)
    | with_reducible refine KeepsItem.out_stop ?_ (by assumption)
    | with_reducible refine KeepsItem.out_miss ?_ (by assumption)
    | with_reducible refine KeepsItem.out_wait ?_ (by assumption)
    | split

theorem Keeps.readPeer {z : State} {s : State} {m : Fin 12} {f : FetchRec} {l : Leaf} (hk : Keeps z s) :
    Keeps z (State.readPeer s m f l) := by
  dsimp only [State.readPeer]
  repeat' first
    | with_reducible assumption
    | with_reducible apply Keeps.modLink
    | with_reducible apply Keeps.queueFrame
    | with_reducible apply Keeps.failFetch
    | with_reducible apply Keeps.missFetch
    | with_reducible refine KeepsItem.out_done ?_ (by assumption)
    | with_reducible refine KeepsItem.out_stop ?_ (by assumption)
    | with_reducible refine KeepsItem.out_miss ?_ (by assumption)
    | with_reducible refine KeepsItem.out_wait ?_ (by assumption)
    | exact (rfl : (_ : List (Fin 132)) = _)
    | split

theorem Keeps.resolved {z : State} {s : State} {m : Fin 12} {f : FetchRec} {l : Leaf} (hk : Keeps z s) :
    Keeps z (State.resolved s m f l) := by
  dsimp only [State.resolved]
  repeat' first
    | with_reducible assumption
    | with_reducible apply Keeps.modStation
    | with_reducible apply Keeps.post
    | with_reducible apply Keeps.newJob
    | with_reducible apply Keeps.refusePeer
    | with_reducible apply Keeps.failFetch
    | with_reducible apply Keeps.readDone
    | with_reducible apply Keeps.serveTile
    | with_reducible apply Keeps.servePeerNear
    | with_reducible apply Keeps.readPeer
    | with_reducible refine KeepsItem.out_done ?_ (by assumption)
    | with_reducible refine KeepsItem.out_stop ?_ (by assumption)
    | with_reducible refine KeepsItem.out_miss ?_ (by assumption)
    | with_reducible refine KeepsItem.out_wait ?_ (by assumption)
    | exact (rfl : (_ : List (Fin 132)) = _)
    | split

theorem Keeps.walked {z : State} {s : State} {m : Fin 12} {f : FetchRec} (hk : Keeps z s) :
    Keeps z (State.walked s m f) := by
  dsimp only [State.walked]
  repeat' first
    | with_reducible assumption
    | with_reducible apply Keeps.failFetch
    | with_reducible apply Keeps.missFetch
    | with_reducible apply Keeps.resolved
    | with_reducible refine KeepsItem.out_done ?_ (by assumption)
    | with_reducible refine KeepsItem.out_stop ?_ (by assumption)
    | with_reducible refine KeepsItem.out_miss ?_ (by assumption)
    | with_reducible refine KeepsItem.out_wait ?_ (by assumption)
    | split

theorem Keeps.execFetch {z : State} {ms : Fin 12} {src : UnitId} {s : State} (hk : Keeps z s) :
    KeepsX z (Sys2Proof.Machine.execFetch ms src s) := by
  dsimp only [Sys2Proof.Machine.execFetch]
  repeat' first
    | with_reducible assumption
    | with_reducible apply Keeps.need
    | with_reducible apply Keeps.forgetLooks
    | with_reducible apply Keeps.serveTile
    | with_reducible apply Keeps.walked
    | with_reducible exact KeepsX.fault
    | with_reducible apply KeepsX.next
    | with_reducible refine Keeps.recvTxn ?_ (by assumption)
    | with_reducible refine KeepsO.out ?_ (by assumption)
    | with_reducible refine KeepsItem.out_done ?_ (by assumption)
    | with_reducible refine KeepsItem.out_stop ?_ (by assumption)
    | with_reducible refine KeepsItem.out_miss ?_ (by assumption)
    | with_reducible refine KeepsItem.out_wait ?_ (by assumption)
    | split

theorem Keeps.execGrant {z : State} {dst : UnitId} {src : Fin 132} {s : State} (hk : Keeps z s) :
    KeepsX z (Sys2Proof.Machine.execGrant dst src s) := by
  dsimp only [Sys2Proof.Machine.execGrant]
  repeat' first
    | with_reducible assumption
    | with_reducible apply Keeps.modStation
    | with_reducible apply Keeps.post
    | with_reducible apply Keeps.forward
    | with_reducible apply Keeps.each
    | with_reducible exact KeepsX.fault
    | with_reducible apply KeepsX.next
    | with_reducible refine Keeps.recvTxn ?_ (by assumption)
    | with_reducible refine KeepsO.out ?_ (by assumption)
    | with_reducible refine KeepsItem.out_done ?_ (by assumption)
    | with_reducible refine KeepsItem.out_stop ?_ (by assumption)
    | with_reducible refine KeepsItem.out_miss ?_ (by assumption)
    | with_reducible refine KeepsItem.out_wait ?_ (by assumption)
    | exact (rfl : (_ : List (Fin 132)) = _)
    | split
    | dsimp only
    | intro _

theorem Keeps.fillWrite {z : State} {s : State} {m : Fin 12} {q : MReq} (hk : Keeps z s) :
    Keeps z (State.fillWrite s m q) := by
  dsimp only [State.fillWrite]
  repeat' first
    | with_reducible assumption
    | with_reducible apply Keeps.modStation
    | with_reducible apply Keeps.newJob
    | with_reducible apply Keeps.modJob

theorem Keeps.filled {z : State} {s : State} {m : Fin 12} {id : Nat} {buf : Bytes} (hk : Keeps z s) :
    Keeps z (State.filled s m id buf) := by
  dsimp only [State.filled]
  repeat' first
    | with_reducible assumption
    | with_reducible apply Keeps.modStation

theorem Keeps.execMRequestIssue {z : State} {ms : Fin 12} {cls : ReqClass} {wr : Bool} {s : State} (hk : Keeps z s) :
    KeepsX z (Sys2Proof.Machine.execMRequestIssue ms cls wr s) := by
  dsimp only [Sys2Proof.Machine.execMRequestIssue]
  repeat' first
    | with_reducible assumption
    | with_reducible apply Keeps.modStation
    | with_reducible apply Keeps.mSent
    | with_reducible apply Keeps.fillWrite
    | with_reducible exact KeepsX.fault
    | with_reducible apply KeepsX.next
    | with_reducible refine KeepsO.out ?_ (by assumption)
    | with_reducible refine KeepsItem.out_done ?_ (by assumption)
    | with_reducible refine KeepsItem.out_stop ?_ (by assumption)
    | with_reducible refine KeepsItem.out_miss ?_ (by assumption)
    | with_reducible refine KeepsItem.out_wait ?_ (by assumption)
    | split

theorem Keeps.execMergeCloseTimeout {z : State} {ms : Fin 12} {cls : ReqClass} {wr : Bool} {s : State} (hk : Keeps z s) :
    KeepsX z (Sys2Proof.Machine.execMergeCloseTimeout ms cls wr s) := by
  dsimp only [Sys2Proof.Machine.execMergeCloseTimeout]
  repeat' first
    | with_reducible assumption
    | with_reducible apply Keeps.modStation
    | with_reducible exact KeepsX.fault
    | with_reducible apply KeepsX.next
    | with_reducible refine KeepsO.out ?_ (by assumption)
    | with_reducible refine KeepsItem.out_done ?_ (by assumption)
    | with_reducible refine KeepsItem.out_stop ?_ (by assumption)
    | with_reducible refine KeepsItem.out_miss ?_ (by assumption)
    | with_reducible refine KeepsItem.out_wait ?_ (by assumption)
    | split

theorem Keeps.learnM {z : State} {s : State} {m : Fin 12} {a : Nat} {bs : Bytes} {bad : List Nat} (hk : Keeps z s) :
    Keeps z (State.learnM s m a bs bad) := by
  dsimp only [State.learnM]
  repeat' first
    | with_reducible assumption
    | with_reducible apply Keeps.learnStack
    | with_reducible apply Keeps.each
    | with_reducible refine KeepsItem.out_done ?_ (by assumption)
    | with_reducible refine KeepsItem.out_stop ?_ (by assumption)
    | with_reducible refine KeepsItem.out_miss ?_ (by assumption)
    | with_reducible refine KeepsItem.out_wait ?_ (by assumption)
    | split
    | dsimp only
    | intro _

theorem Keeps.jobStep {z : State} {s : State} {m : Fin 12} {id : Nat} (hk : Keeps z s) :
    Keeps z (State.jobStep s m id) := by
  dsimp only [State.jobStep]
  repeat' first
    | with_reducible assumption
    | with_reducible apply Keeps.post
    | with_reducible apply Keeps.modJob
    | with_reducible apply Keeps.endJob
    | with_reducible apply Keeps.stackCame
    | with_reducible apply Keeps.legendCame
    | with_reducible apply Keeps.stitchCame
    | with_reducible apply Keeps.filled
    | with_reducible refine KeepsItem.out_done ?_ (by assumption)
    | with_reducible refine KeepsItem.out_stop ?_ (by assumption)
    | with_reducible refine KeepsItem.out_miss ?_ (by assumption)
    | with_reducible refine KeepsItem.out_wait ?_ (by assumption)
    | exact (rfl : (_ : List (Fin 132)) = _)
    | split

theorem Keeps.rangesDone {z : State} {s : State} {m : Fin 12} {q : MReq} {data : Bytes} {bad : List Nat} (hk : Keeps z s) :
    Keeps z (State.rangesDone s m q data bad) := by
  dsimp only [State.rangesDone]
  repeat' first
    | with_reducible assumption
    | with_reducible apply Keeps.modJob
    | with_reducible apply Keeps.jobStep
    | with_reducible apply Keeps.each
    | with_reducible refine KeepsItem.out_done ?_ (by assumption)
    | with_reducible refine KeepsItem.out_stop ?_ (by assumption)
    | with_reducible refine KeepsItem.out_miss ?_ (by assumption)
    | with_reducible refine KeepsItem.out_wait ?_ (by assumption)
    | exact (rfl : (_ : List (Fin 132)) = _)
    | split
    | dsimp only
    | intro _

theorem Keeps.execMReadBeat {z : State} {ms : Fin 12} {id : BitVec 9} {data : Bytes} {last : Bool} {err : BitVec 16} {s : State} (hk : Keeps z s) :
    KeepsX z (Sys2Proof.Machine.execMReadBeat ms id data last err s) := by
  dsimp only [Sys2Proof.Machine.execMReadBeat]
  repeat' first
    | with_reducible assumption
    | with_reducible apply Keeps.modStation
    | with_reducible apply Keeps.spend
    | with_reducible apply Keeps.wake
    | with_reducible apply Keeps.learnM
    | with_reducible apply Keeps.rangesDone
    | with_reducible exact KeepsX.fault
    | with_reducible apply KeepsX.next
    | with_reducible refine KeepsO.out ?_ (by assumption)
    | with_reducible refine KeepsItem.out_done ?_ (by assumption)
    | with_reducible refine KeepsItem.out_stop ?_ (by assumption)
    | with_reducible refine KeepsItem.out_miss ?_ (by assumption)
    | with_reducible refine KeepsItem.out_wait ?_ (by assumption)
    | exact (rfl : (_ : List (Fin 132)) = _)
    | split

theorem Keeps.execMWriteAck {z : State} {ms : Fin 12} {id : BitVec 9} {s : State} (hk : Keeps z s) :
    KeepsX z (Sys2Proof.Machine.execMWriteAck ms id s) := by
  dsimp only [Sys2Proof.Machine.execMWriteAck]
  repeat' first
    | with_reducible assumption
    | with_reducible apply Keeps.modStation
    | with_reducible apply Keeps.jobStep
    | with_reducible apply Keeps.each
    | with_reducible exact KeepsX.fault
    | with_reducible apply KeepsX.next
    | with_reducible refine KeepsO.out ?_ (by assumption)
    | with_reducible refine KeepsItem.out_done ?_ (by assumption)
    | with_reducible refine KeepsItem.out_stop ?_ (by assumption)
    | with_reducible refine KeepsItem.out_miss ?_ (by assumption)
    | with_reducible refine KeepsItem.out_wait ?_ (by assumption)
    | exact (rfl : (_ : List (Fin 132)) = _)
    | split
    | dsimp only
    | intro _

end Sys2Proof.Machine
end

