-- ==== Sys2Proof/Laws/KeepsWrites.lean ====
section
/-! SUPPORT. Keeps, for the operations of Machine/Writes.lean. -/
namespace Sys2Proof.Machine

theorem Keeps.failWrite {z : State} {s : State} {m : Fin 12} {w : WriteRec} {status cause : Nat} (hk : Keeps z s) :
    Keeps z (State.failWrite s m w status cause) := by
  dsimp only [State.failWrite]
  repeat' first
    | with_reducible assumption
    | with_reducible apply Keeps.lose

theorem Keeps.missWrite {z : State} {s : State} {m : Fin 12} {w : WriteRec} {kind station level : Nat} (hk : Keeps z s) :
    Keeps z (State.missWrite s m w kind station level) := by
  dsimp only [State.missWrite]
  repeat' first
    | with_reducible assumption
    | with_reducible apply Keeps.report

theorem Keeps.ackWrite {z : State} {s : State} {m : Fin 12} {w : WriteRec} (hk : Keeps z s) :
    Keeps z (State.ackWrite s m w) := by
  dsimp only [State.ackWrite]
  repeat' first
    | with_reducible assumption
    | with_reducible apply Keeps.post

theorem Keeps.storeWrite {z : State} {s : State} {m : Fin 12} {w : WriteRec} {l : Leaf} {lay : Layout} {version : Nat} (hk : Keeps z s) :
    Keeps z (State.storeWrite s m w l lay version) := by
  dsimp only [State.storeWrite]
  repeat' first
    | with_reducible assumption
    | with_reducible apply Keeps.writeStack
    | with_reducible apply Keeps.spendAes
    | with_reducible apply Keeps.addRange
    | with_reducible apply Keeps.newJob
    | with_reducible refine KeepsItem.out_done ?_ (by assumption)
    | with_reducible refine KeepsItem.out_stop ?_ (by assumption)
    | with_reducible refine KeepsItem.out_miss ?_ (by assumption)
    | with_reducible refine KeepsItem.out_wait ?_ (by assumption)
    | split

theorem Keeps.storeFollower {z : State} {s : State} {m : Fin 12} {w : WriteRec} {l : Leaf} {version : Nat} (hk : Keeps z s) :
    Keeps z (State.storeFollower s m w l version) := by
  dsimp only [State.storeFollower]
  repeat' first
    | with_reducible assumption
    | with_reducible apply Keeps.writeStack
    | with_reducible apply Keeps.addRange
    | with_reducible apply Keeps.newJob

theorem Keeps.acceptWrite {z : State} {s : State} {m : Fin 12} {w : WriteRec} {l : Leaf} {lay : Layout} (hk : Keeps z s) :
    Keeps z (State.acceptWrite s m w l lay) := by
  dsimp only [State.acceptWrite]
  repeat' first
    | with_reducible assumption
    | ((with_reducible apply Hub.sparesStay_of); intro _; rfl)
    | with_reducible apply Keeps.modHub
    | with_reducible apply Keeps.tallyAdd
    | with_reducible apply Keeps.putNear
    | with_reducible apply Keeps.closeSession
    | with_reducible apply Keeps.openSession
    | with_reducible apply Keeps.markWritten
    | with_reducible apply Keeps.failWrite
    | with_reducible apply Keeps.storeWrite
    | with_reducible apply Keeps.storeFollower
    | with_reducible refine KeepsItem.out_done ?_ (by assumption)
    | with_reducible refine KeepsItem.out_stop ?_ (by assumption)
    | with_reducible refine KeepsItem.out_miss ?_ (by assumption)
    | with_reducible refine KeepsItem.out_wait ?_ (by assumption)
    | exact (rfl : (_ : List (Fin 132)) = _)
    | split

theorem Keeps.holdWrite {z : State} {s : State} {m : Fin 12} {w : WriteRec} (hk : Keeps z s) :
    Keeps z (State.holdWrite s m w) := by
  dsimp only [State.holdWrite]
  repeat' first
    | with_reducible assumption
    | with_reducible apply Keeps.modStation

theorem Keeps.routeWrite {z : State} {s : State} {m : Fin 12} {w : WriteRec} {l : Leaf} {node addr : Nat} (hk : Keeps z s) :
    Keeps z (State.routeWrite s m w l node addr) := by
  dsimp only [State.routeWrite]
  repeat' first
    | with_reducible assumption
    | with_reducible apply Keeps.post
    | with_reducible apply Keeps.placePage
    | with_reducible apply Keeps.failWrite
    | with_reducible apply Keeps.missWrite
    | with_reducible apply Keeps.acceptWrite
    | with_reducible apply Keeps.holdWrite
    | with_reducible refine KeepsItem.out_done ?_ (by assumption)
    | with_reducible refine KeepsItem.out_stop ?_ (by assumption)
    | with_reducible refine KeepsItem.out_miss ?_ (by assumption)
    | with_reducible refine KeepsItem.out_wait ?_ (by assumption)
    | exact (rfl : (_ : List (Fin 132)) = _)
    | split

theorem Keeps.homeWrite {z : State} {s : State} {m : Fin 12} {w : WriteRec} (hk : Keeps z s) :
    Keeps z (State.homeWrite s m w) := by
  dsimp only [State.homeWrite]
  repeat' first
    | with_reducible assumption
    | with_reducible apply Keeps.failWrite
    | with_reducible apply Keeps.missWrite
    | with_reducible apply Keeps.holdWrite
    | with_reducible apply Keeps.routeWrite
    | with_reducible refine KeepsItem.out_done ?_ (by assumption)
    | with_reducible refine KeepsItem.out_stop ?_ (by assumption)
    | with_reducible refine KeepsItem.out_miss ?_ (by assumption)
    | with_reducible refine KeepsItem.out_wait ?_ (by assumption)
    | split

theorem Keeps.execWrite {z : State} {ms : Fin 12} {src : UnitId} {s : State} (hk : Keeps z s) :
    KeepsX z (Sys2Proof.Machine.execWrite ms src s) := by
  dsimp only [Sys2Proof.Machine.execWrite]
  repeat' first
    | with_reducible assumption
    | with_reducible apply Keeps.need
    | with_reducible apply Keeps.wakeItems
    | with_reducible apply Keeps.failWrite
    | with_reducible apply Keeps.acceptWrite
    | with_reducible apply Keeps.homeWrite
    | with_reducible exact KeepsX.fault
    | with_reducible apply KeepsX.next
    | with_reducible refine Keeps.recvTxn ?_ (by assumption)
    | with_reducible refine KeepsO.out ?_ (by assumption)
    | with_reducible refine KeepsItem.out_done ?_ (by assumption)
    | with_reducible refine KeepsItem.out_stop ?_ (by assumption)
    | with_reducible refine KeepsItem.out_miss ?_ (by assumption)
    | with_reducible refine KeepsItem.out_wait ?_ (by assumption)
    | split

theorem Keeps.releaseHeld {z : State} {s : State} {m : Fin 12} {c : Fin 64} {p : Nat} (hk : Keeps z s) :
    Keeps z (State.releaseHeld s m c p) := by
  dsimp only [State.releaseHeld]
  repeat' first
    | with_reducible assumption
    | with_reducible apply Keeps.modStation
    | with_reducible refine KeepsItem.out_done ?_ (by assumption)
    | with_reducible refine KeepsItem.out_stop ?_ (by assumption)
    | with_reducible refine KeepsItem.out_miss ?_ (by assumption)
    | with_reducible refine KeepsItem.out_wait ?_ (by assumption)
    | exact (rfl : (_ : List (Fin 132)) = _)
    | split
    | dsimp only
    | intro _
    | fail_if_no_progress with_reducible apply Keeps.fields

theorem Keeps.dropHeld {z : State} {s : State} {m : Fin 12} {c : Fin 64} {p : Nat} (hk : Keeps z s) :
    Keeps z (State.dropHeld s m c p).1 := by
  dsimp only [State.dropHeld]
  repeat' first
    | with_reducible assumption
    | with_reducible apply Keeps.modStation

theorem Keeps.execCopyOnWriteDone {z : State} {ms : Fin 12} {s : State} (hk : Keeps z s) :
    KeepsX z (Sys2Proof.Machine.execCopyOnWriteDone ms s) := by
  dsimp only [Sys2Proof.Machine.execCopyOnWriteDone]
  repeat' first
    | with_reducible assumption
    | with_reducible apply Keeps.need
    | with_reducible apply Keeps.promote
    | with_reducible apply Keeps.copyOnWrite
    | with_reducible apply Keeps.wakeItems
    | with_reducible apply Keeps.failWrite
    | with_reducible apply Keeps.missWrite
    | with_reducible apply Keeps.releaseHeld
    | with_reducible apply Keeps.dropHeld
    | with_reducible apply Keeps.each
    | with_reducible exact KeepsX.fault
    | with_reducible apply KeepsX.next
    | with_reducible refine KeepsO.out ?_ (by assumption)
    | with_reducible refine KeepsItem.out_done ?_ (by assumption)
    | with_reducible refine KeepsItem.out_stop ?_ (by assumption)
    | with_reducible refine KeepsItem.out_miss ?_ (by assumption)
    | with_reducible refine KeepsItem.out_wait ?_ (by assumption)
    | split
    | dsimp only
    | intro _

end Sys2Proof.Machine
end

