-- ==== Sys2Proof/Laws/KeepsNear.lean ====
section
/-! SUPPORT. Keeps, for the operations of Machine/Near.lean. -/
namespace Sys2Proof.Machine

theorem Keeps.fillSlot {z : State} {s : State} {n : Fin 132} {slot : Nat} {r : Role} {pos : Nat} {t : SlotTile} (hk : Keeps z s) :
    Keeps z (State.fillSlot s n slot r pos t) := by
  dsimp only [State.fillSlot]
  repeat' first
    | with_reducible assumption
    | with_reducible apply Keeps.modShare

theorem Keeps.fillNear {z : State} {s : State} {n : Fin 132} {f : FetchRec} {l : Leaf} {fmt : StreamFmt} (hk : Keeps z s) :
    Keeps z (State.fillNear s n f l fmt) := by
  dsimp only [State.fillNear]
  repeat' first
    | with_reducible assumption
    | with_reducible apply Keeps.countIntegrity
    | with_reducible apply Keeps.fillSlot
    | with_reducible refine KeepsItem.out_done ?_ (by assumption)
    | with_reducible refine KeepsItem.out_stop ?_ (by assumption)
    | with_reducible refine KeepsItem.out_miss ?_ (by assumption)
    | with_reducible refine KeepsItem.out_wait ?_ (by assumption)
    | split

theorem Keeps.nearLegend {z : State} {s : State} {n : Fin 132} {f : FetchRec} {l : Leaf} {fmt : StreamFmt} (hk : Keeps z s) :
    Keeps z (State.nearLegend s n f l fmt) := by
  dsimp only [State.nearLegend]
  repeat' first
    | with_reducible assumption
    | with_reducible apply Keeps.nRange
    | with_reducible apply Keeps.fillNear
    | with_reducible refine KeepsItem.out_done ?_ (by assumption)
    | with_reducible refine KeepsItem.out_stop ?_ (by assumption)
    | with_reducible refine KeepsItem.out_miss ?_ (by assumption)
    | with_reducible refine KeepsItem.out_wait ?_ (by assumption)
    | split

theorem Keeps.startNear {z : State} {s : State} {n : Fin 132} {f : FetchRec} {l : Leaf} {fmt : StreamFmt} (hk : Keeps z s) :
    Keeps z (State.startNear s n f l fmt) := by
  dsimp only [State.startNear]
  repeat' first
    | with_reducible assumption
    | with_reducible apply Keeps.nRange
    | with_reducible apply Keeps.failFetch
    | with_reducible apply Keeps.fillSlot
    | with_reducible refine KeepsItem.out_done ?_ (by assumption)
    | with_reducible refine KeepsItem.out_stop ?_ (by assumption)
    | with_reducible refine KeepsItem.out_miss ?_ (by assumption)
    | with_reducible refine KeepsItem.out_wait ?_ (by assumption)
    | split

theorem Keeps.writeNearTile {z : State} {s : State} {n : Fin 132} {f : FetchRec} {l : Leaf} (hk : Keeps z s) :
    Keeps z (State.writeNearTile s n f l) := by
  dsimp only [State.writeNearTile]
  repeat' first
    | with_reducible assumption
    | with_reducible apply Keeps.nRange
    | with_reducible refine KeepsItem.out_done ?_ (by assumption)
    | with_reducible refine KeepsItem.out_stop ?_ (by assumption)
    | with_reducible refine KeepsItem.out_miss ?_ (by assumption)
    | with_reducible refine KeepsItem.out_wait ?_ (by assumption)
    | split

theorem Keeps.execXlate {z : State} {sl : Fin 132} {src : Fin 12} {s : State} (hk : Keeps z s) :
    KeepsX z (Sys2Proof.Machine.execXlate sl src s) := by
  dsimp only [Sys2Proof.Machine.execXlate]
  repeat' first
    | with_reducible assumption
    | with_reducible apply Keeps.startNear
    | with_reducible apply Keeps.writeNearTile
    | with_reducible exact KeepsX.fault
    | with_reducible apply KeepsX.next
    | with_reducible refine Keeps.recvTxn ?_ (by assumption)
    | with_reducible refine KeepsO.out ?_ (by assumption)
    | with_reducible refine KeepsItem.out_done ?_ (by assumption)
    | with_reducible refine KeepsItem.out_stop ?_ (by assumption)
    | with_reducible refine KeepsItem.out_miss ?_ (by assumption)
    | with_reducible refine KeepsItem.out_wait ?_ (by assumption)
    | split

theorem Keeps.ndata {z : State} {s : State} {n : Fin 132} {u : UnitId} {step addr len : Nat} (hk : Keeps z s) :
    Keeps z (State.ndata s n u step addr len) := by
  dsimp only [State.ndata]
  repeat' first
    | with_reducible assumption
    | with_reducible apply Keeps.post

theorem Keeps.gazRead {z : State} {s : State} {n : Fin 132} {ph : GazPhase} {src : UnitId} {c : Fin 64} {q : SummaryRec} {slot i : Nat} (hk : Keeps z s) :
    Keeps z (State.gazRead s n ph src c q slot i) := by
  dsimp only [State.gazRead]
  repeat' first
    | with_reducible assumption
    | with_reducible apply Keeps.raise
    | with_reducible apply Keeps.countIntegrity
    | with_reducible apply Keeps.nRange
    | with_reducible refine KeepsItem.out_done ?_ (by assumption)
    | with_reducible refine KeepsItem.out_stop ?_ (by assumption)
    | with_reducible refine KeepsItem.out_miss ?_ (by assumption)
    | with_reducible refine KeepsItem.out_wait ?_ (by assumption)
    | split

theorem Keeps.nReadDone {z : State} {s : State} {n : Fin 132} {p : NPurpose} (hk : Keeps z s) :
    Keeps z (State.nReadDone s n p) := by
  dsimp only [State.nReadDone]
  repeat' first
    | with_reducible assumption
    | with_reducible apply Keeps.fillNear
    | with_reducible apply Keeps.nearLegend
    | with_reducible apply Keeps.ndata
    | with_reducible apply Keeps.gazRead
    | with_reducible refine KeepsItem.out_done ?_ (by assumption)
    | with_reducible refine KeepsItem.out_stop ?_ (by assumption)
    | with_reducible refine KeepsItem.out_miss ?_ (by assumption)
    | with_reducible refine KeepsItem.out_wait ?_ (by assumption)
    | split

theorem Keeps.nWriteDone {z : State} {s : State} {n : Fin 132} {p : NPurpose} (hk : Keeps z s) :
    Keeps z (State.nWriteDone s n p) := by
  dsimp only [State.nWriteDone]
  repeat' first
    | with_reducible assumption
    | with_reducible apply Keeps.post
    | with_reducible apply Keeps.naccWrite
    | with_reducible apply Keeps.ackOut
    | with_reducible refine KeepsItem.out_done ?_ (by assumption)
    | with_reducible refine KeepsItem.out_stop ?_ (by assumption)
    | with_reducible refine KeepsItem.out_miss ?_ (by assumption)
    | with_reducible refine KeepsItem.out_wait ?_ (by assumption)
    | split

theorem Keeps.execNReadBeat {z : State} {sl : Fin 132} {id : BitVec 8} {data : Bytes} {last : Bool} {err : BitVec 8} {s : State} (hk : Keeps z s) :
    KeepsX z (Sys2Proof.Machine.execNReadBeat sl id data last err s) := by
  dsimp only [Sys2Proof.Machine.execNReadBeat]
  repeat' first
    | with_reducible assumption
    | ((with_reducible apply Slice.staysDead_of); intro _; rfl)
    | with_reducible apply Keeps.modSlice
    | with_reducible apply Keeps.spend
    | with_reducible apply Keeps.nRetire
    | with_reducible apply Keeps.learnRead
    | with_reducible apply Keeps.nReadDone
    | with_reducible exact KeepsX.fault
    | with_reducible apply KeepsX.next
    | with_reducible refine KeepsO.out ?_ (by assumption)
    | with_reducible refine KeepsItem.out_done ?_ (by assumption)
    | with_reducible refine KeepsItem.out_stop ?_ (by assumption)
    | with_reducible refine KeepsItem.out_miss ?_ (by assumption)
    | with_reducible refine KeepsItem.out_wait ?_ (by assumption)
    | exact (rfl : (_ : List (Fin 132)) = _)
    | split

theorem Keeps.execNWriteAck {z : State} {sl : Fin 132} {id : BitVec 8} {s : State} (hk : Keeps z s) :
    KeepsX z (Sys2Proof.Machine.execNWriteAck sl id s) := by
  dsimp only [Sys2Proof.Machine.execNWriteAck]
  repeat' first
    | with_reducible assumption
    | with_reducible apply Keeps.nRetire
    | with_reducible apply Keeps.nWriteDone
    | with_reducible exact KeepsX.fault
    | with_reducible apply KeepsX.next
    | with_reducible refine KeepsO.out ?_ (by assumption)
    | with_reducible refine KeepsItem.out_done ?_ (by assumption)
    | with_reducible refine KeepsItem.out_stop ?_ (by assumption)
    | with_reducible refine KeepsItem.out_miss ?_ (by assumption)
    | with_reducible refine KeepsItem.out_wait ?_ (by assumption)
    | split

theorem Keeps.execNacc {z : State} {sl : Fin 132} {src : UnitId} {s : State} (hk : Keeps z s) :
    KeepsX z (Sys2Proof.Machine.execNacc sl src s) := by
  dsimp only [Sys2Proof.Machine.execNacc]
  repeat' first
    | with_reducible assumption
    | with_reducible apply Keeps.nPieces
    | with_reducible apply Keeps.naccWrite
    | with_reducible exact KeepsX.fault
    | with_reducible apply KeepsX.next
    | with_reducible refine Keeps.recvTxn ?_ (by assumption)
    | with_reducible refine KeepsO.out ?_ (by assumption)
    | with_reducible refine KeepsItem.out_done ?_ (by assumption)
    | with_reducible refine KeepsItem.out_stop ?_ (by assumption)
    | with_reducible refine KeepsItem.out_miss ?_ (by assumption)
    | with_reducible refine KeepsItem.out_wait ?_ (by assumption)
    | split

theorem Keeps.cReadDone {z : State} {s : State} {p : NPurpose} (hk : Keeps z s) :
    Keeps z (State.cReadDone s p) := by
  dsimp only [State.cReadDone]
  repeat' first
    | with_reducible assumption
    | with_reducible apply Keeps.modCtx
    | with_reducible apply Keeps.modStep
    | with_reducible apply Keeps.burstCame
    | with_reducible apply Keeps.wakeItems
    | with_reducible apply Keeps.writeReleases
    | with_reducible refine KeepsItem.out_done ?_ (by assumption)
    | with_reducible refine KeepsItem.out_stop ?_ (by assumption)
    | with_reducible refine KeepsItem.out_miss ?_ (by assumption)
    | with_reducible refine KeepsItem.out_wait ?_ (by assumption)
    | exact (rfl : (_ : List (Fin 132)) = _)
    | split

theorem Keeps.execCReadBeat {z : State} {id : BitVec 6} {data : Bytes} {last : Bool} {err : BitVec 2} {s : State} (hk : Keeps z s) :
    KeepsX z (Sys2Proof.Machine.execCReadBeat id data last err s) := by
  dsimp only [Sys2Proof.Machine.execCReadBeat]
  repeat' first
    | with_reducible assumption
    | ((with_reducible apply Hub.sparesStay_of); intro _; rfl)
    | with_reducible apply Keeps.modHub
    | with_reducible apply Keeps.spend
    | with_reducible apply Keeps.cRetire
    | with_reducible apply Keeps.learnRead
    | with_reducible apply Keeps.cReadDone
    | with_reducible exact KeepsX.fault
    | with_reducible apply KeepsX.next
    | with_reducible refine KeepsO.out ?_ (by assumption)
    | with_reducible refine KeepsItem.out_done ?_ (by assumption)
    | with_reducible refine KeepsItem.out_stop ?_ (by assumption)
    | with_reducible refine KeepsItem.out_miss ?_ (by assumption)
    | with_reducible refine KeepsItem.out_wait ?_ (by assumption)
    | exact (rfl : (_ : List (Fin 132)) = _)
    | split

theorem Keeps.execCWriteAck {z : State} {id : BitVec 6} {s : State} (hk : Keeps z s) :
    KeepsX z (Sys2Proof.Machine.execCWriteAck id s) := by
  dsimp only [Sys2Proof.Machine.execCWriteAck]
  repeat' first
    | with_reducible assumption
    | ((with_reducible apply Hub.sparesStay_of); intro _; rfl)
    | with_reducible apply Keeps.modHub
    | with_reducible apply Keeps.modStep
    | with_reducible apply Keeps.cRetire
    | with_reducible exact KeepsX.fault
    | with_reducible apply KeepsX.next
    | with_reducible refine KeepsO.out ?_ (by assumption)
    | with_reducible refine KeepsItem.out_done ?_ (by assumption)
    | with_reducible refine KeepsItem.out_stop ?_ (by assumption)
    | with_reducible refine KeepsItem.out_miss ?_ (by assumption)
    | with_reducible refine KeepsItem.out_wait ?_ (by assumption)
    | exact (rfl : (_ : List (Fin 132)) = _)
    | split

end Sys2Proof.Machine
end

