-- ==== Sys2Proof/Laws/KeepsMoves.lean ====
section
/-! SUPPORT. Keeps, for the operations of Machine/Moves.lean. -/
namespace Sys2Proof.Machine

theorem Keeps.place {z : State} {s : State} {slot : Nat} {r : Role} {i off stop : Nat} (hk : Keeps z s) :
    Keeps z (State.place s slot r i off stop) := by
  dsimp only [State.place]
  repeat' first
    | with_reducible assumption
    | with_reducible apply Keeps.modStep

theorem Keeps.putMoved {z : State} {s : State} {n : Fin 132} {slot i : Nat} {o : OutTile} {at_ : Option (Nat × Nat)} {block : Option (Nat × Bytes)} {found : Nat} (hk : Keeps z s) :
    Keeps z (State.putMoved s n slot i o at_ block found) := by
  dsimp only [State.putMoved]
  repeat' first
    | with_reducible assumption
    | with_reducible apply Keeps.countIntegrity
    | with_reducible apply Keeps.modShare
    | with_reducible apply Keeps.emit
    | with_reducible apply Keeps.place
    | with_reducible refine KeepsItem.out_done ?_ (by assumption)
    | with_reducible refine KeepsItem.out_stop ?_ (by assumption)
    | with_reducible refine KeepsItem.out_miss ?_ (by assumption)
    | with_reducible refine KeepsItem.out_wait ?_ (by assumption)
    | exact (rfl : (_ : List (Fin 132)) = _)
    | split

theorem Keeps.recvStep {z : State} {s : State} {n : Fin 132} {slot : Nat} (hk : Keeps z s) :
    KeepsO z (State.recvStep s n slot) := by
  dsimp only [State.recvStep]
  repeat' first
    | with_reducible assumption
    | with_reducible apply Keeps.post
    | with_reducible apply Keeps.modShare
    | with_reducible apply Keeps.settleShare
    | with_reducible apply Keeps.progress
    | with_reducible apply Keeps.stopHere
    | with_reducible apply Keeps.askNew
    | with_reducible apply Keeps.settleShares
    | with_reducible apply Keeps.putMoved
    | with_reducible exact KeepsO.none
    | with_reducible apply KeepsO.some
    | with_reducible apply KeepsO.map
    | with_reducible refine KeepsO.out ?_ (by assumption)
    | with_reducible refine KeepsItem.out_done ?_ (by assumption)
    | with_reducible refine KeepsItem.out_stop ?_ (by assumption)
    | with_reducible refine KeepsItem.out_miss ?_ (by assumption)
    | with_reducible refine KeepsItem.out_wait ?_ (by assumption)
    | exact (rfl : (_ : List (Fin 132)) = _)
    | split

theorem Keeps.recvPass {z : State} {slot : Nat} {ns : List (Fin 132)} {k : Nat} {s : State} (hk : Keeps z s) :
    Keeps z (State.recvPass s slot ns k) := by
  induction k generalizing s with
  | zero => exact hk
  | succ k ih =>
    unfold State.recvPass
    split
    · rename_i e
      exact ih (KeepsO.findSome (fun n => hk.recvStep) _ e)
    · exact hk

theorem Keeps.drainRecv {z : State} {s : State} {slot : Nat} (hk : Keeps z s) :
    Keeps z (State.drainRecv s slot) := by
  dsimp only [State.drainRecv]
  repeat' first
    | with_reducible assumption
    | with_reducible apply Keeps.recvPass
    | with_reducible refine KeepsItem.out_done ?_ (by assumption)
    | with_reducible refine KeepsItem.out_stop ?_ (by assumption)
    | with_reducible refine KeepsItem.out_miss ?_ (by assumption)
    | with_reducible refine KeepsItem.out_wait ?_ (by assumption)
    | split

theorem Keeps.takeRecv {z : State} {s : State} {n : Fin 132} {l : Fin 16} {slot i : Nat} {t : SlotTile} (hk : Keeps z s) :
    Keeps z (State.takeRecv s n l slot i t) := by
  dsimp only [State.takeRecv]
  repeat' first
    | with_reducible assumption
    | with_reducible apply Keeps.modShare
    | with_reducible apply Keeps.drainRecv
    | with_reducible refine KeepsItem.out_done ?_ (by assumption)
    | with_reducible refine KeepsItem.out_stop ?_ (by assumption)
    | with_reducible refine KeepsItem.out_miss ?_ (by assumption)
    | with_reducible refine KeepsItem.out_wait ?_ (by assumption)
    | exact (rfl : (_ : List (Fin 132)) = _)
    | split

theorem Keeps.execStitch {z : State} {sl : Fin 132} {src : UnitId} {s : State} (hk : Keeps z s) :
    KeepsX z (Sys2Proof.Machine.execStitch sl src s) := by
  dsimp only [Sys2Proof.Machine.execStitch]
  repeat' first
    | with_reducible assumption
    | with_reducible apply Keeps.fillSlot
    | with_reducible apply Keeps.takeRecv
    | with_reducible exact KeepsX.fault
    | with_reducible apply KeepsX.next
    | with_reducible refine Keeps.recvTxn ?_ (by assumption)
    | with_reducible refine KeepsO.out ?_ (by assumption)
    | with_reducible refine KeepsItem.out_done ?_ (by assumption)
    | with_reducible refine KeepsItem.out_stop ?_ (by assumption)
    | with_reducible refine KeepsItem.out_miss ?_ (by assumption)
    | with_reducible refine KeepsItem.out_wait ?_ (by assumption)
    | split

theorem Keeps.takeVerdict {z : State} {s : State} {n : Fin 132} {l : Fin 16} {frame : Nat} {bad : Bool} (hk : Keeps z s) :
    Keeps z (State.takeVerdict s n l frame bad) := by
  dsimp only [State.takeVerdict]
  repeat' first
    | with_reducible assumption
    | ((with_reducible apply Slice.staysDead_of); intro _; rfl)
    | with_reducible apply Keeps.modSlice
    | with_reducible apply Keeps.countIntegrity
    | with_reducible apply Keeps.drainRecv
    | with_reducible apply Keeps.each
    | with_reducible refine KeepsItem.out_done ?_ (by assumption)
    | with_reducible refine KeepsItem.out_stop ?_ (by assumption)
    | with_reducible refine KeepsItem.out_miss ?_ (by assumption)
    | with_reducible refine KeepsItem.out_wait ?_ (by assumption)
    | exact (rfl : (_ : List (Fin 132)) = _)
    | split
    | dsimp only
    | intro _

theorem Keeps.execVerdict {z : State} {dst : UnitId} {src : Fin 16} {s : State} (hk : Keeps z s) :
    KeepsX z (Sys2Proof.Machine.execVerdict dst src s) := by
  dsimp only [Sys2Proof.Machine.execVerdict]
  repeat' first
    | with_reducible assumption
    | with_reducible apply Keeps.takeVerdict
    | with_reducible exact KeepsX.fault
    | with_reducible apply KeepsX.next
    | with_reducible refine Keeps.recvTxn ?_ (by assumption)
    | with_reducible refine KeepsO.out ?_ (by assumption)
    | with_reducible refine KeepsItem.out_done ?_ (by assumption)
    | with_reducible refine KeepsItem.out_stop ?_ (by assumption)
    | with_reducible refine KeepsItem.out_miss ?_ (by assumption)
    | with_reducible refine KeepsItem.out_wait ?_ (by assumption)
    | split

theorem Keeps.execNdata {z : State} {dst : UnitId} {src : Fin 132} {s : State} (hk : Keeps z s) :
    KeepsX z (Sys2Proof.Machine.execNdata dst src s) := by
  dsimp only [Sys2Proof.Machine.execNdata]
  repeat' first
    | with_reducible assumption
    | with_reducible apply Keeps.modStep
    | with_reducible apply Keeps.nearCame
    | with_reducible apply Keeps.wake
    | with_reducible apply Keeps.ndata
    | with_reducible apply Keeps.drainRecv
    | with_reducible exact KeepsX.fault
    | with_reducible apply KeepsX.next
    | with_reducible refine Keeps.recvTxn ?_ (by assumption)
    | with_reducible refine KeepsO.out ?_ (by assumption)
    | with_reducible refine KeepsItem.out_done ?_ (by assumption)
    | with_reducible refine KeepsItem.out_stop ?_ (by assumption)
    | with_reducible refine KeepsItem.out_miss ?_ (by assumption)
    | with_reducible refine KeepsItem.out_wait ?_ (by assumption)
    | split

theorem Keeps.growChain {z : State} {s : State} {x : Step} {r : Role} {c : Chain} (hk : Keeps z s) :
    Keeps z (State.growChain s x r c) := by
  dsimp only [State.growChain]
  repeat' first
    | with_reducible assumption
    | with_reducible apply Keeps.modStep
    | with_reducible apply Keeps.failTile
    | with_reducible apply Keeps.settleShares
    | with_reducible apply Keeps.drainRecv
    | with_reducible refine KeepsItem.out_done ?_ (by assumption)
    | with_reducible refine KeepsItem.out_stop ?_ (by assumption)
    | with_reducible refine KeepsItem.out_miss ?_ (by assumption)
    | with_reducible refine KeepsItem.out_wait ?_ (by assumption)
    | split

theorem Keeps.askBatch {z : State} {s : State} {x : Step} {base : Nat} (hk : Keeps z s) :
    Keeps z (State.askBatch s x base) := by
  dsimp only [State.askBatch]
  repeat' first
    | with_reducible assumption
    | with_reducible apply Keeps.post
    | with_reducible apply Keeps.modStep
    | with_reducible refine KeepsItem.out_done ?_ (by assumption)
    | with_reducible refine KeepsItem.out_stop ?_ (by assumption)
    | with_reducible refine KeepsItem.out_miss ?_ (by assumption)
    | with_reducible refine KeepsItem.out_wait ?_ (by assumption)
    | exact (rfl : (_ : List (Fin 132)) = _)
    | split

theorem Keeps.takeBatch {z : State} {s : State} {x : Step} {role : Role} {c : Chain} {base : Nat} {d : Bytes × List Nat} (hk : Keeps z s) :
    Keeps z (State.takeBatch s x role c base d) := by
  dsimp only [State.takeBatch]
  repeat' first
    | with_reducible assumption
    | with_reducible apply Keeps.modStep
    | with_reducible apply Keeps.growChain
    | with_reducible refine KeepsItem.out_done ?_ (by assumption)
    | with_reducible refine KeepsItem.out_stop ?_ (by assumption)
    | with_reducible refine KeepsItem.out_miss ?_ (by assumption)
    | with_reducible refine KeepsItem.out_wait ?_ (by assumption)
    | exact (rfl : (_ : List (Fin 132)) = _)
    | split

theorem Keeps.execDescriptorBatch {z : State} {slot : Nat} {role : Role} {w_base : Nat} {w_data : Bytes} {w_errs : List Nat} {s : State} (hk : Keeps z s) :
    KeepsX z (Sys2Proof.Machine.execDescriptorBatch slot role w_base w_data w_errs s) := by
  dsimp only [Sys2Proof.Machine.execDescriptorBatch]
  repeat' first
    | with_reducible assumption
    | with_reducible apply Keeps.askBatch
    | with_reducible apply Keeps.takeBatch
    | with_reducible exact KeepsX.fault
    | with_reducible apply KeepsX.next
    | with_reducible refine KeepsO.out ?_ (by assumption)
    | with_reducible refine KeepsItem.out_done ?_ (by assumption)
    | with_reducible refine KeepsItem.out_stop ?_ (by assumption)
    | with_reducible refine KeepsItem.out_miss ?_ (by assumption)
    | with_reducible refine KeepsItem.out_wait ?_ (by assumption)
    | split

end Sys2Proof.Machine
end

