-- ==== Sys2Proof/Laws/KeepsFeed.lean ====
section
/-! SUPPORT. Keeps, for the operations of Machine/Feed.lean. -/
namespace Sys2Proof.Machine

theorem Keeps.useHead {z : State} {s : State} {n : Fin 132} {slot : Nat} {r : Role} (hk : Keeps z s) :
    Keeps z (State.useHead s n slot r) := by
  dsimp only [State.useHead]
  repeat' first
    | with_reducible assumption
    | with_reducible apply Keeps.modShare

theorem Keeps.addRows {z : State} {s : State} {n : Fin 132} {x : Step} {data : Bytes} {poison : Bool} (hk : Keeps z s) :
    Keeps z (State.addRows s n x data poison) := by
  dsimp only [State.addRows]
  repeat' first
    | with_reducible assumption
    | ((with_reducible apply Slice.staysDead_of); intro _; rfl)
    | with_reducible apply Keeps.modSlice

theorem Keeps.failRef {z : State} {s : State} {n : Fin 132} {x : Step} {h : Share} {status cause i : Nat} (hk : Keeps z s) :
    Keeps z (State.failRef s n x h status cause i) := by
  dsimp only [State.failRef]
  repeat' first
    | with_reducible assumption
    | with_reducible apply Keeps.stopStep
    | with_reducible apply Keeps.progress
    | with_reducible apply Keeps.settleShares

theorem Keeps.startRef {z : State} {s : State} {n : Fin 132} {x : Step} {h : Share} (hk : Keeps z s) :
    KeepsO z (State.startRef s n x h) := by
  dsimp only [State.startRef]
  repeat' first
    | with_reducible assumption
    | with_reducible apply Keeps.countIntegrity
    | with_reducible apply Keeps.spendCodec
    | with_reducible apply Keeps.useHead
    | with_reducible apply Keeps.addRows
    | with_reducible apply Keeps.failRef
    | with_reducible exact KeepsO.none
    | with_reducible apply KeepsO.some
    | with_reducible apply KeepsO.bind
    | with_reducible refine KeepsItem.out_done ?_ (by assumption)
    | with_reducible refine KeepsItem.out_stop ?_ (by assumption)
    | with_reducible refine KeepsItem.out_miss ?_ (by assumption)
    | with_reducible refine KeepsItem.out_wait ?_ (by assumption)
    | split

theorem Keeps.enqueue {z : State} {s : State} {n : Fin 132} {x : Step} {t : InTile} (hk : Keeps z s) :
    Keeps z (State.enqueue s n x t) := by
  dsimp only [State.enqueue]
  repeat' first
    | with_reducible assumption
    | with_reducible apply Keeps.modShare

theorem Keeps.startFeed {z : State} {s : State} {n : Fin 132} {x : Step} {h : Share} (hk : Keeps z s) :
    KeepsO z (State.startFeed s n x h) := by
  dsimp only [State.startFeed]
  repeat' first
    | with_reducible assumption
    | ((with_reducible apply Slice.staysDead_of); intro _; rfl)
    | with_reducible apply Keeps.modSlice
    | with_reducible apply Keeps.countIntegrity
    | with_reducible apply Keeps.spendCodec
    | with_reducible apply Keeps.settleShare
    | with_reducible apply Keeps.progress
    | with_reducible apply Keeps.stopHere
    | with_reducible apply Keeps.settlePass
    | with_reducible apply Keeps.settleShares
    | with_reducible apply Keeps.useHead
    | with_reducible apply Keeps.enqueue
    | with_reducible exact KeepsO.none
    | with_reducible apply KeepsO.some
    | with_reducible apply KeepsO.bind
    | with_reducible refine KeepsItem.out_done ?_ (by assumption)
    | with_reducible refine KeepsItem.out_stop ?_ (by assumption)
    | with_reducible refine KeepsItem.out_miss ?_ (by assumption)
    | with_reducible refine KeepsItem.out_wait ?_ (by assumption)
    | exact (rfl : (_ : List (Fin 132)) = _)
    | split

theorem Keeps.startMove {z : State} {s : State} {n : Fin 132} {x : Step} {h : Share} (hk : Keeps z s) :
    KeepsO z (State.startMove s n x h) := by
  dsimp only [State.startMove]
  repeat' first
    | with_reducible assumption
    | with_reducible apply Keeps.settleShare
    | with_reducible apply Keeps.progress
    | with_reducible apply Keeps.stopHere
    | with_reducible apply Keeps.askNew
    | with_reducible apply Keeps.settlePass
    | with_reducible apply Keeps.settleShares
    | with_reducible apply Keeps.putMoved
    | with_reducible apply Keeps.useHead
    | with_reducible exact KeepsO.none
    | with_reducible apply KeepsO.some
    | with_reducible apply KeepsO.bind
    | with_reducible refine KeepsO.out ?_ (by assumption)
    | with_reducible refine KeepsItem.out_done ?_ (by assumption)
    | with_reducible refine KeepsItem.out_stop ?_ (by assumption)
    | with_reducible refine KeepsItem.out_miss ?_ (by assumption)
    | with_reducible refine KeepsItem.out_wait ?_ (by assumption)
    | exact (rfl : (_ : List (Fin 132)) = _)
    | split

end Sys2Proof.Machine
end

