-- ==== Sys2Proof/Laws/KeepsDPort.lean ====
section
/-! SUPPORT. Keeps, for the operations of Machine/DPort.lean. -/
namespace Sys2Proof.Machine

theorem Keeps.offer {z : State} {s : State} {n : Fin 132} {x : Step} {h : Share} {i pos mode scale pairs : Nat} {poison : Bool} {beats : List (Nat × Bytes × Bytes)} (hk : Keeps z s) :
    Keeps z (State.offer s n x h i pos mode scale pairs poison beats) := by
  dsimp only [State.offer]
  repeat' first
    | with_reducible assumption
    | with_reducible apply Keeps.modSlice
    | with_reducible refine KeepsItem.out_done ?_ (by assumption)
    | with_reducible refine KeepsItem.out_stop ?_ (by assumption)
    | with_reducible refine KeepsItem.out_miss ?_ (by assumption)
    | with_reducible refine KeepsItem.out_wait ?_ (by assumption)
    | exact (rfl : (_ : List (Fin 132)) = _)
    | split
    | dsimp only
    | intro _

theorem Keeps.offerTile {z : State} {s : State} {n : Fin 132} {x : Step} {h : Share} {i pos : Nat} {st : StreamFmt} {e : Expanded} (hk : Keeps z s) :
    Keeps z (State.offerTile s n x h i pos st e) := by
  dsimp only [State.offerTile]
  repeat' first
    | with_reducible assumption
    | with_reducible apply Keeps.offer

theorem Keeps.countFound {z : State} {s : State} {r : Round} {pos found : Nat} (hk : Keeps z s) :
    Keeps z (State.countFound s r pos found) := by
  dsimp only [State.countFound]
  repeat' first
    | with_reducible assumption
    | with_reducible apply Keeps.countIntegrity
    | with_reducible refine KeepsItem.out_done ?_ (by assumption)
    | with_reducible refine KeepsItem.out_stop ?_ (by assumption)
    | with_reducible refine KeepsItem.out_miss ?_ (by assumption)
    | with_reducible refine KeepsItem.out_wait ?_ (by assumption)
    | split

theorem Keeps.startDeliver {z : State} {s : State} {n : Fin 132} {x : Step} {h : Share} (hk : Keeps z s) :
    KeepsO z (State.startDeliver s n x h) := by
  dsimp only [State.startDeliver]
  repeat' first
    | with_reducible assumption
    | ((with_reducible apply Slice.staysDead_of); intro _; rfl)
    | with_reducible apply Keeps.modSlice
    | with_reducible apply Keeps.spendCodec
    | with_reducible apply Keeps.modShare
    | with_reducible apply Keeps.dropHeads
    | with_reducible apply Keeps.settleShare
    | with_reducible apply Keeps.stopHere
    | with_reducible apply Keeps.settlePass
    | with_reducible apply Keeps.settleShares
    | with_reducible apply Keeps.meetFrog
    | with_reducible apply Keeps.offerTile
    | with_reducible apply Keeps.countFound
    | with_reducible exact KeepsO.none
    | with_reducible apply KeepsO.some
    | with_reducible refine KeepsItem.out_done ?_ (by assumption)
    | with_reducible refine KeepsItem.out_stop ?_ (by assumption)
    | with_reducible refine KeepsItem.out_miss ?_ (by assumption)
    | with_reducible refine KeepsItem.out_wait ?_ (by assumption)
    | exact (rfl : (_ : List (Fin 132)) = _)
    | split

theorem Keeps.startShare {z : State} {s : State} {n : Fin 132} {slot : Nat} (hk : Keeps z s) :
    KeepsO z (State.startShare s n slot) := by
  dsimp only [State.startShare]
  repeat' first
    | with_reducible assumption
    | with_reducible apply Keeps.startRef
    | with_reducible apply Keeps.startFeed
    | with_reducible apply Keeps.startMove
    | with_reducible apply Keeps.startDeliver
    | with_reducible exact KeepsO.none
    | with_reducible apply KeepsO.some
    | with_reducible refine KeepsO.out ?_ (by assumption)
    | with_reducible refine KeepsItem.out_done ?_ (by assumption)
    | with_reducible refine KeepsItem.out_stop ?_ (by assumption)
    | with_reducible refine KeepsItem.out_miss ?_ (by assumption)
    | with_reducible refine KeepsItem.out_wait ?_ (by assumption)
    | split

theorem Keeps.execExpandStart {z : State} {sl : Fin 132} {s : State} (hk : Keeps z s) :
    KeepsX z (Sys2Proof.Machine.execExpandStart sl s) := by
  dsimp only [Sys2Proof.Machine.execExpandStart]
  repeat' first
    | with_reducible assumption
    | ((with_reducible apply Slice.staysDead_alive); intro _ q; exact Slice.touch_power q)
    | with_reducible apply Keeps.modSlice
    | with_reducible apply Keeps.startShare
    | with_reducible apply KeepsO.findSome
    | with_reducible apply KeepsO.bind
    | with_reducible apply KeepsO.getD
    | with_reducible exact KeepsX.fault
    | with_reducible apply KeepsX.next
    | with_reducible refine KeepsO.out ?_ (by assumption)
    | with_reducible refine KeepsItem.out_done ?_ (by assumption)
    | with_reducible refine KeepsItem.out_stop ?_ (by assumption)
    | with_reducible refine KeepsItem.out_miss ?_ (by assumption)
    | with_reducible refine KeepsItem.out_wait ?_ (by assumption)
    | split
    | dsimp only
    | intro _

theorem Keeps.execContourTileDecoded {z : State} {sl : Fin 132} {s : State} (hk : Keeps z s) :
    KeepsX z (Sys2Proof.Machine.execContourTileDecoded sl s) := by
  dsimp only [Sys2Proof.Machine.execContourTileDecoded]
  repeat' first
    | with_reducible assumption
    | ((with_reducible apply Slice.staysDead_of); intro _; rfl)
    | with_reducible apply Keeps.modSlice
    | with_reducible apply Keeps.spendCodec
    | with_reducible apply Keeps.settleShare
    | with_reducible apply Keeps.settlePass
    | with_reducible apply Keeps.enqueue
    | with_reducible apply Keeps.offerTile
    | with_reducible exact KeepsX.fault
    | with_reducible apply KeepsX.next
    | with_reducible refine KeepsO.out ?_ (by assumption)
    | with_reducible refine KeepsItem.out_done ?_ (by assumption)
    | with_reducible refine KeepsItem.out_stop ?_ (by assumption)
    | with_reducible refine KeepsItem.out_miss ?_ (by assumption)
    | with_reducible refine KeepsItem.out_wait ?_ (by assumption)
    | exact (rfl : (_ : List (Fin 132)) = _)
    | split

theorem Keeps.startPair {z : State} {s : State} {n : Fin 132} {x : Step} {h : Share} (hk : Keeps z s) :
    KeepsO z (State.startPair s n x h) := by
  dsimp only [State.startPair]
  repeat' first
    | with_reducible assumption
    | with_reducible apply Keeps.spendCodec
    | with_reducible apply Keeps.modShare
    | with_reducible apply Keeps.dropHeads
    | with_reducible apply Keeps.settleShare
    | with_reducible apply Keeps.stopHere
    | with_reducible apply Keeps.settlePass
    | with_reducible apply Keeps.settleShares
    | with_reducible apply Keeps.meetFrogs
    | with_reducible apply Keeps.offer
    | with_reducible apply Keeps.countFound
    | with_reducible exact KeepsO.none
    | with_reducible apply KeepsO.some
    | with_reducible refine KeepsItem.out_done ?_ (by assumption)
    | with_reducible refine KeepsItem.out_stop ?_ (by assumption)
    | with_reducible refine KeepsItem.out_miss ?_ (by assumption)
    | with_reducible refine KeepsItem.out_wait ?_ (by assumption)
    | split

theorem Keeps.execPairStart {z : State} {sl : Fin 132} {s : State} (hk : Keeps z s) :
    KeepsX z (Sys2Proof.Machine.execPairStart sl s) := by
  unfold Sys2Proof.Machine.execPairStart
  split
  · rename_i t e
    have k : Keeps z t := by
      refine KeepsO.findSome (fun h => ?_) _ e
      split
      · exact KeepsO.bind (fun p => hk.startPair)
      · exact KeepsO.none
    exact KeepsX.next (Keeps.modSlice k (Slice.staysDead_alive fun _ q => Slice.touch_power q))
  · exact KeepsX.next hk

theorem Keeps.finishTile {z : State} {s : State} {n : Fin 132} {d : DTile} (hk : Keeps z s) :
    Keeps z (State.finishTile s n d) := by
  dsimp only [State.finishTile]
  repeat' first
    | with_reducible assumption
    | ((with_reducible apply Slice.staysDead_of); intro _; rfl)
    | with_reducible apply Keeps.modSlice
    | with_reducible apply Keeps.tallyAdd
    | with_reducible apply Keeps.modShare
    | with_reducible apply Keeps.settleShare
    | with_reducible apply Keeps.progress
    | with_reducible apply Keeps.settlePass
    | with_reducible refine KeepsItem.out_done ?_ (by assumption)
    | with_reducible refine KeepsItem.out_stop ?_ (by assumption)
    | with_reducible refine KeepsItem.out_miss ?_ (by assumption)
    | with_reducible refine KeepsItem.out_wait ?_ (by assumption)
    | exact (rfl : (_ : List (Fin 132)) = _)
    | split

theorem Keeps.execDBeat {z : State} {sl : Fin 132} {s : State} (hk : Keeps z s) :
    KeepsX z (Sys2Proof.Machine.execDBeat sl s) := by
  dsimp only [Sys2Proof.Machine.execDBeat]
  repeat' first
    | with_reducible assumption
    | ((with_reducible apply Slice.staysDead_of); intro _; rfl)
    | with_reducible apply Keeps.modSlice
    | with_reducible apply Keeps.spend
    | with_reducible apply Keeps.finishTile
    | with_reducible exact KeepsX.fault
    | with_reducible apply KeepsX.next
    | with_reducible refine KeepsO.out ?_ (by assumption)
    | with_reducible refine KeepsItem.out_done ?_ (by assumption)
    | with_reducible refine KeepsItem.out_stop ?_ (by assumption)
    | with_reducible refine KeepsItem.out_miss ?_ (by assumption)
    | with_reducible refine KeepsItem.out_wait ?_ (by assumption)
    | exact (rfl : (_ : List (Fin 132)) = _)
    | split

theorem Keeps.execFrogMarker {z : State} {sl : Fin 132} {s : State} (hk : Keeps z s) :
    KeepsX z (Sys2Proof.Machine.execFrogMarker sl s) := by
  dsimp only [Sys2Proof.Machine.execFrogMarker]
  repeat' first
    | with_reducible assumption
    | ((with_reducible apply Slice.staysDead_of); intro _; rfl)
    | with_reducible apply Keeps.modSlice
    | with_reducible apply Keeps.settleShare
    | with_reducible exact KeepsX.fault
    | with_reducible apply KeepsX.next
    | with_reducible refine KeepsO.out ?_ (by assumption)
    | with_reducible refine KeepsItem.out_done ?_ (by assumption)
    | with_reducible refine KeepsItem.out_stop ?_ (by assumption)
    | with_reducible refine KeepsItem.out_miss ?_ (by assumption)
    | with_reducible refine KeepsItem.out_wait ?_ (by assumption)
    | exact (rfl : (_ : List (Fin 132)) = _)
    | split

theorem Keeps.execDFreePush {z : State} {sl : Fin 132} {entry : BitVec 64} {s : State} (hk : Keeps z s) :
    KeepsX z (Sys2Proof.Machine.execDFreePush sl entry s) := by
  dsimp only [Sys2Proof.Machine.execDFreePush]
  repeat' first
    | with_reducible assumption
    | ((with_reducible apply Slice.staysDead_of); intro _; rfl)
    | with_reducible apply Keeps.modSlice
    | with_reducible exact KeepsX.fault
    | with_reducible apply KeepsX.next
    | with_reducible refine KeepsO.out ?_ (by assumption)
    | with_reducible refine KeepsItem.out_done ?_ (by assumption)
    | with_reducible refine KeepsItem.out_stop ?_ (by assumption)
    | with_reducible refine KeepsItem.out_miss ?_ (by assumption)
    | with_reducible refine KeepsItem.out_wait ?_ (by assumption)
    | exact (rfl : (_ : List (Fin 132)) = _)
    | split

theorem Keeps.execDFullPop {z : State} {sl : Fin 132} {s : State} (hk : Keeps z s) :
    KeepsX z (Sys2Proof.Machine.execDFullPop sl s) := by
  dsimp only [Sys2Proof.Machine.execDFullPop]
  repeat' first
    | with_reducible assumption
    | ((with_reducible apply Slice.staysDead_of); intro _; rfl)
    | with_reducible apply Keeps.modSlice
    | with_reducible exact KeepsX.fault
    | with_reducible apply KeepsX.next
    | with_reducible refine KeepsO.out ?_ (by assumption)
    | with_reducible refine KeepsItem.out_done ?_ (by assumption)
    | with_reducible refine KeepsItem.out_stop ?_ (by assumption)
    | with_reducible refine KeepsItem.out_miss ?_ (by assumption)
    | with_reducible refine KeepsItem.out_wait ?_ (by assumption)
    | exact (rfl : (_ : List (Fin 132)) = _)
    | split

theorem Keeps.setMark {z : State} {s : State} {n : Fin 132} {slot : Nat} {id : Fin 2} {hard : Bool} (hk : Keeps z s) :
    Keeps z (State.setMark s n slot id hard) := by
  dsimp only [State.setMark]
  repeat' first
    | with_reducible assumption
    | with_reducible apply Keeps.modShare

theorem Keeps.goBack {z : State} {s : State} {n : Fin 132} {slot pos : Nat} (hk : Keeps z s) :
    Keeps z (State.goBack s n slot pos) := by
  dsimp only [State.goBack]
  repeat' first
    | with_reducible assumption
    | with_reducible apply Keeps.modShare

theorem Keeps.rewindTo {z : State} {s : State} {n : Fin 132} {slot : Nat} {id : Fin 2} (hk : Keeps z s) :
    Keeps z (State.rewindTo s n slot id) := by
  dsimp only [State.rewindTo]
  repeat' first
    | with_reducible assumption
    | ((with_reducible apply Slice.staysDead_of); intro _; rfl)
    | with_reducible apply Keeps.modSlice
    | with_reducible apply Keeps.progress
    | with_reducible apply Keeps.goBack
    | with_reducible refine KeepsItem.out_done ?_ (by assumption)
    | with_reducible refine KeepsItem.out_stop ?_ (by assumption)
    | with_reducible refine KeepsItem.out_miss ?_ (by assumption)
    | with_reducible refine KeepsItem.out_wait ?_ (by assumption)
    | exact (rfl : (_ : List (Fin 132)) = _)
    | split

theorem Keeps.dropMark {z : State} {s : State} {n : Fin 132} {slot : Nat} {id : Fin 2} (hk : Keeps z s) :
    Keeps z (State.dropMark s n slot id) := by
  dsimp only [State.dropMark]
  repeat' first
    | with_reducible assumption
    | with_reducible apply Keeps.modShare

theorem Keeps.markOp {z : State} {s : State} {n : Fin 132} {slot : Nat} {o : MarkOp} (hk : Keeps z s) :
    Keeps z (State.markOp s n slot o) := by
  dsimp only [State.markOp]
  repeat' first
    | with_reducible assumption
    | with_reducible apply Keeps.setMark
    | with_reducible apply Keeps.rewindTo
    | with_reducible apply Keeps.dropMark
    | with_reducible refine KeepsItem.out_done ?_ (by assumption)
    | with_reducible refine KeepsItem.out_stop ?_ (by assumption)
    | with_reducible refine KeepsItem.out_miss ?_ (by assumption)
    | with_reducible refine KeepsItem.out_wait ?_ (by assumption)
    | split

theorem Keeps.markCycle {z : State} {s : State} {n : Fin 132} {lane0 : MarkOp} {lane1 : Option MarkOp} (hk : Keeps z s) :
    Keeps z (State.markCycle s n lane0 lane1) := by
  dsimp only [State.markCycle]
  repeat' first
    | with_reducible assumption
    | with_reducible apply Keeps.settleShare
    | with_reducible apply Keeps.markOp
    | with_reducible apply Keeps.each
    | with_reducible refine KeepsItem.out_done ?_ (by assumption)
    | with_reducible refine KeepsItem.out_stop ?_ (by assumption)
    | with_reducible refine KeepsItem.out_miss ?_ (by assumption)
    | with_reducible refine KeepsItem.out_wait ?_ (by assumption)
    | split
    | dsimp only
    | intro _

theorem Keeps.execSetHard {z : State} {sl : Fin 132} {lanes : MarkLanes} {s : State} (hk : Keeps z s) :
    KeepsX z (Sys2Proof.Machine.execSetHard sl lanes s) := by
  dsimp only [Sys2Proof.Machine.execSetHard]
  repeat' first
    | with_reducible assumption
    | with_reducible apply Keeps.markCycle
    | with_reducible exact KeepsX.fault
    | with_reducible apply KeepsX.next

theorem Keeps.execSetSoft {z : State} {sl : Fin 132} {lanes : MarkLanes} {s : State} (hk : Keeps z s) :
    KeepsX z (Sys2Proof.Machine.execSetSoft sl lanes s) := by
  dsimp only [Sys2Proof.Machine.execSetSoft]
  repeat' first
    | with_reducible assumption
    | with_reducible apply Keeps.markCycle
    | with_reducible exact KeepsX.fault
    | with_reducible apply KeepsX.next

theorem Keeps.execRewind {z : State} {sl : Fin 132} {lanes : MarkLanes} {s : State} (hk : Keeps z s) :
    KeepsX z (Sys2Proof.Machine.execRewind sl lanes s) := by
  dsimp only [Sys2Proof.Machine.execRewind]
  repeat' first
    | with_reducible assumption
    | with_reducible apply Keeps.markCycle
    | with_reducible exact KeepsX.fault
    | with_reducible apply KeepsX.next

theorem Keeps.execRelease {z : State} {sl : Fin 132} {lanes : MarkLanes} {s : State} (hk : Keeps z s) :
    KeepsX z (Sys2Proof.Machine.execRelease sl lanes s) := by
  dsimp only [Sys2Proof.Machine.execRelease]
  repeat' first
    | with_reducible assumption
    | with_reducible apply Keeps.markCycle
    | with_reducible exact KeepsX.fault
    | with_reducible apply KeepsX.next

end Sys2Proof.Machine
end

