-- ==== Sys2Proof/Laws/KeepsCompress.lean ====
section
/-! SUPPORT. Keeps, for the operations of Machine/Compress.lean. -/
namespace Sys2Proof.Machine

theorem Keeps.discardAbsent {z : State} {s : State} {n : Fin 132} {x : Step} {i : Nat} (hk : Keeps z s) :
    Keeps z (State.discardAbsent s n x i) := by
  dsimp only [State.discardAbsent]
  repeat' first
    | with_reducible assumption
    | with_reducible apply Keeps.modShare
    | with_reducible refine KeepsItem.out_done ?_ (by assumption)
    | with_reducible refine KeepsItem.out_stop ?_ (by assumption)
    | with_reducible refine KeepsItem.out_miss ?_ (by assumption)
    | with_reducible refine KeepsItem.out_wait ?_ (by assumption)
    | exact (rfl : (_ : List (Fin 132)) = _)
    | split

theorem Keeps.passAbsent {z : State} {n : Fin 132} {slot : Nat} {k : Nat} {s : State} (hk : Keeps z s) :
    Keeps z (State.passAbsent s n slot k) := by
  induction k generalizing s with
  | zero => exact hk
  | succ k ih =>
    unfold State.passAbsent
    repeat' first
      | with_reducible assumption
      | with_reducible apply ih
      | with_reducible apply Keeps.modShare
      | with_reducible apply Keeps.discardAbsent
      | split
      | dsimp only

theorem Keeps.refuseInput {z : State} {s : State} {n : Fin 132} {slot i k cause : Nat} (hk : Keeps z s) :
    Keeps z (State.refuseInput s n slot i k cause) := by
  dsimp only [State.refuseInput]
  repeat' first
    | with_reducible assumption
    | with_reducible apply Keeps.stopStep
    | with_reducible apply Keeps.progress

theorem Keeps.takeTile {z : State} {s : State} {n : Fin 132} {x : Step} {h : Share} {i : Nat} {bs : List ABeat} (hk : Keeps z s) :
    Keeps z (State.takeTile s n x h i bs) := by
  dsimp only [State.takeTile]
  repeat' first
    | with_reducible assumption
    | with_reducible apply Keeps.modShare
    | with_reducible apply Keeps.progress
    | with_reducible apply Keeps.enqueue
    | with_reducible apply Keeps.discardAbsent
    | with_reducible apply Keeps.refuseInput
    | with_reducible refine KeepsItem.out_done ?_ (by assumption)
    | with_reducible refine KeepsItem.out_stop ?_ (by assumption)
    | with_reducible refine KeepsItem.out_miss ?_ (by assumption)
    | with_reducible refine KeepsItem.out_wait ?_ (by assumption)
    | exact (rfl : (_ : List (Fin 132)) = _)
    | split

theorem Keeps.pushDone {z : State} {s : State} {n : Fin 132} {x : Step} {bs : List ABeat} {last : Bool} (hk : Keeps z s) :
    Keeps z (State.pushDone s n x bs last) := by
  dsimp only [State.pushDone]
  repeat' first
    | with_reducible assumption
    | ((with_reducible apply Slice.staysDead_of); intro _; rfl)
    | with_reducible apply Keeps.modSlice

theorem Keeps.takeInput {z : State} {s : State} {n : Fin 132} {x : Step} {bs : List ABeat} (hk : Keeps z s) :
    Keeps z (State.takeInput s n x bs) := by
  dsimp only [State.takeInput]
  repeat' first
    | with_reducible assumption
    | with_reducible apply Keeps.settlePass
    | with_reducible apply Keeps.settleShares
    | with_reducible apply Keeps.passAbsent
    | with_reducible apply Keeps.takeTile
    | with_reducible apply Keeps.pushDone
    | with_reducible refine KeepsItem.out_done ?_ (by assumption)
    | with_reducible refine KeepsItem.out_stop ?_ (by assumption)
    | with_reducible refine KeepsItem.out_miss ?_ (by assumption)
    | with_reducible refine KeepsItem.out_wait ?_ (by assumption)
    | split

theorem Keeps.takeRecord {z : State} {s : State} {n : Fin 132} {slot : Nat} {r : Nat × List Nat × Bool} (hk : Keeps z s) :
    Keeps z (State.takeRecord s n slot r) := by
  dsimp only [State.takeRecord]
  repeat' first
    | with_reducible assumption
    | ((with_reducible apply Slice.staysDead_of); intro _; rfl)
    | with_reducible apply Keeps.modSlice
    | with_reducible apply Keeps.tallyAdd
    | with_reducible apply Keeps.modShare
    | with_reducible apply Keeps.progress
    | with_reducible apply Keeps.stopHere
    | with_reducible refine KeepsItem.out_done ?_ (by assumption)
    | with_reducible refine KeepsItem.out_stop ?_ (by assumption)
    | with_reducible refine KeepsItem.out_miss ?_ (by assumption)
    | with_reducible refine KeepsItem.out_wait ?_ (by assumption)
    | exact (rfl : (_ : List (Fin 132)) = _)
    | split

theorem Keeps.execABeat {z : State} {sl : Fin 132} {b : ABeat} {s : State} (hk : Keeps z s) :
    KeepsX z (Sys2Proof.Machine.execABeat sl b s) := by
  dsimp only [Sys2Proof.Machine.execABeat]
  repeat' first
    | with_reducible assumption
    | ((with_reducible apply Slice.staysDead_of); intro _; rfl)
    | ((with_reducible apply Slice.staysDead_alive); intro _ q; exact Slice.touch_power q)
    | with_reducible apply Keeps.modSlice
    | with_reducible apply Keeps.spend
    | with_reducible apply Keeps.ask
    | with_reducible apply Keeps.passAbsent
    | with_reducible apply Keeps.pushDone
    | with_reducible apply Keeps.takeInput
    | with_reducible apply Keeps.takeRecord
    | with_reducible apply Keeps.each
    | with_reducible exact KeepsX.fault
    | with_reducible apply KeepsX.next
    | with_reducible refine KeepsO.out ?_ (by assumption)
    | with_reducible refine KeepsItem.out_done ?_ (by assumption)
    | with_reducible refine KeepsItem.out_stop ?_ (by assumption)
    | with_reducible refine KeepsItem.out_miss ?_ (by assumption)
    | with_reducible refine KeepsItem.out_wait ?_ (by assumption)
    | exact (rfl : (_ : List (Fin 132)) = _)
    | split
    | dsimp only
    | intro _

theorem Keeps.execADonePop {z : State} {sl : Fin 132} {s : State} (hk : Keeps z s) :
    KeepsX z (Sys2Proof.Machine.execADonePop sl s) := by
  dsimp only [Sys2Proof.Machine.execADonePop]
  repeat' first
    | with_reducible assumption
    | ((with_reducible apply Slice.staysDead_of); intro _; rfl)
    | with_reducible apply Keeps.modSlice
    | with_reducible exact KeepsX.fault
    | with_reducible apply KeepsX.next
    | with_reducible refine KeepsO.out ?_ (by assumption)
    | with_reducible refine KeepsItem.out_done ?_ (by assumption)
    | with_reducible refine KeepsItem.out_stop ?_ (by assumption)
    | with_reducible refine KeepsItem.out_miss ?_ (by assumption)
    | with_reducible refine KeepsItem.out_wait ?_ (by assumption)
    | exact (rfl : (_ : List (Fin 132)) = _)
    | split

theorem Keeps.codeNext {z : State} {s : State} {n : Fin 132} {x : Step} {h : Share} (hk : Keeps z s) :
    KeepsO z (State.codeNext s n x h) := by
  dsimp only [State.codeNext]
  repeat' first
    | with_reducible assumption
    | with_reducible apply Keeps.spendCodec
    | with_reducible apply Keeps.modShare
    | with_reducible apply Keeps.settleShare
    | with_reducible apply Keeps.settlePass
    | with_reducible apply Keeps.settleShares
    | with_reducible apply Keeps.putMoved
    | with_reducible apply Keeps.refuseInput
    | with_reducible exact KeepsO.none
    | with_reducible apply KeepsO.some
    | with_reducible apply KeepsO.map
    | with_reducible refine KeepsItem.out_done ?_ (by assumption)
    | with_reducible refine KeepsItem.out_stop ?_ (by assumption)
    | with_reducible refine KeepsItem.out_miss ?_ (by assumption)
    | with_reducible refine KeepsItem.out_wait ?_ (by assumption)
    | exact (rfl : (_ : List (Fin 132)) = _)
    | split

theorem Keeps.codeShare {z : State} {s : State} {n : Fin 132} {slot : Nat} (hk : Keeps z s) :
    KeepsO z (State.codeShare s n slot) := by
  dsimp only [State.codeShare]
  repeat' first
    | with_reducible assumption
    | with_reducible apply Keeps.settleShare
    | with_reducible apply Keeps.passAbsent
    | with_reducible apply Keeps.codeNext
    | with_reducible exact KeepsO.none
    | with_reducible apply KeepsO.some
    | with_reducible refine KeepsO.out ?_ (by assumption)
    | with_reducible refine KeepsItem.out_done ?_ (by assumption)
    | with_reducible refine KeepsItem.out_stop ?_ (by assumption)
    | with_reducible refine KeepsItem.out_miss ?_ (by assumption)
    | with_reducible refine KeepsItem.out_wait ?_ (by assumption)
    | split

theorem Keeps.execTileCompressed {z : State} {sl : Fin 132} {s : State} (hk : Keeps z s) :
    KeepsX z (Sys2Proof.Machine.execTileCompressed sl s) := by
  dsimp only [Sys2Proof.Machine.execTileCompressed]
  repeat' first
    | with_reducible assumption
    | with_reducible apply Keeps.codeShare
    | with_reducible apply KeepsO.findSome
    | with_reducible apply KeepsO.bind
    | with_reducible apply KeepsO.getD
    | with_reducible exact KeepsX.fault
    | with_reducible apply KeepsX.next
    | with_reducible refine KeepsO.out ?_ (by assumption)
    | with_reducible refine KeepsItem.out_done ?_ (by assumption)
    | with_reducible refine KeepsItem.out_stop ?_ (by assumption)
    | with_reducible refine KeepsItem.out_miss ?_ (by assumption)
    | with_reducible refine KeepsItem.out_wait ?_ (by assumption)
    | split
    | dsimp only
    | intro _

theorem Keeps.codeBlock {z : State} {s : State} {n : Fin 132} {x : Step} {h : Share} (hk : Keeps z s) :
    KeepsO z (State.codeBlock s n x h) := by
  dsimp only [State.codeBlock]
  repeat' first
    | with_reducible assumption
    | with_reducible apply Keeps.spendCodec
    | with_reducible apply Keeps.modShare
    | with_reducible apply Keeps.settleShare
    | with_reducible apply Keeps.progress
    | with_reducible apply Keeps.emit
    | with_reducible apply Keeps.settlePass
    | with_reducible apply Keeps.place
    | with_reducible apply Keeps.each
    | with_reducible exact KeepsO.none
    | with_reducible apply KeepsO.some
    | with_reducible apply KeepsO.bind
    | with_reducible apply KeepsO.map
    | with_reducible refine KeepsItem.out_done ?_ (by assumption)
    | with_reducible refine KeepsItem.out_stop ?_ (by assumption)
    | with_reducible refine KeepsItem.out_miss ?_ (by assumption)
    | with_reducible refine KeepsItem.out_wait ?_ (by assumption)
    | exact (rfl : (_ : List (Fin 132)) = _)
    | split
    | dsimp only
    | intro _

theorem Keeps.execContourBlockCoded {z : State} {sl : Fin 132} {s : State} (hk : Keeps z s) :
    KeepsX z (Sys2Proof.Machine.execContourBlockCoded sl s) := by
  unfold Sys2Proof.Machine.execContourBlockCoded
  split
  · rename_i t e
    refine KeepsX.next (KeepsO.findSome (fun h => ?_) _ e)
    split
    · exact KeepsO.bind (fun p => hk.codeBlock)
    · exact KeepsO.none
  · exact KeepsX.next hk

end Sys2Proof.Machine
end

