-- ==== Sys2Proof/Laws/KeepsAccum.lean ====
section
/-! SUPPORT. Keeps, for the operations of Machine/Accum.lean. -/
namespace Sys2Proof.Machine

theorem Keeps.modSet {z : State} {s : State} {o : AccSet} {f : Bank → Bank} (hk : Keeps z s) :
    Keeps z (State.modSet s o f) := by
  dsimp only [State.modSet]
  repeat' first
    | with_reducible assumption
    | ((with_reducible apply Slice.staysDead_of); intro _; rfl)
    | with_reducible apply Keeps.modSlice
    | with_reducible apply Keeps.each
    | with_reducible refine KeepsItem.out_done ?_ (by assumption)
    | with_reducible refine KeepsItem.out_stop ?_ (by assumption)
    | with_reducible refine KeepsItem.out_miss ?_ (by assumption)
    | with_reducible refine KeepsItem.out_wait ?_ (by assumption)
    | exact (rfl : (_ : List (Fin 132)) = _)
    | split
    | dsimp only
    | intro _

theorem Keeps.modFills {z : State} {s : State} {o : AccSet} {f : AccSet → AccSet} (hk : Keeps z s) :
    Keeps z (State.modFills s o f) := by
  dsimp only [State.modFills]
  repeat' first
    | with_reducible assumption
    | with_reducible apply Keeps.modSet

theorem Keeps.spillOut {z : State} {s : State} {n : Fin 132} {x : Step} {second : Bool} (hk : Keeps z s) :
    Keeps z (State.spillOut s n x second) := by
  dsimp only [State.spillOut]
  repeat' first
    | with_reducible assumption
    | with_reducible apply Keeps.modShare
    | with_reducible apply Keeps.progress
    | with_reducible apply Keeps.stopHere
    | with_reducible apply Keeps.emit
    | with_reducible apply Keeps.settleShares
    | with_reducible apply Keeps.modFills
    | with_reducible refine KeepsItem.out_done ?_ (by assumption)
    | with_reducible refine KeepsItem.out_stop ?_ (by assumption)
    | with_reducible refine KeepsItem.out_miss ?_ (by assumption)
    | with_reducible refine KeepsItem.out_wait ?_ (by assumption)
    | exact (rfl : (_ : List (Fin 132)) = _)
    | split

theorem Keeps.spillNext {z : State} {s : State} {n : Fin 132} {slot : Nat} {second final : Bool} (hk : Keeps z s) :
    Keeps z (State.spillNext s n slot second final) := by
  dsimp only [State.spillNext]
  repeat' first
    | with_reducible assumption
    | with_reducible apply Keeps.spillOut
    | with_reducible refine KeepsItem.out_done ?_ (by assumption)
    | with_reducible refine KeepsItem.out_stop ?_ (by assumption)
    | with_reducible refine KeepsItem.out_miss ?_ (by assumption)
    | with_reducible refine KeepsItem.out_wait ?_ (by assumption)
    | split

theorem Keeps.holdSpill {z : State} {s : State} {n : Fin 132} {slot : Nat} {e : AccEntry} (hk : Keeps z s) :
    Keeps z (State.holdSpill s n slot e) := by
  dsimp only [State.holdSpill]
  repeat' first
    | with_reducible assumption
    | with_reducible apply Keeps.modShare

theorem Keeps.finishScatter {z : State} {s : State} {n : Fin 132} {slot : Nat} (hk : Keeps z s) :
    Keeps z (State.finishScatter s n slot) := by
  dsimp only [State.finishScatter]
  repeat' first
    | with_reducible assumption
    | with_reducible apply Keeps.modShare
    | with_reducible apply Keeps.settleShare
    | with_reducible apply Keeps.spillNext
    | with_reducible refine KeepsItem.out_done ?_ (by assumption)
    | with_reducible refine KeepsItem.out_stop ?_ (by assumption)
    | with_reducible refine KeepsItem.out_miss ?_ (by assumption)
    | with_reducible refine KeepsItem.out_wait ?_ (by assumption)
    | exact (rfl : (_ : List (Fin 132)) = _)
    | split

theorem Keeps.finishScatters {z : State} {s : State} {slot : Nat} (hk : Keeps z s) :
    Keeps z (State.finishScatters s slot) := by
  dsimp only [State.finishScatters]
  repeat' first
    | with_reducible assumption
    | with_reducible apply Keeps.finishScatter
    | with_reducible apply Keeps.each
    | with_reducible refine KeepsItem.out_done ?_ (by assumption)
    | with_reducible refine KeepsItem.out_stop ?_ (by assumption)
    | with_reducible refine KeepsItem.out_miss ?_ (by assumption)
    | with_reducible refine KeepsItem.out_wait ?_ (by assumption)
    | split
    | dsimp only
    | intro _

theorem Keeps.hashRecord {z : State} {s : State} {n : Fin 132} {x : Step} {r : Nat × List Nat × Bool} (hk : Keeps z s) :
    Keeps z (State.hashRecord s n x r) := by
  dsimp only [State.hashRecord]
  repeat' first
    | with_reducible assumption
    | ((with_reducible apply Slice.staysDead_of); intro _; rfl)
    | with_reducible apply Keeps.modSlice
    | with_reducible apply Keeps.holdSpill
    | with_reducible refine KeepsItem.out_done ?_ (by assumption)
    | with_reducible refine KeepsItem.out_stop ?_ (by assumption)
    | with_reducible refine KeepsItem.out_miss ?_ (by assumption)
    | with_reducible refine KeepsItem.out_wait ?_ (by assumption)
    | exact (rfl : (_ : List (Fin 132)) = _)
    | split

theorem Keeps.goSpilling {z : State} {s : State} {n : Fin 132} (hk : Keeps z s) :
    Keeps z (State.goSpilling s n) := by
  dsimp only [State.goSpilling]
  repeat' first
    | with_reducible assumption
    | with_reducible apply Keeps.spillNext
    | with_reducible apply Keeps.finishScatters
    | with_reducible refine KeepsItem.out_done ?_ (by assumption)
    | with_reducible refine KeepsItem.out_stop ?_ (by assumption)
    | with_reducible refine KeepsItem.out_miss ?_ (by assumption)
    | with_reducible refine KeepsItem.out_wait ?_ (by assumption)
    | split

theorem Keeps.execScatterRecord {z : State} {sl : Fin 132} {s : State} (hk : Keeps z s) :
    KeepsX z (Sys2Proof.Machine.execScatterRecord sl s) := by
  dsimp only [Sys2Proof.Machine.execScatterRecord]
  repeat' first
    | with_reducible assumption
    | ((with_reducible apply Slice.staysDead_of); intro _; rfl)
    | with_reducible apply Keeps.modSlice
    | with_reducible apply Keeps.hashRecord
    | with_reducible apply Keeps.goSpilling
    | with_reducible exact KeepsX.fault
    | with_reducible apply KeepsX.next
    | with_reducible refine KeepsO.out ?_ (by assumption)
    | with_reducible refine KeepsItem.out_done ?_ (by assumption)
    | with_reducible refine KeepsItem.out_stop ?_ (by assumption)
    | with_reducible refine KeepsItem.out_miss ?_ (by assumption)
    | with_reducible refine KeepsItem.out_wait ?_ (by assumption)
    | exact (rfl : (_ : List (Fin 132)) = _)
    | split

theorem Keeps.mergeFetch {z : State} {s : State} {n : Fin 132} {x : Step} {r : Role} {i : Nat} (hk : Keeps z s) :
    Keeps z (State.mergeFetch s n x r i) := by
  dsimp only [State.mergeFetch]
  repeat' first
    | with_reducible assumption
    | with_reducible apply Keeps.failTile
    | with_reducible apply Keeps.need
    | with_reducible apply Keeps.stopHere
    | with_reducible apply Keeps.ask
    | with_reducible apply Keeps.settleShares
    | with_reducible apply Keeps.giveSlot
    | with_reducible apply Keeps.fetchTile
    | with_reducible refine KeepsO.out ?_ (by assumption)
    | with_reducible refine KeepsItem.out_done ?_ (by assumption)
    | with_reducible refine KeepsItem.out_stop ?_ (by assumption)
    | with_reducible refine KeepsItem.out_miss ?_ (by assumption)
    | with_reducible refine KeepsItem.out_wait ?_ (by assumption)
    | split

theorem Keeps.withTile {z : State} {s : State} {n : Fin 132} {x : Step} {h : Share} {r : Role} {i : Nat}
    {go : State → State → Expanded → SlotTile → State} (hk : Keeps z s)
    (hg : ∀ t u e q, Keeps z t → Keeps z u → Keeps z (go t u e q)) : Keeps z (s.withTile n x h r i go) := by
  dsimp only [State.withTile]
  repeat' first
    | with_reducible assumption
    | with_reducible apply hg
    | with_reducible apply Keeps.mergeFetch
    | with_reducible apply Keeps.settleShares
    | with_reducible apply Keeps.stopHere
    | with_reducible apply Keeps.countIntegrity
    | with_reducible apply Keeps.spendCodec
    | with_reducible apply Keeps.progress
    | with_reducible apply Keeps.useHead
    | split

theorem Keeps.modMerge {z : State} {s : State} {n : Fin 132} {slot : Nat} {f : MergeWork → MergeWork} (hk : Keeps z s) :
    Keeps z (State.modMerge s n slot f) := by
  dsimp only [State.modMerge]
  repeat' first
    | with_reducible assumption
    | with_reducible apply Keeps.modShare

theorem Keeps.endMerge {z : State} {s : State} {n : Fin 132} {slot : Nat} (hk : Keeps z s) :
    Keeps z (State.endMerge s n slot) := by
  dsimp only [State.endMerge]
  repeat' first
    | with_reducible assumption
    | with_reducible apply Keeps.modShare
    | with_reducible apply Keeps.settleShare

theorem Keeps.endRound {z : State} {s : State} {n : Fin 132} {x : Step} {o : AccSet} (hk : Keeps z s) :
    Keeps z (State.endRound s n x o) := by
  dsimp only [State.endRound]
  repeat' first
    | with_reducible assumption
    | ((with_reducible apply Slice.staysDead_of); intro _; rfl)
    | with_reducible apply Keeps.modSlice
    | with_reducible apply Keeps.modShares
    | with_reducible apply Keeps.progress
    | with_reducible apply Keeps.settleShares
    | with_reducible apply Keeps.modFills
    | with_reducible apply Keeps.each
    | with_reducible refine KeepsItem.out_done ?_ (by assumption)
    | with_reducible refine KeepsItem.out_stop ?_ (by assumption)
    | with_reducible refine KeepsItem.out_miss ?_ (by assumption)
    | with_reducible refine KeepsItem.out_wait ?_ (by assumption)
    | exact (rfl : (_ : List (Fin 132)) = _)
    | split
    | dsimp only
    | intro _

theorem Keeps.reportDiscards {z : State} {s : State} {n : Fin 132} {slot k : Nat} (hk : Keeps z s) :
    Keeps z (State.reportDiscards s n slot k) := by
  dsimp only [State.reportDiscards]
  repeat' first
    | with_reducible assumption
    | with_reducible apply Keeps.progress
    | with_reducible refine KeepsItem.out_done ?_ (by assumption)
    | with_reducible refine KeepsItem.out_stop ?_ (by assumption)
    | with_reducible refine KeepsItem.out_miss ?_ (by assumption)
    | with_reducible refine KeepsItem.out_wait ?_ (by assumption)
    | exact (rfl : (_ : List (Fin 132)) = _)
    | split

theorem Keeps.mergeRead {z : State} {s : State} {n : Fin 132} {x : Step} {h : Share} {o : AccSet} {w : MergeWork} (hk : Keeps z s) :
    Keeps z (State.mergeRead s n x h o w) := by
  dsimp only [State.mergeRead]
  repeat' first
    | with_reducible assumption
    | ((with_reducible apply Slice.staysDead_of); intro _; rfl)
    | with_reducible apply Keeps.modSlice
    | with_reducible apply Keeps.modShare
    | with_reducible apply Keeps.stopHere
    | with_reducible apply Keeps.ask
    | with_reducible apply Keeps.settleShares
    | with_reducible apply Keeps.withTile
    | with_reducible apply Keeps.modMerge
    | with_reducible apply Keeps.reportDiscards
    | with_reducible refine KeepsItem.out_done ?_ (by assumption)
    | with_reducible refine KeepsItem.out_stop ?_ (by assumption)
    | with_reducible refine KeepsItem.out_miss ?_ (by assumption)
    | with_reducible refine KeepsItem.out_wait ?_ (by assumption)
    | exact (rfl : (_ : List (Fin 132)) = _)
    | split
    | dsimp only
    | intro _

theorem Keeps.mergeStore {z : State} {s : State} {n : Fin 132} {x : Step} {u : Use} {k d : Nat} {es : List AccEntry} {vs : List Nat} {hurt : Bool} {place : Nat} (hk : Keeps z s) :
    Keeps z (State.mergeStore s n x u k d es vs hurt place) := by
  dsimp only [State.mergeStore]
  repeat' first
    | with_reducible assumption
    | ((with_reducible apply Slice.staysDead_of); intro _; rfl)
    | with_reducible apply Keeps.modSlice
    | with_reducible apply Keeps.spendCodec
    | with_reducible apply Keeps.emit
    | with_reducible apply Keeps.modMerge
    | with_reducible refine KeepsItem.out_done ?_ (by assumption)
    | with_reducible refine KeepsItem.out_stop ?_ (by assumption)
    | with_reducible refine KeepsItem.out_miss ?_ (by assumption)
    | with_reducible refine KeepsItem.out_wait ?_ (by assumption)
    | exact (rfl : (_ : List (Fin 132)) = _)
    | split

theorem Keeps.mergeWrite {z : State} {s : State} {n : Fin 132} {x : Step} {h : Share} {k : Nat} (hk : Keeps z s) :
    Keeps z (State.mergeWrite s n x h k) := by
  dsimp only [State.mergeWrite]
  repeat' first
    | with_reducible assumption
    | ((with_reducible apply Slice.staysDead_of); intro _; rfl)
    | with_reducible apply Keeps.modSlice
    | with_reducible apply Keeps.need
    | with_reducible apply Keeps.stopHere
    | with_reducible apply Keeps.ask
    | with_reducible apply Keeps.settleShares
    | with_reducible apply Keeps.withTile
    | with_reducible apply Keeps.modMerge
    | with_reducible apply Keeps.reportDiscards
    | with_reducible apply Keeps.mergeStore
    | with_reducible refine KeepsO.out ?_ (by assumption)
    | with_reducible refine KeepsItem.out_done ?_ (by assumption)
    | with_reducible refine KeepsItem.out_stop ?_ (by assumption)
    | with_reducible refine KeepsItem.out_miss ?_ (by assumption)
    | with_reducible refine KeepsItem.out_wait ?_ (by assumption)
    | exact (rfl : (_ : List (Fin 132)) = _)
    | split
    | dsimp only
    | intro _

theorem Keeps.mergeEnd {z : State} {s : State} {n : Fin 132} {x : Step} {h : Share} {o : AccSet} (hk : Keeps z s) :
    Keeps z (State.mergeEnd s n x h o) := by
  dsimp only [State.mergeEnd]
  repeat' first
    | with_reducible assumption
    | with_reducible apply Keeps.modShare
    | with_reducible apply Keeps.endMerge
    | with_reducible apply Keeps.endRound
    | with_reducible refine KeepsItem.out_done ?_ (by assumption)
    | with_reducible refine KeepsItem.out_stop ?_ (by assumption)
    | with_reducible refine KeepsItem.out_miss ?_ (by assumption)
    | with_reducible refine KeepsItem.out_wait ?_ (by assumption)
    | exact (rfl : (_ : List (Fin 132)) = _)
    | split

theorem Keeps.execMergeOutRound {z : State} {sl : Fin 132} {s : State} (hk : Keeps z s) :
    KeepsX z (Sys2Proof.Machine.execMergeOutRound sl s) := by
  dsimp only [Sys2Proof.Machine.execMergeOutRound]
  repeat' first
    | with_reducible assumption
    | with_reducible apply Keeps.modShare
    | with_reducible apply Keeps.settleShares
    | with_reducible apply Keeps.spillNext
    | with_reducible apply Keeps.endMerge
    | with_reducible apply Keeps.mergeRead
    | with_reducible apply Keeps.mergeWrite
    | with_reducible apply Keeps.mergeEnd
    | with_reducible exact KeepsX.fault
    | with_reducible apply KeepsX.next
    | with_reducible refine KeepsO.out ?_ (by assumption)
    | with_reducible refine KeepsItem.out_done ?_ (by assumption)
    | with_reducible refine KeepsItem.out_stop ?_ (by assumption)
    | with_reducible refine KeepsItem.out_miss ?_ (by assumption)
    | with_reducible refine KeepsItem.out_wait ?_ (by assumption)
    | exact (rfl : (_ : List (Fin 132)) = _)
    | split

end Sys2Proof.Machine
end

