-- ==== Sys2Proof/Laws/KeepsLinks.lean ====
section
/-! SUPPORT. Keeps, for the operations of Machine/Links.lean. -/
namespace Sys2Proof.Machine

theorem Keeps.execLRxBeat {z : State} {ls : Fin 16} {b : LBeat} {s : State} (hk : Keeps z s) :
    KeepsX z (Sys2Proof.Machine.execLRxBeat ls b s) := by
  dsimp only [Sys2Proof.Machine.execLRxBeat]
  repeat' first
    | with_reducible assumption
    | with_reducible apply Keeps.modLink
    | with_reducible apply Keeps.spend
    | with_reducible exact KeepsX.fault
    | with_reducible apply KeepsX.next
    | with_reducible refine KeepsO.out ?_ (by assumption)
    | with_reducible refine KeepsItem.out_done ?_ (by assumption)
    | with_reducible refine KeepsItem.out_stop ?_ (by assumption)
    | with_reducible refine KeepsItem.out_miss ?_ (by assumption)
    | with_reducible refine KeepsItem.out_wait ?_ (by assumption)
    | exact (rfl : (_ : List (Fin 132)) = _)
    | split

theorem Keeps.modFrame {z : State} {s : State} {l : Fin 16} {number : Nat} {f : RxFrame → RxFrame} (hk : Keeps z s) :
    Keeps z (State.modFrame s l number f) := by
  dsimp only [State.modFrame]
  repeat' first
    | with_reducible assumption
    | with_reducible apply Keeps.modLink

theorem Keeps.dropFrames {z : State} {s : State} {l : Fin 16} (hk : Keeps z s) :
    Keeps z (State.dropFrames s l) := by
  dsimp only [State.dropFrames]
  repeat' first
    | with_reducible assumption
    | with_reducible apply Keeps.modLink

theorem Keeps.execIngressWordRead {z : State} {ls : Fin 16} {s : State} (hk : Keeps z s) :
    KeepsX z (Sys2Proof.Machine.execIngressWordRead ls s) := by
  dsimp only [Sys2Proof.Machine.execIngressWordRead]
  repeat' first
    | with_reducible assumption
    | with_reducible apply Keeps.modFrame
    | with_reducible apply Keeps.dropFrames
    | with_reducible exact KeepsX.fault
    | with_reducible apply KeepsX.next
    | with_reducible refine KeepsO.out ?_ (by assumption)
    | with_reducible refine KeepsItem.out_done ?_ (by assumption)
    | with_reducible refine KeepsItem.out_stop ?_ (by assumption)
    | with_reducible refine KeepsItem.out_miss ?_ (by assumption)
    | with_reducible refine KeepsItem.out_wait ?_ (by assumption)
    | exact (rfl : (_ : List (Fin 132)) = _)
    | split

theorem Keeps.frameDone {z : State} {s : State} {l : Fin 16} {number : Nat} (hk : Keeps z s) :
    Keeps z (State.frameDone s l number) := by
  dsimp only [State.frameDone]
  repeat' first
    | with_reducible assumption
    | with_reducible apply Keeps.modFrame
    | with_reducible apply Keeps.dropFrames

theorem Keeps.forwardTiles {z : State} {s : State} {l : Fin 16} {f : RxFrame} {x : Step} {ts : List (Nat × SlotTile)} (hk : Keeps z s) :
    Keeps z (State.forwardTiles s l f x ts) := by
  dsimp only [State.forwardTiles]
  repeat' first
    | with_reducible assumption
    | with_reducible apply Keeps.post
    | with_reducible apply Keeps.modFrame
    | with_reducible apply Keeps.each
    | with_reducible refine KeepsItem.out_done ?_ (by assumption)
    | with_reducible refine KeepsItem.out_stop ?_ (by assumption)
    | with_reducible refine KeepsItem.out_miss ?_ (by assumption)
    | with_reducible refine KeepsItem.out_wait ?_ (by assumption)
    | exact (rfl : (_ : List (Fin 132)) = _)
    | split
    | dsimp only
    | intro _

theorem Keeps.matchData {z : State} {s : State} {l : Fin 16} {f : RxFrame} {x : Step} (hk : Keeps z s) :
    Keeps z (State.matchData s l f x) := by
  dsimp only [State.matchData]
  repeat' first
    | with_reducible assumption
    | with_reducible apply Keeps.modStep
    | with_reducible apply Keeps.modFrame
    | with_reducible refine KeepsItem.out_done ?_ (by assumption)
    | with_reducible refine KeepsItem.out_stop ?_ (by assumption)
    | with_reducible refine KeepsItem.out_miss ?_ (by assumption)
    | with_reducible refine KeepsItem.out_wait ?_ (by assumption)
    | exact (rfl : (_ : List (Fin 132)) = _)
    | split

theorem Keeps.forwardData {z : State} {s : State} {l : Fin 16} {f : RxFrame} {x : Step} (hk : Keeps z s) :
    Keeps z (State.forwardData s l f x) := by
  dsimp only [State.forwardData]
  repeat' first
    | with_reducible assumption
    | with_reducible apply Keeps.tallyAdd
    | with_reducible apply Keeps.modStep
    | with_reducible apply Keeps.modFrame
    | with_reducible apply Keeps.forwardTiles

theorem Keeps.endData {z : State} {s : State} {l : Fin 16} {f : RxFrame} {x : Step} (hk : Keeps z s) :
    Keeps z (State.endData s l f x) := by
  dsimp only [State.endData]
  repeat' first
    | with_reducible assumption
    | with_reducible apply Keeps.modLink
    | with_reducible apply Keeps.modFrame

theorem Keeps.takeData {z : State} {s : State} {l : Fin 16} {f : RxFrame} {x : Step} (hk : Keeps z s) :
    Keeps z (State.takeData s l f x) := by
  dsimp only [State.takeData]
  repeat' first
    | with_reducible assumption
    | with_reducible apply Keeps.matchData
    | with_reducible apply Keeps.forwardData
    | with_reducible apply Keeps.endData
    | with_reducible refine KeepsItem.out_done ?_ (by assumption)
    | with_reducible refine KeepsItem.out_stop ?_ (by assumption)
    | with_reducible refine KeepsItem.out_miss ?_ (by assumption)
    | with_reducible refine KeepsItem.out_wait ?_ (by assumption)
    | split

theorem Keeps.dueEntries {z : State} {s : State} {l : Fin 16} {f : RxFrame} {bad : Bool} {x : Step} (hk : Keeps z s) :
    Keeps z (State.dueEntries s l f bad x) := by
  dsimp only [State.dueEntries]
  repeat' first
    | with_reducible assumption
    | with_reducible apply Keeps.modLink
    | with_reducible refine KeepsItem.out_done ?_ (by assumption)
    | with_reducible refine KeepsItem.out_stop ?_ (by assumption)
    | with_reducible refine KeepsItem.out_miss ?_ (by assumption)
    | with_reducible refine KeepsItem.out_wait ?_ (by assumption)
    | exact (rfl : (_ : List (Fin 132)) = _)
    | split

theorem Keeps.dataBad {z : State} {s : State} {l : Fin 16} {f : RxFrame} (hk : Keeps z s) :
    Keeps z (State.dataBad s l f) := by
  dsimp only [State.dataBad]
  repeat' first
    | with_reducible assumption
    | with_reducible apply Keeps.countIntegrity
    | with_reducible apply Keeps.modStep
    | with_reducible apply Keeps.forwardTiles
    | with_reducible refine KeepsItem.out_done ?_ (by assumption)
    | with_reducible refine KeepsItem.out_stop ?_ (by assumption)
    | with_reducible refine KeepsItem.out_miss ?_ (by assumption)
    | with_reducible refine KeepsItem.out_wait ?_ (by assumption)
    | exact (rfl : (_ : List (Fin 132)) = _)
    | split

theorem Keeps.endRequest {z : State} {s : State} {l : Fin 16} {r : RemoteRead} (hk : Keeps z s) :
    Keeps z (State.endRequest s l r) := by
  dsimp only [State.endRequest]
  repeat' first
    | with_reducible assumption
    | with_reducible apply Keeps.modLink

theorem Keeps.answerBad {z : State} {s : State} {l : Fin 16} {f : RxFrame} {bad : Bool} (hk : Keeps z s) :
    Keeps z (State.answerBad s l f bad) := by
  dsimp only [State.answerBad]
  repeat' first
    | with_reducible assumption
    | with_reducible apply Keeps.countIntegrity
    | with_reducible apply Keeps.post
    | with_reducible apply Keeps.failFetch
    | with_reducible apply Keeps.endRequest
    | with_reducible refine KeepsItem.out_done ?_ (by assumption)
    | with_reducible refine KeepsItem.out_stop ?_ (by assumption)
    | with_reducible refine KeepsItem.out_miss ?_ (by assumption)
    | with_reducible refine KeepsItem.out_wait ?_ (by assumption)
    | split

theorem Keeps.sendCredits {z : State} {s : State} {l : Fin 16} {due : Uncredited → Bool} (hk : Keeps z s) :
    Keeps z (State.sendCredits s l due) := by
  dsimp only [State.sendCredits]
  repeat' first
    | with_reducible assumption
    | with_reducible apply Keeps.modLink
    | with_reducible apply Keeps.draw
    | with_reducible apply Keeps.queueFrame
    | with_reducible apply Keeps.each
    | with_reducible refine KeepsItem.out_done ?_ (by assumption)
    | with_reducible refine KeepsItem.out_stop ?_ (by assumption)
    | with_reducible refine KeepsItem.out_miss ?_ (by assumption)
    | with_reducible refine KeepsItem.out_wait ?_ (by assumption)
    | exact (rfl : (_ : List (Fin 132)) = _)
    | split
    | dsimp only
    | intro _

theorem Keeps.judgeCredits {z : State} {s : State} {l : Fin 16} {number : Nat} (hk : Keeps z s) :
    Keeps z (State.judgeCredits s l number) := by
  dsimp only [State.judgeCredits]
  repeat' first
    | with_reducible assumption
    | with_reducible apply Keeps.modLink
    | with_reducible apply Keeps.sendCredits

theorem Keeps.settleFrame {z : State} {s : State} {l : Fin 16} {number : Nat} (hk : Keeps z s) :
    Keeps z (State.settleFrame s l number) := by
  dsimp only [State.settleFrame]
  repeat' first
    | with_reducible assumption
    | with_reducible apply Keeps.post
    | with_reducible apply Keeps.lose
    | with_reducible apply Keeps.dropFrames
    | with_reducible apply Keeps.frameDone
    | with_reducible apply Keeps.dueEntries
    | with_reducible apply Keeps.dataBad
    | with_reducible apply Keeps.answerBad
    | with_reducible apply Keeps.judgeCredits
    | with_reducible apply Keeps.each
    | with_reducible refine KeepsItem.out_done ?_ (by assumption)
    | with_reducible refine KeepsItem.out_stop ?_ (by assumption)
    | with_reducible refine KeepsItem.out_miss ?_ (by assumption)
    | with_reducible refine KeepsItem.out_wait ?_ (by assumption)
    | split
    | dsimp only
    | intro _

theorem Keeps.execFrameVerdict {z : State} {ls : Fin 16} {bad : Bool} {s : State} (hk : Keeps z s) :
    KeepsX z (Sys2Proof.Machine.execFrameVerdict ls bad s) := by
  dsimp only [Sys2Proof.Machine.execFrameVerdict]
  repeat' first
    | with_reducible assumption
    | with_reducible apply Keeps.modFrame
    | with_reducible apply Keeps.settleFrame
    | with_reducible exact KeepsX.fault
    | with_reducible apply KeepsX.next
    | with_reducible refine KeepsO.out ?_ (by assumption)
    | with_reducible refine KeepsItem.out_done ?_ (by assumption)
    | with_reducible refine KeepsItem.out_stop ?_ (by assumption)
    | with_reducible refine KeepsItem.out_miss ?_ (by assumption)
    | with_reducible refine KeepsItem.out_wait ?_ (by assumption)
    | exact (rfl : (_ : List (Fin 132)) = _)
    | split

theorem Keeps.discardFrame {z : State} {s : State} {l : Fin 16} {f : RxFrame} {bad : Bool} (hk : Keeps z s) :
    Keeps z (State.discardFrame s l f bad) := by
  dsimp only [State.discardFrame]
  repeat' first
    | with_reducible assumption
    | with_reducible apply Keeps.raise
    | with_reducible apply Keeps.frameDone
    | with_reducible refine KeepsItem.out_done ?_ (by assumption)
    | with_reducible refine KeepsItem.out_stop ?_ (by assumption)
    | with_reducible refine KeepsItem.out_miss ?_ (by assumption)
    | with_reducible refine KeepsItem.out_wait ?_ (by assumption)
    | split

theorem Keeps.execDataFrame {z : State} {ls : Fin 16} {s : State} (hk : Keeps z s) :
    KeepsX z (Sys2Proof.Machine.execDataFrame ls s) := by
  dsimp only [Sys2Proof.Machine.execDataFrame]
  repeat' first
    | with_reducible assumption
    | with_reducible apply Keeps.takeData
    | with_reducible apply Keeps.settleFrame
    | with_reducible apply Keeps.discardFrame
    | with_reducible exact KeepsX.fault
    | with_reducible apply KeepsX.next
    | with_reducible refine KeepsO.out ?_ (by assumption)
    | with_reducible refine KeepsItem.out_done ?_ (by assumption)
    | with_reducible refine KeepsItem.out_stop ?_ (by assumption)
    | with_reducible refine KeepsItem.out_miss ?_ (by assumption)
    | with_reducible refine KeepsItem.out_wait ?_ (by assumption)
    | split

theorem Keeps.serveRequest {z : State} {s : State} {l : Fin 16} {h : FrameHeader} (hk : Keeps z s) :
    Keeps z (State.serveRequest s l h) := by
  dsimp only [State.serveRequest]
  repeat' first
    | with_reducible assumption
    | with_reducible apply Keeps.post
    | with_reducible apply Keeps.answerAbsent
    | with_reducible apply Keeps.each
    | with_reducible refine KeepsItem.out_done ?_ (by assumption)
    | with_reducible refine KeepsItem.out_stop ?_ (by assumption)
    | with_reducible refine KeepsItem.out_miss ?_ (by assumption)
    | with_reducible refine KeepsItem.out_wait ?_ (by assumption)
    | split
    | dsimp only
    | intro _

theorem Keeps.execRread {z : State} {ls : Fin 16} {s : State} (hk : Keeps z s) :
    KeepsX z (Sys2Proof.Machine.execRread ls s) := by
  dsimp only [Sys2Proof.Machine.execRread]
  repeat' first
    | with_reducible assumption
    | with_reducible apply Keeps.frameDone
    | with_reducible apply Keeps.discardFrame
    | with_reducible apply Keeps.serveRequest
    | with_reducible exact KeepsX.fault
    | with_reducible apply KeepsX.next
    | with_reducible refine KeepsO.out ?_ (by assumption)
    | with_reducible refine KeepsItem.out_done ?_ (by assumption)
    | with_reducible refine KeepsItem.out_stop ?_ (by assumption)
    | with_reducible refine KeepsItem.out_miss ?_ (by assumption)
    | with_reducible refine KeepsItem.out_wait ?_ (by assumption)
    | split

theorem Keeps.takeAnswer {z : State} {s : State} {l : Fin 16} {f : RxFrame} {r : RemoteRead} (hk : Keeps z s) :
    Keeps z (State.takeAnswer s l f r) := by
  dsimp only [State.takeAnswer]
  repeat' first
    | with_reducible assumption
    | with_reducible apply Keeps.tallyAdd
    | with_reducible apply Keeps.post
    | with_reducible apply Keeps.modFrame
    | with_reducible apply Keeps.endRequest
    | with_reducible refine KeepsItem.out_done ?_ (by assumption)
    | with_reducible refine KeepsItem.out_stop ?_ (by assumption)
    | with_reducible refine KeepsItem.out_miss ?_ (by assumption)
    | with_reducible refine KeepsItem.out_wait ?_ (by assumption)
    | exact (rfl : (_ : List (Fin 132)) = _)
    | split

theorem Keeps.execRdata {z : State} {ls : Fin 16} {s : State} (hk : Keeps z s) :
    KeepsX z (Sys2Proof.Machine.execRdata ls s) := by
  dsimp only [Sys2Proof.Machine.execRdata]
  repeat' first
    | with_reducible assumption
    | with_reducible apply Keeps.settleFrame
    | with_reducible apply Keeps.discardFrame
    | with_reducible apply Keeps.takeAnswer
    | with_reducible exact KeepsX.fault
    | with_reducible apply KeepsX.next
    | with_reducible refine KeepsO.out ?_ (by assumption)
    | with_reducible refine KeepsItem.out_done ?_ (by assumption)
    | with_reducible refine KeepsItem.out_stop ?_ (by assumption)
    | with_reducible refine KeepsItem.out_miss ?_ (by assumption)
    | with_reducible refine KeepsItem.out_wait ?_ (by assumption)
    | split

theorem Keeps.execAbsentFrame {z : State} {ls : Fin 16} {s : State} (hk : Keeps z s) :
    KeepsX z (Sys2Proof.Machine.execAbsentFrame ls s) := by
  dsimp only [Sys2Proof.Machine.execAbsentFrame]
  repeat' first
    | with_reducible assumption
    | with_reducible apply Keeps.failFetch
    | with_reducible apply Keeps.missFetch
    | with_reducible apply Keeps.frameDone
    | with_reducible apply Keeps.endRequest
    | with_reducible apply Keeps.discardFrame
    | with_reducible exact KeepsX.fault
    | with_reducible apply KeepsX.next
    | with_reducible refine KeepsO.out ?_ (by assumption)
    | with_reducible refine KeepsItem.out_done ?_ (by assumption)
    | with_reducible refine KeepsItem.out_stop ?_ (by assumption)
    | with_reducible refine KeepsItem.out_miss ?_ (by assumption)
    | with_reducible refine KeepsItem.out_wait ?_ (by assumption)
    | split

theorem Keeps.execCreditTimer {z : State} {ls : Fin 16} {s : State} (hk : Keeps z s) :
    KeepsX z (Sys2Proof.Machine.execCreditTimer ls s) := by
  dsimp only [Sys2Proof.Machine.execCreditTimer]
  repeat' first
    | with_reducible assumption
    | with_reducible apply Keeps.sendCredits
    | with_reducible exact KeepsX.fault
    | with_reducible apply KeepsX.next
    | with_reducible refine KeepsO.out ?_ (by assumption)
    | with_reducible refine KeepsItem.out_done ?_ (by assumption)
    | with_reducible refine KeepsItem.out_stop ?_ (by assumption)
    | with_reducible refine KeepsItem.out_miss ?_ (by assumption)
    | with_reducible refine KeepsItem.out_wait ?_ (by assumption)
    | split

theorem Keeps.tileVisible {z : State} {s : State} {l : Fin 16} {slot i : Nat} (hk : Keeps z s) :
    Keeps z (State.tileVisible s l slot i) := by
  dsimp only [State.tileVisible]
  repeat' first
    | with_reducible assumption
    | with_reducible apply Keeps.modLink
    | with_reducible apply Keeps.pushStation
    | with_reducible apply Keeps.sendCredits

theorem Keeps.receiverDone {z : State} {s : State} {l : Fin 16} {slot number : Nat} (hk : Keeps z s) :
    Keeps z (State.receiverDone s l slot number) := by
  dsimp only [State.receiverDone]
  repeat' first
    | with_reducible assumption
    | with_reducible apply Keeps.modLink
    | with_reducible apply Keeps.report

theorem Keeps.settleReceivers {z : State} {s : State} {l : Fin 16} (hk : Keeps z s) :
    Keeps z (State.settleReceivers s l) := by
  dsimp only [State.settleReceivers]
  repeat' first
    | with_reducible assumption
    | with_reducible apply Keeps.receiverDone
    | with_reducible apply Keeps.each
    | with_reducible refine KeepsItem.out_done ?_ (by assumption)
    | with_reducible refine KeepsItem.out_stop ?_ (by assumption)
    | with_reducible refine KeepsItem.out_miss ?_ (by assumption)
    | with_reducible refine KeepsItem.out_wait ?_ (by assumption)
    | split
    | dsimp only
    | intro _

theorem Keeps.execCreditFrame {z : State} {ls : Fin 16} {s : State} (hk : Keeps z s) :
    KeepsX z (Sys2Proof.Machine.execCreditFrame ls s) := by
  dsimp only [Sys2Proof.Machine.execCreditFrame]
  repeat' first
    | with_reducible assumption
    | with_reducible apply Keeps.modLink
    | with_reducible apply Keeps.frameDone
    | with_reducible apply Keeps.discardFrame
    | with_reducible apply Keeps.settleReceivers
    | with_reducible exact KeepsX.fault
    | with_reducible apply KeepsX.next
    | with_reducible refine KeepsO.out ?_ (by assumption)
    | with_reducible refine KeepsItem.out_done ?_ (by assumption)
    | with_reducible refine KeepsItem.out_stop ?_ (by assumption)
    | with_reducible refine KeepsItem.out_miss ?_ (by assumption)
    | with_reducible refine KeepsItem.out_wait ?_ (by assumption)
    | exact (rfl : (_ : List (Fin 132)) = _)
    | split

theorem Keeps.execLsend {z : State} {ls : Fin 16} {src : UnitId} {s : State} (hk : Keeps z s) :
    KeepsX z (Sys2Proof.Machine.execLsend ls src s) := by
  dsimp only [Sys2Proof.Machine.execLsend]
  repeat' first
    | with_reducible assumption
    | with_reducible apply Keeps.modLink
    | with_reducible apply Keeps.post
    | with_reducible apply Keeps.each
    | with_reducible exact KeepsX.fault
    | with_reducible apply KeepsX.next
    | with_reducible refine Keeps.recvTxn ?_ (by assumption)
    | with_reducible refine KeepsO.out ?_ (by assumption)
    | with_reducible refine KeepsItem.out_done ?_ (by assumption)
    | with_reducible refine KeepsItem.out_stop ?_ (by assumption)
    | with_reducible refine KeepsItem.out_miss ?_ (by assumption)
    | with_reducible refine KeepsItem.out_wait ?_ (by assumption)
    | exact (rfl : (_ : List (Fin 132)) = _)
    | split
    | dsimp only
    | intro _

theorem Keeps.detach {z : State} {s : State} {l : Fin 16} {x : Step} {v : Receiver} (hk : Keeps z s) :
    Keeps z (State.detach s l x v) := by
  dsimp only [State.detach]
  repeat' first
    | with_reducible assumption
    | ((with_reducible apply Hub.sparesStay_of); intro _; rfl)
    | with_reducible apply Keeps.modHub
    | with_reducible apply Keeps.modLink
    | with_reducible apply Keeps.post
    | with_reducible apply Keeps.modStep
    | with_reducible apply Keeps.dispatch
    | with_reducible apply Keeps.each
    | with_reducible refine KeepsItem.out_done ?_ (by assumption)
    | with_reducible refine KeepsItem.out_stop ?_ (by assumption)
    | with_reducible refine KeepsItem.out_miss ?_ (by assumption)
    | with_reducible refine KeepsItem.out_wait ?_ (by assumption)
    | exact (rfl : (_ : List (Fin 132)) = _)
    | split
    | dsimp only
    | intro _

theorem Keeps.putFrame {z : State} {s : State} {l : Fin 16} {bytes : Bytes} (hk : Keeps z s) :
    Keeps z (State.putFrame s l bytes) := by
  dsimp only [State.putFrame]
  repeat' first
    | with_reducible assumption
    | with_reducible apply Keeps.modLink
    | with_reducible apply Keeps.spend

theorem Keeps.sendQueued {z : State} {s : State} {l : Fin 16} {f : TxFrame} {rest : List TxFrame} (hk : Keeps z s) :
    Keeps z (State.sendQueued s l f rest) := by
  dsimp only [State.sendQueued]
  repeat' first
    | with_reducible assumption
    | with_reducible apply Keeps.modLink
    | with_reducible apply Keeps.tallyAdd
    | with_reducible apply Keeps.putFrame
    | with_reducible refine KeepsItem.out_done ?_ (by assumption)
    | with_reducible refine KeepsItem.out_stop ?_ (by assumption)
    | with_reducible refine KeepsItem.out_miss ?_ (by assumption)
    | with_reducible refine KeepsItem.out_wait ?_ (by assumption)
    | exact (rfl : (_ : List (Fin 132)) = _)
    | split

theorem Keeps.sendData {z : State} {s : State} {l : Fin 16} {x : Step} {v : Receiver} {rs : List TxRecord} {last : Bool} (hk : Keeps z s) :
    Keeps z (State.sendData s l x v rs last) := by
  dsimp only [State.sendData]
  repeat' first
    | with_reducible assumption
    | with_reducible apply Keeps.modLink
    | with_reducible apply Keeps.tallyAdd
    | with_reducible apply Keeps.report
    | with_reducible apply Keeps.settleReceivers
    | with_reducible apply Keeps.putFrame
    | with_reducible refine KeepsItem.out_done ?_ (by assumption)
    | with_reducible refine KeepsItem.out_stop ?_ (by assumption)
    | with_reducible refine KeepsItem.out_miss ?_ (by assumption)
    | with_reducible refine KeepsItem.out_wait ?_ (by assumption)
    | exact (rfl : (_ : List (Fin 132)) = _)
    | split

theorem Keeps.endReceiver {z : State} {s : State} {l : Fin 16} {v : Receiver} (hk : Keeps z s) :
    Keeps z (State.endReceiver s l v) := by
  dsimp only [State.endReceiver]
  repeat' first
    | with_reducible assumption
    | with_reducible apply Keeps.modLink
    | with_reducible apply Keeps.settleReceivers

theorem Keeps.serveReceiver {z : State} {s : State} {l : Fin 16} {v : Receiver} (hk : Keeps z s) :
    KeepsO z (State.serveReceiver s l v) := by
  dsimp only [State.serveReceiver]
  repeat' first
    | with_reducible assumption
    | with_reducible apply Keeps.lose
    | with_reducible apply Keeps.detach
    | with_reducible apply Keeps.sendData
    | with_reducible apply Keeps.endReceiver
    | with_reducible exact KeepsO.none
    | with_reducible apply KeepsO.some
    | with_reducible refine KeepsItem.out_done ?_ (by assumption)
    | with_reducible refine KeepsItem.out_stop ?_ (by assumption)
    | with_reducible refine KeepsItem.out_miss ?_ (by assumption)
    | with_reducible refine KeepsItem.out_wait ?_ (by assumption)
    | split

theorem Keeps.execFrameSend {z : State} {ls : Fin 16} {s : State} (hk : Keeps z s) :
    KeepsX z (Sys2Proof.Machine.execFrameSend ls s) := by
  dsimp only [Sys2Proof.Machine.execFrameSend]
  repeat' first
    | with_reducible assumption
    | with_reducible apply Keeps.sendQueued
    | with_reducible apply Keeps.serveReceiver
    | with_reducible apply KeepsO.findSome
    | with_reducible apply KeepsO.bind
    | with_reducible apply KeepsO.getD
    | with_reducible exact KeepsX.fault
    | with_reducible apply KeepsX.next
    | with_reducible refine KeepsO.out ?_ (by assumption)
    | with_reducible refine KeepsItem.out_done ?_ (by assumption)
    | with_reducible refine KeepsItem.out_stop ?_ (by assumption)
    | with_reducible refine KeepsItem.out_miss ?_ (by assumption)
    | with_reducible refine KeepsItem.out_wait ?_ (by assumption)
    | split
    | dsimp only
    | intro _

end Sys2Proof.Machine
end

