-- ==== Sys2Proof/Laws/KeepsTxns.lean ====
section
/-! SUPPORT. Keeps, for the operations of Machine/Txns.lean. -/
namespace Sys2Proof.Machine

theorem Keeps.execAck {z : State} {dst src : UnitId} {s : State} (hk : Keeps z s) :
    KeepsX z (Sys2Proof.Machine.execAck dst src s) := by
  dsimp only [Sys2Proof.Machine.execAck]
  repeat' first
    | with_reducible assumption
    | with_reducible apply Keeps.modStep
    | with_reducible apply Keeps.ackOut
    | with_reducible apply Keeps.tileVisible
    | with_reducible exact KeepsX.fault
    | with_reducible apply KeepsX.next
    | with_reducible refine Keeps.recvTxn ?_ (by assumption)
    | with_reducible refine KeepsO.out ?_ (by assumption)
    | with_reducible refine KeepsItem.out_done ?_ (by assumption)
    | with_reducible refine KeepsItem.out_stop ?_ (by assumption)
    | with_reducible refine KeepsItem.out_miss ?_ (by assumption)
    | with_reducible refine KeepsItem.out_wait ?_ (by assumption)
    | exact (rfl : (_ : List (Fin 132)) = _)
    | split

theorem Keeps.execQpush {z : State} {sl : Fin 132} {src : UnitId} {s : State} (hk : Keeps z s) :
    KeepsX z (Sys2Proof.Machine.execQpush sl src s) := by
  dsimp only [Sys2Proof.Machine.execQpush]
  repeat' first
    | with_reducible assumption
    | with_reducible apply Keeps.modShare
    | with_reducible exact KeepsX.fault
    | with_reducible apply KeepsX.next
    | with_reducible refine Keeps.recvTxn ?_ (by assumption)
    | with_reducible refine KeepsO.out ?_ (by assumption)
    | with_reducible refine KeepsItem.out_done ?_ (by assumption)
    | with_reducible refine KeepsItem.out_stop ?_ (by assumption)
    | with_reducible refine KeepsItem.out_miss ?_ (by assumption)
    | with_reducible refine KeepsItem.out_wait ?_ (by assumption)
    | exact (rfl : (_ : List (Fin 132)) = _)
    | split

theorem Keeps.execCredit {z : State} {dst src : UnitId} {s : State} (hk : Keeps z s) :
    KeepsX z (Sys2Proof.Machine.execCredit dst src s) := by
  dsimp only [Sys2Proof.Machine.execCredit]
  repeat' first
    | with_reducible assumption
    | with_reducible apply Keeps.pushStation
    | with_reducible apply Keeps.flushLink
    | with_reducible apply Keeps.each
    | with_reducible exact KeepsX.fault
    | with_reducible apply KeepsX.next
    | with_reducible refine Keeps.recvTxn ?_ (by assumption)
    | with_reducible refine KeepsO.out ?_ (by assumption)
    | with_reducible refine KeepsItem.out_done ?_ (by assumption)
    | with_reducible refine KeepsItem.out_stop ?_ (by assumption)
    | with_reducible refine KeepsItem.out_miss ?_ (by assumption)
    | with_reducible refine KeepsItem.out_wait ?_ (by assumption)
    | split
    | dsimp only
    | intro _

theorem Keeps.execSummary {z : State} {sl src : Fin 132} {s : State} (hk : Keeps z s) :
    KeepsX z (Sys2Proof.Machine.execSummary sl src s) := by
  dsimp only [Sys2Proof.Machine.execSummary]
  repeat' first
    | with_reducible assumption
    | with_reducible apply Keeps.nRange
    | with_reducible exact KeepsX.fault
    | with_reducible apply KeepsX.next
    | with_reducible refine Keeps.recvTxn ?_ (by assumption)
    | with_reducible refine KeepsO.out ?_ (by assumption)
    | with_reducible refine KeepsItem.out_done ?_ (by assumption)
    | with_reducible refine KeepsItem.out_stop ?_ (by assumption)
    | with_reducible refine KeepsItem.out_miss ?_ (by assumption)
    | with_reducible refine KeepsItem.out_wait ?_ (by assumption)
    | split

theorem Keeps.execAtlas {z : State} {ms src : Fin 12} {s : State} (hk : Keeps z s) :
    KeepsX z (Sys2Proof.Machine.execAtlas ms src s) := by
  dsimp only [Sys2Proof.Machine.execAtlas]
  repeat' first
    | with_reducible assumption
    | with_reducible apply Keeps.need
    | with_reducible apply Keeps.setLeaf
    | with_reducible apply Keeps.leafCame
    | with_reducible apply Keeps.wakeItems
    | with_reducible apply Keeps.failFetch
    | with_reducible apply Keeps.missFetch
    | with_reducible apply Keeps.resolved
    | with_reducible exact KeepsX.fault
    | with_reducible apply KeepsX.next
    | with_reducible refine Keeps.recvTxn ?_ (by assumption)
    | with_reducible refine KeepsO.out ?_ (by assumption)
    | with_reducible refine KeepsItem.out_done ?_ (by assumption)
    | with_reducible refine KeepsItem.out_stop ?_ (by assumption)
    | with_reducible refine KeepsItem.out_miss ?_ (by assumption)
    | with_reducible refine KeepsItem.out_wait ?_ (by assumption)
    | split

theorem Keeps.takeShare {z : State} {s : State} {n : Fin 132} {x : Step} {h : Share} (hk : Keeps z s) :
    Keeps z (State.takeShare s n x h) := by
  dsimp only [State.takeShare]
  repeat' first
    | with_reducible assumption
    | ((with_reducible apply Slice.staysDead_of); intro _; rfl)
    | with_reducible apply Keeps.modSlice
    | with_reducible apply Keeps.post
    | with_reducible apply Keeps.settleShare
    | with_reducible apply Keeps.dispatch
    | with_reducible apply Keeps.leave
    | with_reducible refine KeepsItem.out_done ?_ (by assumption)
    | with_reducible refine KeepsItem.out_stop ?_ (by assumption)
    | with_reducible refine KeepsItem.out_miss ?_ (by assumption)
    | with_reducible refine KeepsItem.out_wait ?_ (by assumption)
    | exact (rfl : (_ : List (Fin 132)) = _)
    | split

theorem Keeps.control {z : State} {s : State} {u : UnitId} {q : Control} (hk : Keeps z s) :
    Keeps z (State.control s u q) := by
  unfold State.control
  repeat' first
    | with_reducible assumption
    | with_reducible apply Keeps.report
    | with_reducible apply Keeps.dispatch
    | with_reducible apply Keeps.loadContext
    | with_reducible apply Keeps.takeShare
    | with_reducible refine KeepsItem.out_done ?_ (by assumption)
    | with_reducible refine KeepsItem.out_stop ?_ (by assumption)
    | with_reducible refine KeepsItem.out_miss ?_ (by assumption)
    | with_reducible refine KeepsItem.out_wait ?_ (by assumption)
    | split

theorem Keeps.execCtl {z : State} {dst : UnitId} {s : State} (hk : Keeps z s) :
    KeepsX z (Sys2Proof.Machine.execCtl dst s) := by
  dsimp only [Sys2Proof.Machine.execCtl]
  repeat' first
    | with_reducible assumption
    | with_reducible apply Keeps.control
    | with_reducible exact KeepsX.fault
    | with_reducible apply KeepsX.next
    | with_reducible refine Keeps.recvTxn ?_ (by assumption)
    | with_reducible refine KeepsO.out ?_ (by assumption)
    | with_reducible refine KeepsItem.out_done ?_ (by assumption)
    | with_reducible refine KeepsItem.out_stop ?_ (by assumption)
    | with_reducible refine KeepsItem.out_miss ?_ (by assumption)
    | with_reducible refine KeepsItem.out_wait ?_ (by assumption)
    | split

theorem Keeps.takeReport {z : State} {s : State} {r : Report} (hk : Keeps z s) :
    Keeps z (State.takeReport s r) := by
  dsimp only [State.takeReport]
  repeat' first
    | with_reducible assumption
    | with_reducible apply Keeps.modStep
    | with_reducible apply Keeps.failTile
    | with_reducible apply Keeps.settlePass
    | with_reducible apply Keeps.missTile
    | with_reducible apply Keeps.settleShares
    | with_reducible refine KeepsItem.out_done ?_ (by assumption)
    | with_reducible refine KeepsItem.out_stop ?_ (by assumption)
    | with_reducible refine KeepsItem.out_miss ?_ (by assumption)
    | with_reducible refine KeepsItem.out_wait ?_ (by assumption)
    | split

theorem Keeps.execStatus {z : State} {src : UnitId} {s : State} (hk : Keeps z s) :
    KeepsX z (Sys2Proof.Machine.execStatus src s) := by
  dsimp only [Sys2Proof.Machine.execStatus]
  repeat' first
    | with_reducible assumption
    | ((with_reducible apply Hub.sparesStay_of); intro _; rfl)
    | with_reducible apply Keeps.modHub
    | with_reducible apply Keeps.takeReport
    | with_reducible exact KeepsX.fault
    | with_reducible apply KeepsX.next
    | with_reducible refine Keeps.recvTxn ?_ (by assumption)
    | with_reducible refine KeepsO.out ?_ (by assumption)
    | with_reducible refine KeepsItem.out_done ?_ (by assumption)
    | with_reducible refine KeepsItem.out_stop ?_ (by assumption)
    | with_reducible refine KeepsItem.out_miss ?_ (by assumption)
    | with_reducible refine KeepsItem.out_wait ?_ (by assumption)
    | exact (rfl : (_ : List (Fin 132)) = _)
    | split

theorem Keeps.execReservedTransaction {z : State} {dst : UnitId} {rxClass : Bool} {hdr : BitVec 128} {s : State} (hk : Keeps z s) :
    KeepsX z (Sys2Proof.Machine.execReservedTransaction dst rxClass hdr s) := by
  dsimp only [Sys2Proof.Machine.execReservedTransaction]
  repeat' first
    | with_reducible assumption
    | with_reducible apply Keeps.raise
    | with_reducible exact KeepsX.fault
    | with_reducible apply KeepsX.next
    | with_reducible refine KeepsO.out ?_ (by assumption)
    | with_reducible refine KeepsItem.out_done ?_ (by assumption)
    | with_reducible refine KeepsItem.out_stop ?_ (by assumption)
    | with_reducible refine KeepsItem.out_miss ?_ (by assumption)
    | with_reducible refine KeepsItem.out_wait ?_ (by assumption)
    | split

end Sys2Proof.Machine
end

