-- ==== Sys2Proof/Laws/KeepsExec.lean ====
section
/-! SUPPORT. What every command keeps but the few that stand for a start, a reset, a pin or the tally's own events. -/
namespace Sys2Proof.Machine
/-- The commands that keep the phase, the identity, the input pins, dead slices and the tally's figures: all but those that
stand for a start, a reset, a pin's edge or the tally's own events. -/
def plain : Instr → Bool
  | .startInstant .. => false
  | .sbReady .. => false
  | .reset .. => false
  | .supplyLoss .. => false
  | .thermalTrip .. => false
  | .thermalTripClear .. => false
  | .opGrantChange .. => false
  | .hLockedFall .. => false
  | .hLockedRise .. => false
  | .tallyCount .. => false
  | .tallyOpenMessage .. => false
  | .epochEnd .. => false
  | .tallyRequest .. => false
  | .tallyRecordOffer .. => false
  | .tPortOpen .. => false
  | .tallySupplyLoss .. => false
  | .tallySupplyReturn .. => false
  | _ => true
/-- What every plain command keeps. -/
theorem exec_keeps {c : Instr} {s : State} (hc : plain c = true) : KeepsX s (exec c s) := by
  have k := Keeps.refl s
  cases c with
  | startInstant => exact (Bool.false_ne_true hc).elim
  | stackIdentityRead => exact k.execStackIdentityRead
  | sbReady => exact (Bool.false_ne_true hc).elim
  | versionSample => exact k.execVersionSample
  | reset => exact (Bool.false_ne_true hc).elim
  | supplyLoss => exact (Bool.false_ne_true hc).elim
  | thermalTrip => exact (Bool.false_ne_true hc).elim
  | thermalTripClear => exact (Bool.false_ne_true hc).elim
  | opGrantChange => exact (Bool.false_ne_true hc).elim
  | hLockedFall => exact (Bool.false_ne_true hc).elim
  | hLockedRise => exact (Bool.false_ne_true hc).elim
  | tallySupplyLoss => exact (Bool.false_ne_true hc).elim
  | tallySupplyReturn => exact (Bool.false_ne_true hc).elim
  | tPortOpen => exact (Bool.false_ne_true hc).elim
  | submissionDoorbell => exact k.execSubmissionDoorbell
  | completionDoorbell => exact k.execCompletionDoorbell
  | ringEnable => exact k.execRingEnable
  | ringDisable => exact k.execRingDisable
  | entryRead c ring n data errs => exact k.execEntryRead (w_data := data) (w_errs := errs)
  | deliver => exact k.execDeliver
  | compress => exact k.execCompress
  | cCompress => exact k.execCCompress
  | cDecompress => exact k.execCDecompress
  | gatherMerge => exact k.execGatherMerge
  | scatter => exact k.execScatter
  | mergeOut => exact k.execMergeOut
  | castOn => exact k.execCastOn
  | rebase => exact k.execRebase
  | rechain => exact k.execRechain
  | teardown => exact k.execTeardown
  | resume => exact k.execResume
  | nop => exact k.execNop
  | move => exact k.execMove
  | atlasWrite => exact k.execAtlasWrite
  | share => exact k.execShare
  | free => exact k.execFree
  | frog => exact k.execFrog
  | demote => exact k.execDemote
  | promote => exact k.execPromote
  | gather => exact k.execGather
  | deliverRows => exact k.execDeliverRows
  | gazClear => exact k.execGazClear
  | send => exact k.execSend
  | recv => exact k.execRecv
  | mcast => exact k.execMcast
  | descriptorBatch slot role base data errs => exact k.execDescriptorBatch (w_base := base) (w_data := data) (w_errs := errs)
  | slotGrant => exact k.execSlotGrant
  | grant => exact k.execGrant
  | fetch => exact k.execFetch
  | mRequestIssue => exact k.execMRequestIssue
  | mergeCloseTimeout => exact k.execMergeCloseTimeout
  | mReadBeat => exact k.execMReadBeat
  | mWriteAck => exact k.execMWriteAck
  | nReadBeat => exact k.execNReadBeat
  | nWriteAck => exact k.execNWriteAck
  | cReadBeat => exact k.execCReadBeat
  | cWriteAck => exact k.execCWriteAck
  | write => exact k.execWrite
  | copyOnWriteDone => exact k.execCopyOnWriteDone
  | stitch => exact k.execStitch
  | xlate => exact k.execXlate
  | expandStart => exact k.execExpandStart
  | contourTileDecoded => exact k.execContourTileDecoded
  | pairStart => exact k.execPairStart
  | dBeat => exact k.execDBeat
  | frogMarker => exact k.execFrogMarker
  | dFreePush => exact k.execDFreePush
  | dFullPop => exact k.execDFullPop
  | setHard => exact k.execSetHard
  | setSoft => exact k.execSetSoft
  | rewind => exact k.execRewind
  | release => exact k.execRelease
  | aBeat => exact k.execABeat
  | aDonePop => exact k.execADonePop
  | tileCompressed => exact k.execTileCompressed
  | contourBlockCoded => exact k.execContourBlockCoded
  | scatterRecord => exact k.execScatterRecord
  | mergeOutRound => exact k.execMergeOutRound
  | ack => exact k.execAck
  | qpush => exact k.execQpush
  | credit => exact k.execCredit
  | nacc => exact k.execNacc
  | ndata => exact k.execNdata
  | summary => exact k.execSummary
  | atlas => exact k.execAtlas
  | ctl => exact k.execCtl
  | status => exact k.execStatus
  | lsend => exact k.execLsend
  | verdict => exact k.execVerdict
  | reservedTransaction => exact k.execReservedTransaction
  | stepSuspend => exact k.execStepSuspend
  | stepCompletion => exact k.execStepCompletion
  | completionRecordWrite => exact k.execCompletionRecordWrite
  | switchIdleTimeout => exact k.execSwitchIdleTimeout
  | quantumExpiry => exact k.execQuantumExpiry
  | sliceContextMove => exact k.execSliceContextMove
  | itemRelease => exact k.execItemRelease
  | releaseRecord => exact k.execReleaseRecord
  | releaseRingPoll => exact k.execReleaseRingPoll
  | prevSlotRelease => exact k.execPrevSlotRelease
  | sweepDone => exact k.execSweepDone
  | openUnkeyed => exact k.execOpenUnkeyed
  | openKeyed => exact k.execOpenKeyed
  | close => exact k.execClose
  | abort => exact k.execAbort
  | scrubPhase2 => exact k.execScrubPhase2
  | scrubUnit => exact k.execScrubUnit
  | scrubEnd => exact k.execScrubEnd
  | loadContext => exact k.execLoadContext
  | rotate => exact k.execRotate
  | loadWeight => exact k.execLoadWeight
  | sealWeight => exact k.execSealWeight
  | zeroiseContext => exact k.execZeroiseContext
  | zeroiseWeight => exact k.execZeroiseWeight
  | measure => exact k.execMeasure
  | bindMaskWrite => exact k.execBindMaskWrite
  | lRxBeat => exact k.execLRxBeat
  | frameVerdict => exact k.execFrameVerdict
  | ingressWordRead => exact k.execIngressWordRead
  | dataFrame => exact k.execDataFrame
  | rread => exact k.execRread
  | rdata => exact k.execRdata
  | absentFrame => exact k.execAbsentFrame
  | creditFrame => exact k.execCreditFrame
  | frameSend => exact k.execFrameSend
  | creditTimer => exact k.execCreditTimer
  | dictionaryWrite => exact k.execDictionaryWrite
  | drain => exact k.execDrain
  | quiesceResume => exact k.execQuiesceResume
  | halt => exact k.execHalt
  | stationEnableWrite => exact k.execStationEnableWrite
  | linkEnableWrite => exact k.execLinkEnableWrite
  | activate => exact k.execActivate
  | clear => exact k.execClear
  | checkpointNow => exact k.execCheckpointNow
  | lifetimeCheckpoint => exact k.execLifetimeCheckpoint
  | lifetimeRestore => exact k.execLifetimeRestore
  | swatchControl => exact k.execSwatchControl
  | swatchDone => exact k.execSwatchDone
  | eventNext => exact k.execEventNext
  | fenceSlice => exact k.execFenceSlice
  | zeroiseAll => exact k.execZeroiseAll
  | frameServiceTimeout => exact k.execFrameServiceTimeout (w4 := true)
  | counterTick => exact k.execCounterTick
  | tallyCount => exact (Bool.false_ne_true hc).elim
  | tallyOpenMessage => exact (Bool.false_ne_true hc).elim
  | epochEnd => exact (Bool.false_ne_true hc).elim
  | tallyRequest => exact (Bool.false_ne_true hc).elim
  | tallyRecordOffer => exact (Bool.false_ne_true hc).elim
  | idleEntry => exact k.execIdleEntry
  | dormantEntry => exact k.execDormantEntry
  | offEntry => exact k.execOffEntry
  | opRequestIdle => exact k.execOpRequestIdle
  | sliceWake => exact k.execSliceWake
  | wakeComplete => exact k.execWakeComplete
  | powerWindow => exact k.execPowerWindow
  | sramError => exact k.execSramError
  | probe => exact k.execProbe
  | probeTimeout => exact k.execProbeTimeout
end Sys2Proof.Machine
end

