-- ==== Sys2Proof/Laws/KeepsExpand.lean ====
section
/-! SUPPORT. Keeps, for the operations of Machine/Expand.lean. -/
namespace Sys2Proof.Machine


end Sys2Proof.Machine
end

