-- ==== Sys2Proof/Laws/KeepsGaz.lean ====
section
/-! SUPPORT. Keeps, for the operations of Machine/Gaz.lean. -/
namespace Sys2Proof.Machine


end Sys2Proof.Machine
end

