-- ==== Sys2Proof/Laws/KeepsOperands.lean ====
section
/-! SUPPORT. Keeps, for the operations of Machine/Operands.lean. -/
namespace Sys2Proof.Machine


end Sys2Proof.Machine
end

