-- ==== Sys2Proof/Laws/State.lean ====
section
/-! SUPPORT. One lemma per field and per update of the state, and what an update of one element leaves of the others. -/
namespace Sys2Proof.Machine

variable (s : State)

/-! ### An updated vector -/

@[simp] theorem vmod_same {α : Type} {n : Nat} (v : Vector α n) (i : Fin n) (f : α → α) : (vmod v i f)[i.1] = f v[i.1] := by
  simp [vmod]

theorem vmod_other {α : Type} {n : Nat} (v : Vector α n) (i j : Fin n) (f : α → α) (h : j ≠ i) : (vmod v i f)[j.1] = v[j.1] := by
  have : i.1 ≠ j.1 := fun e => h (Fin.ext e.symm)
  simp [vmod, this]

/-! ### modHub -/

@[simp] theorem State.modHub_phase (f : Hub → Hub) : (s.modHub f).phase = s.phase := rfl
@[simp] theorem State.modHub_pins (f : Hub → Hub) : (s.modHub f).pins = s.pins := rfl
@[simp] theorem State.modHub_ident (f : Hub → Hub) : (s.modHub f).ident = s.ident := rfl
@[simp] theorem State.modHub_hub (f : Hub → Hub) : (s.modHub f).hub = f s.hub := rfl
@[simp] theorem State.modHub_ctxs (f : Hub → Hub) : (s.modHub f).ctxs = s.ctxs := rfl
@[simp] theorem State.modHub_slices (f : Hub → Hub) : (s.modHub f).slices = s.slices := rfl
@[simp] theorem State.modHub_stations (f : Hub → Hub) : (s.modHub f).stations = s.stations := rfl
@[simp] theorem State.modHub_links (f : Hub → Hub) : (s.modHub f).links = s.links := rfl
@[simp] theorem State.modHub_net (f : Hub → Hub) : (s.modHub f).net = s.net := rfl
@[simp] theorem State.modHub_near (f : Hub → Hub) : (s.modHub f).near = s.near := rfl
@[simp] theorem State.modHub_nearBad (f : Hub → Hub) : (s.modHub f).nearBad = s.nearBad := rfl
@[simp] theorem State.modHub_stackMem (f : Hub → Hub) : (s.modHub f).stackMem = s.stackMem := rfl
@[simp] theorem State.modHub_stackBad (f : Hub → Hub) : (s.modHub f).stackBad = s.stackBad := rfl
@[simp] theorem State.modHub_tallyWire (f : Hub → Hub) : (s.modHub f).tallyWire = s.tallyWire := rfl
@[simp] theorem State.modHub_tally (f : Hub → Hub) : (s.modHub f).tally = s.tally := rfl
@[simp] theorem State.modHub_now (f : Hub → Hub) : (s.modHub f).now = s.now := rfl
@[simp] theorem State.modHub_freeCtr (f : Hub → Hub) : (s.modHub f).freeCtr = s.freeCtr := rfl
@[simp] theorem State.modHub_pending (f : Hub → Hub) : (s.modHub f).pending = s.pending := rfl
@[simp] theorem State.modHub_ctx (f : Hub → Hub) (i : Fin 64) : (s.modHub f).ctx i = s.ctx i := rfl
@[simp] theorem State.modHub_slice (f : Hub → Hub) (i : Fin 132) : (s.modHub f).slice i = s.slice i := rfl
@[simp] theorem State.modHub_station (f : Hub → Hub) (i : Fin 12) : (s.modHub f).station i = s.station i := rfl
@[simp] theorem State.modHub_link (f : Hub → Hub) (i : Fin 16) : (s.modHub f).link i = s.link i := rfl

/-! ### modTally -/

@[simp] theorem State.modTally_phase (f : Tally → Tally) : (s.modTally f).phase = s.phase := rfl
@[simp] theorem State.modTally_pins (f : Tally → Tally) : (s.modTally f).pins = s.pins := rfl
@[simp] theorem State.modTally_ident (f : Tally → Tally) : (s.modTally f).ident = s.ident := rfl
@[simp] theorem State.modTally_hub (f : Tally → Tally) : (s.modTally f).hub = s.hub := rfl
@[simp] theorem State.modTally_ctxs (f : Tally → Tally) : (s.modTally f).ctxs = s.ctxs := rfl
@[simp] theorem State.modTally_slices (f : Tally → Tally) : (s.modTally f).slices = s.slices := rfl
@[simp] theorem State.modTally_stations (f : Tally → Tally) : (s.modTally f).stations = s.stations := rfl
@[simp] theorem State.modTally_links (f : Tally → Tally) : (s.modTally f).links = s.links := rfl
@[simp] theorem State.modTally_net (f : Tally → Tally) : (s.modTally f).net = s.net := rfl
@[simp] theorem State.modTally_near (f : Tally → Tally) : (s.modTally f).near = s.near := rfl
@[simp] theorem State.modTally_nearBad (f : Tally → Tally) : (s.modTally f).nearBad = s.nearBad := rfl
@[simp] theorem State.modTally_stackMem (f : Tally → Tally) : (s.modTally f).stackMem = s.stackMem := rfl
@[simp] theorem State.modTally_stackBad (f : Tally → Tally) : (s.modTally f).stackBad = s.stackBad := rfl
@[simp] theorem State.modTally_tallyWire (f : Tally → Tally) : (s.modTally f).tallyWire = s.tallyWire := rfl
@[simp] theorem State.modTally_tally (f : Tally → Tally) : (s.modTally f).tally = f s.tally := rfl
@[simp] theorem State.modTally_now (f : Tally → Tally) : (s.modTally f).now = s.now := rfl
@[simp] theorem State.modTally_freeCtr (f : Tally → Tally) : (s.modTally f).freeCtr = s.freeCtr := rfl
@[simp] theorem State.modTally_pending (f : Tally → Tally) : (s.modTally f).pending = s.pending := rfl
@[simp] theorem State.modTally_ctx (f : Tally → Tally) (i : Fin 64) : (s.modTally f).ctx i = s.ctx i := rfl
@[simp] theorem State.modTally_slice (f : Tally → Tally) (i : Fin 132) : (s.modTally f).slice i = s.slice i := rfl
@[simp] theorem State.modTally_station (f : Tally → Tally) (i : Fin 12) : (s.modTally f).station i = s.station i := rfl
@[simp] theorem State.modTally_link (f : Tally → Tally) (i : Fin 16) : (s.modTally f).link i = s.link i := rfl

/-! ### modCtx -/

@[simp] theorem State.modCtx_phase (c : Fin 64) (f : Context → Context) : (s.modCtx c f).phase = s.phase := rfl
@[simp] theorem State.modCtx_pins (c : Fin 64) (f : Context → Context) : (s.modCtx c f).pins = s.pins := rfl
@[simp] theorem State.modCtx_ident (c : Fin 64) (f : Context → Context) : (s.modCtx c f).ident = s.ident := rfl
@[simp] theorem State.modCtx_hub (c : Fin 64) (f : Context → Context) : (s.modCtx c f).hub = s.hub := rfl
@[simp] theorem State.modCtx_slices (c : Fin 64) (f : Context → Context) : (s.modCtx c f).slices = s.slices := rfl
@[simp] theorem State.modCtx_stations (c : Fin 64) (f : Context → Context) : (s.modCtx c f).stations = s.stations := rfl
@[simp] theorem State.modCtx_links (c : Fin 64) (f : Context → Context) : (s.modCtx c f).links = s.links := rfl
@[simp] theorem State.modCtx_net (c : Fin 64) (f : Context → Context) : (s.modCtx c f).net = s.net := rfl
@[simp] theorem State.modCtx_near (c : Fin 64) (f : Context → Context) : (s.modCtx c f).near = s.near := rfl
@[simp] theorem State.modCtx_nearBad (c : Fin 64) (f : Context → Context) : (s.modCtx c f).nearBad = s.nearBad := rfl
@[simp] theorem State.modCtx_stackMem (c : Fin 64) (f : Context → Context) : (s.modCtx c f).stackMem = s.stackMem := rfl
@[simp] theorem State.modCtx_stackBad (c : Fin 64) (f : Context → Context) : (s.modCtx c f).stackBad = s.stackBad := rfl
@[simp] theorem State.modCtx_tallyWire (c : Fin 64) (f : Context → Context) : (s.modCtx c f).tallyWire = s.tallyWire := rfl
@[simp] theorem State.modCtx_tally (c : Fin 64) (f : Context → Context) : (s.modCtx c f).tally = s.tally := rfl
@[simp] theorem State.modCtx_now (c : Fin 64) (f : Context → Context) : (s.modCtx c f).now = s.now := rfl
@[simp] theorem State.modCtx_freeCtr (c : Fin 64) (f : Context → Context) : (s.modCtx c f).freeCtr = s.freeCtr := rfl
@[simp] theorem State.modCtx_pending (c : Fin 64) (f : Context → Context) : (s.modCtx c f).pending = s.pending := rfl
@[simp] theorem State.modCtx_slice (c : Fin 64) (f : Context → Context) (i : Fin 132) : (s.modCtx c f).slice i = s.slice i := rfl
@[simp] theorem State.modCtx_station (c : Fin 64) (f : Context → Context) (i : Fin 12) : (s.modCtx c f).station i = s.station i := rfl
@[simp] theorem State.modCtx_link (c : Fin 64) (f : Context → Context) (i : Fin 16) : (s.modCtx c f).link i = s.link i := rfl

/-! ### modSlice -/

@[simp] theorem State.modSlice_phase (n : Fin 132) (f : Slice → Slice) : (s.modSlice n f).phase = s.phase := rfl
@[simp] theorem State.modSlice_pins (n : Fin 132) (f : Slice → Slice) : (s.modSlice n f).pins = s.pins := rfl
@[simp] theorem State.modSlice_ident (n : Fin 132) (f : Slice → Slice) : (s.modSlice n f).ident = s.ident := rfl
@[simp] theorem State.modSlice_hub (n : Fin 132) (f : Slice → Slice) : (s.modSlice n f).hub = s.hub := rfl
@[simp] theorem State.modSlice_ctxs (n : Fin 132) (f : Slice → Slice) : (s.modSlice n f).ctxs = s.ctxs := rfl
@[simp] theorem State.modSlice_stations (n : Fin 132) (f : Slice → Slice) : (s.modSlice n f).stations = s.stations := rfl
@[simp] theorem State.modSlice_links (n : Fin 132) (f : Slice → Slice) : (s.modSlice n f).links = s.links := rfl
@[simp] theorem State.modSlice_net (n : Fin 132) (f : Slice → Slice) : (s.modSlice n f).net = s.net := rfl
@[simp] theorem State.modSlice_near (n : Fin 132) (f : Slice → Slice) : (s.modSlice n f).near = s.near := rfl
@[simp] theorem State.modSlice_nearBad (n : Fin 132) (f : Slice → Slice) : (s.modSlice n f).nearBad = s.nearBad := rfl
@[simp] theorem State.modSlice_stackMem (n : Fin 132) (f : Slice → Slice) : (s.modSlice n f).stackMem = s.stackMem := rfl
@[simp] theorem State.modSlice_stackBad (n : Fin 132) (f : Slice → Slice) : (s.modSlice n f).stackBad = s.stackBad := rfl
@[simp] theorem State.modSlice_tallyWire (n : Fin 132) (f : Slice → Slice) : (s.modSlice n f).tallyWire = s.tallyWire := rfl
@[simp] theorem State.modSlice_tally (n : Fin 132) (f : Slice → Slice) : (s.modSlice n f).tally = s.tally := rfl
@[simp] theorem State.modSlice_now (n : Fin 132) (f : Slice → Slice) : (s.modSlice n f).now = s.now := rfl
@[simp] theorem State.modSlice_freeCtr (n : Fin 132) (f : Slice → Slice) : (s.modSlice n f).freeCtr = s.freeCtr := rfl
@[simp] theorem State.modSlice_pending (n : Fin 132) (f : Slice → Slice) : (s.modSlice n f).pending = s.pending := rfl
@[simp] theorem State.modSlice_ctx (n : Fin 132) (f : Slice → Slice) (i : Fin 64) : (s.modSlice n f).ctx i = s.ctx i := rfl
@[simp] theorem State.modSlice_station (n : Fin 132) (f : Slice → Slice) (i : Fin 12) : (s.modSlice n f).station i = s.station i := rfl
@[simp] theorem State.modSlice_link (n : Fin 132) (f : Slice → Slice) (i : Fin 16) : (s.modSlice n f).link i = s.link i := rfl

/-! ### modStation -/

@[simp] theorem State.modStation_phase (m : Fin 12) (f : Station → Station) : (s.modStation m f).phase = s.phase := rfl
@[simp] theorem State.modStation_pins (m : Fin 12) (f : Station → Station) : (s.modStation m f).pins = s.pins := rfl
@[simp] theorem State.modStation_ident (m : Fin 12) (f : Station → Station) : (s.modStation m f).ident = s.ident := rfl
@[simp] theorem State.modStation_hub (m : Fin 12) (f : Station → Station) : (s.modStation m f).hub = s.hub := rfl
@[simp] theorem State.modStation_ctxs (m : Fin 12) (f : Station → Station) : (s.modStation m f).ctxs = s.ctxs := rfl
@[simp] theorem State.modStation_slices (m : Fin 12) (f : Station → Station) : (s.modStation m f).slices = s.slices := rfl
@[simp] theorem State.modStation_links (m : Fin 12) (f : Station → Station) : (s.modStation m f).links = s.links := rfl
@[simp] theorem State.modStation_net (m : Fin 12) (f : Station → Station) : (s.modStation m f).net = s.net := rfl
@[simp] theorem State.modStation_near (m : Fin 12) (f : Station → Station) : (s.modStation m f).near = s.near := rfl
@[simp] theorem State.modStation_nearBad (m : Fin 12) (f : Station → Station) : (s.modStation m f).nearBad = s.nearBad := rfl
@[simp] theorem State.modStation_stackMem (m : Fin 12) (f : Station → Station) : (s.modStation m f).stackMem = s.stackMem := rfl
@[simp] theorem State.modStation_stackBad (m : Fin 12) (f : Station → Station) : (s.modStation m f).stackBad = s.stackBad := rfl
@[simp] theorem State.modStation_tallyWire (m : Fin 12) (f : Station → Station) : (s.modStation m f).tallyWire = s.tallyWire := rfl
@[simp] theorem State.modStation_tally (m : Fin 12) (f : Station → Station) : (s.modStation m f).tally = s.tally := rfl
@[simp] theorem State.modStation_now (m : Fin 12) (f : Station → Station) : (s.modStation m f).now = s.now := rfl
@[simp] theorem State.modStation_freeCtr (m : Fin 12) (f : Station → Station) : (s.modStation m f).freeCtr = s.freeCtr := rfl
@[simp] theorem State.modStation_pending (m : Fin 12) (f : Station → Station) : (s.modStation m f).pending = s.pending := rfl
@[simp] theorem State.modStation_ctx (m : Fin 12) (f : Station → Station) (i : Fin 64) : (s.modStation m f).ctx i = s.ctx i := rfl
@[simp] theorem State.modStation_slice (m : Fin 12) (f : Station → Station) (i : Fin 132) : (s.modStation m f).slice i = s.slice i := rfl
@[simp] theorem State.modStation_link (m : Fin 12) (f : Station → Station) (i : Fin 16) : (s.modStation m f).link i = s.link i := rfl

/-! ### modLink -/

@[simp] theorem State.modLink_phase (l : Fin 16) (f : Link → Link) : (s.modLink l f).phase = s.phase := rfl
@[simp] theorem State.modLink_pins (l : Fin 16) (f : Link → Link) : (s.modLink l f).pins = s.pins := rfl
@[simp] theorem State.modLink_ident (l : Fin 16) (f : Link → Link) : (s.modLink l f).ident = s.ident := rfl
@[simp] theorem State.modLink_hub (l : Fin 16) (f : Link → Link) : (s.modLink l f).hub = s.hub := rfl
@[simp] theorem State.modLink_ctxs (l : Fin 16) (f : Link → Link) : (s.modLink l f).ctxs = s.ctxs := rfl
@[simp] theorem State.modLink_slices (l : Fin 16) (f : Link → Link) : (s.modLink l f).slices = s.slices := rfl
@[simp] theorem State.modLink_stations (l : Fin 16) (f : Link → Link) : (s.modLink l f).stations = s.stations := rfl
@[simp] theorem State.modLink_net (l : Fin 16) (f : Link → Link) : (s.modLink l f).net = s.net := rfl
@[simp] theorem State.modLink_near (l : Fin 16) (f : Link → Link) : (s.modLink l f).near = s.near := rfl
@[simp] theorem State.modLink_nearBad (l : Fin 16) (f : Link → Link) : (s.modLink l f).nearBad = s.nearBad := rfl
@[simp] theorem State.modLink_stackMem (l : Fin 16) (f : Link → Link) : (s.modLink l f).stackMem = s.stackMem := rfl
@[simp] theorem State.modLink_stackBad (l : Fin 16) (f : Link → Link) : (s.modLink l f).stackBad = s.stackBad := rfl
@[simp] theorem State.modLink_tallyWire (l : Fin 16) (f : Link → Link) : (s.modLink l f).tallyWire = s.tallyWire := rfl
@[simp] theorem State.modLink_tally (l : Fin 16) (f : Link → Link) : (s.modLink l f).tally = s.tally := rfl
@[simp] theorem State.modLink_now (l : Fin 16) (f : Link → Link) : (s.modLink l f).now = s.now := rfl
@[simp] theorem State.modLink_freeCtr (l : Fin 16) (f : Link → Link) : (s.modLink l f).freeCtr = s.freeCtr := rfl
@[simp] theorem State.modLink_pending (l : Fin 16) (f : Link → Link) : (s.modLink l f).pending = s.pending := rfl
@[simp] theorem State.modLink_ctx (l : Fin 16) (f : Link → Link) (i : Fin 64) : (s.modLink l f).ctx i = s.ctx i := rfl
@[simp] theorem State.modLink_slice (l : Fin 16) (f : Link → Link) (i : Fin 132) : (s.modLink l f).slice i = s.slice i := rfl
@[simp] theorem State.modLink_station (l : Fin 16) (f : Link → Link) (i : Fin 12) : (s.modLink l f).station i = s.station i := rfl

/-! ### modRing -/

@[simp] theorem State.modRing_phase (c : Fin 64) (r : Fin 4) (f : RingPair → RingPair) : (s.modRing c r f).phase = s.phase := rfl
@[simp] theorem State.modRing_pins (c : Fin 64) (r : Fin 4) (f : RingPair → RingPair) : (s.modRing c r f).pins = s.pins := rfl
@[simp] theorem State.modRing_ident (c : Fin 64) (r : Fin 4) (f : RingPair → RingPair) : (s.modRing c r f).ident = s.ident := rfl
@[simp] theorem State.modRing_hub (c : Fin 64) (r : Fin 4) (f : RingPair → RingPair) : (s.modRing c r f).hub = s.hub := rfl
@[simp] theorem State.modRing_slices (c : Fin 64) (r : Fin 4) (f : RingPair → RingPair) : (s.modRing c r f).slices = s.slices := rfl
@[simp] theorem State.modRing_stations (c : Fin 64) (r : Fin 4) (f : RingPair → RingPair) : (s.modRing c r f).stations = s.stations := rfl
@[simp] theorem State.modRing_links (c : Fin 64) (r : Fin 4) (f : RingPair → RingPair) : (s.modRing c r f).links = s.links := rfl
@[simp] theorem State.modRing_net (c : Fin 64) (r : Fin 4) (f : RingPair → RingPair) : (s.modRing c r f).net = s.net := rfl
@[simp] theorem State.modRing_near (c : Fin 64) (r : Fin 4) (f : RingPair → RingPair) : (s.modRing c r f).near = s.near := rfl
@[simp] theorem State.modRing_nearBad (c : Fin 64) (r : Fin 4) (f : RingPair → RingPair) : (s.modRing c r f).nearBad = s.nearBad := rfl
@[simp] theorem State.modRing_stackMem (c : Fin 64) (r : Fin 4) (f : RingPair → RingPair) : (s.modRing c r f).stackMem = s.stackMem := rfl
@[simp] theorem State.modRing_stackBad (c : Fin 64) (r : Fin 4) (f : RingPair → RingPair) : (s.modRing c r f).stackBad = s.stackBad := rfl
@[simp] theorem State.modRing_tallyWire (c : Fin 64) (r : Fin 4) (f : RingPair → RingPair) : (s.modRing c r f).tallyWire = s.tallyWire := rfl
@[simp] theorem State.modRing_tally (c : Fin 64) (r : Fin 4) (f : RingPair → RingPair) : (s.modRing c r f).tally = s.tally := rfl
@[simp] theorem State.modRing_now (c : Fin 64) (r : Fin 4) (f : RingPair → RingPair) : (s.modRing c r f).now = s.now := rfl
@[simp] theorem State.modRing_freeCtr (c : Fin 64) (r : Fin 4) (f : RingPair → RingPair) : (s.modRing c r f).freeCtr = s.freeCtr := rfl
@[simp] theorem State.modRing_pending (c : Fin 64) (r : Fin 4) (f : RingPair → RingPair) : (s.modRing c r f).pending = s.pending := rfl
@[simp] theorem State.modRing_slice (c : Fin 64) (r : Fin 4) (f : RingPair → RingPair) (i : Fin 132) : (s.modRing c r f).slice i = s.slice i := rfl
@[simp] theorem State.modRing_station (c : Fin 64) (r : Fin 4) (f : RingPair → RingPair) (i : Fin 12) : (s.modRing c r f).station i = s.station i := rfl
@[simp] theorem State.modRing_link (c : Fin 64) (r : Fin 4) (f : RingPair → RingPair) (i : Fin 16) : (s.modRing c r f).link i = s.link i := rfl

@[simp] theorem State.modCtx_same (i : Fin 64) (f : Context → Context) : (s.modCtx i f).ctx i = f (s.ctx i) := vmod_same _ i f

theorem State.modCtx_other (i j : Fin 64) (f : Context → Context) (h : j ≠ i) : (s.modCtx i f).ctx j = s.ctx j := vmod_other _ i j f h

@[simp] theorem State.modSlice_same (i : Fin 132) (f : Slice → Slice) : (s.modSlice i f).slice i = f (s.slice i) := vmod_same _ i f

theorem State.modSlice_other (i j : Fin 132) (f : Slice → Slice) (h : j ≠ i) : (s.modSlice i f).slice j = s.slice j := vmod_other _ i j f h

@[simp] theorem State.modStation_same (i : Fin 12) (f : Station → Station) : (s.modStation i f).station i = f (s.station i) := vmod_same _ i f

theorem State.modStation_other (i j : Fin 12) (f : Station → Station) (h : j ≠ i) : (s.modStation i f).station j = s.station j := vmod_other _ i j f h

@[simp] theorem State.modLink_same (i : Fin 16) (f : Link → Link) : (s.modLink i f).link i = f (s.link i) := vmod_same _ i f

theorem State.modLink_other (i j : Fin 16) (f : Link → Link) (h : j ≠ i) : (s.modLink i f).link j = s.link j := vmod_other _ i j f h

@[simp] theorem State.modRing_same (c : Fin 64) (r : Fin 4) (f : RingPair → RingPair) :
    (s.modRing c r f).ring c r = f (s.ring c r) := by
  simp [State.ring, State.modRing]

theorem State.modRing_other (c d : Fin 64) (r : Fin 4) (f : RingPair → RingPair) (h : d ≠ c) : (s.modRing c r f).ctx d = s.ctx d :=
  State.modCtx_other s c d _ h

/-! ### modStep -/

@[simp] theorem State.modStep_phase (slot : Nat) (f : Step → Step) : (s.modStep slot f).phase = s.phase := rfl
@[simp] theorem State.modStep_pins (slot : Nat) (f : Step → Step) : (s.modStep slot f).pins = s.pins := rfl
@[simp] theorem State.modStep_ident (slot : Nat) (f : Step → Step) : (s.modStep slot f).ident = s.ident := rfl
@[simp] theorem State.modStep_ctxs (slot : Nat) (f : Step → Step) : (s.modStep slot f).ctxs = s.ctxs := rfl
@[simp] theorem State.modStep_slices (slot : Nat) (f : Step → Step) : (s.modStep slot f).slices = s.slices := rfl
@[simp] theorem State.modStep_stations (slot : Nat) (f : Step → Step) : (s.modStep slot f).stations = s.stations := rfl
@[simp] theorem State.modStep_links (slot : Nat) (f : Step → Step) : (s.modStep slot f).links = s.links := rfl
@[simp] theorem State.modStep_net (slot : Nat) (f : Step → Step) : (s.modStep slot f).net = s.net := rfl
@[simp] theorem State.modStep_near (slot : Nat) (f : Step → Step) : (s.modStep slot f).near = s.near := rfl
@[simp] theorem State.modStep_nearBad (slot : Nat) (f : Step → Step) : (s.modStep slot f).nearBad = s.nearBad := rfl
@[simp] theorem State.modStep_stackMem (slot : Nat) (f : Step → Step) : (s.modStep slot f).stackMem = s.stackMem := rfl
@[simp] theorem State.modStep_stackBad (slot : Nat) (f : Step → Step) : (s.modStep slot f).stackBad = s.stackBad := rfl
@[simp] theorem State.modStep_tallyWire (slot : Nat) (f : Step → Step) : (s.modStep slot f).tallyWire = s.tallyWire := rfl
@[simp] theorem State.modStep_tally (slot : Nat) (f : Step → Step) : (s.modStep slot f).tally = s.tally := rfl
@[simp] theorem State.modStep_now (slot : Nat) (f : Step → Step) : (s.modStep slot f).now = s.now := rfl
@[simp] theorem State.modStep_freeCtr (slot : Nat) (f : Step → Step) : (s.modStep slot f).freeCtr = s.freeCtr := rfl
@[simp] theorem State.modStep_pending (slot : Nat) (f : Step → Step) : (s.modStep slot f).pending = s.pending := rfl

/-! ### modShare -/

@[simp] theorem State.modShare_phase (n : Fin 132) (slot : Nat) (f : Share → Share) : (s.modShare n slot f).phase = s.phase := rfl
@[simp] theorem State.modShare_pins (n : Fin 132) (slot : Nat) (f : Share → Share) : (s.modShare n slot f).pins = s.pins := rfl
@[simp] theorem State.modShare_ident (n : Fin 132) (slot : Nat) (f : Share → Share) : (s.modShare n slot f).ident = s.ident := rfl
@[simp] theorem State.modShare_hub (n : Fin 132) (slot : Nat) (f : Share → Share) : (s.modShare n slot f).hub = s.hub := rfl
@[simp] theorem State.modShare_ctxs (n : Fin 132) (slot : Nat) (f : Share → Share) : (s.modShare n slot f).ctxs = s.ctxs := rfl
@[simp] theorem State.modShare_stations (n : Fin 132) (slot : Nat) (f : Share → Share) : (s.modShare n slot f).stations = s.stations := rfl
@[simp] theorem State.modShare_links (n : Fin 132) (slot : Nat) (f : Share → Share) : (s.modShare n slot f).links = s.links := rfl
@[simp] theorem State.modShare_net (n : Fin 132) (slot : Nat) (f : Share → Share) : (s.modShare n slot f).net = s.net := rfl
@[simp] theorem State.modShare_near (n : Fin 132) (slot : Nat) (f : Share → Share) : (s.modShare n slot f).near = s.near := rfl
@[simp] theorem State.modShare_nearBad (n : Fin 132) (slot : Nat) (f : Share → Share) : (s.modShare n slot f).nearBad = s.nearBad := rfl
@[simp] theorem State.modShare_stackMem (n : Fin 132) (slot : Nat) (f : Share → Share) : (s.modShare n slot f).stackMem = s.stackMem := rfl
@[simp] theorem State.modShare_stackBad (n : Fin 132) (slot : Nat) (f : Share → Share) : (s.modShare n slot f).stackBad = s.stackBad := rfl
@[simp] theorem State.modShare_tallyWire (n : Fin 132) (slot : Nat) (f : Share → Share) : (s.modShare n slot f).tallyWire = s.tallyWire := rfl
@[simp] theorem State.modShare_tally (n : Fin 132) (slot : Nat) (f : Share → Share) : (s.modShare n slot f).tally = s.tally := rfl
@[simp] theorem State.modShare_now (n : Fin 132) (slot : Nat) (f : Share → Share) : (s.modShare n slot f).now = s.now := rfl
@[simp] theorem State.modShare_freeCtr (n : Fin 132) (slot : Nat) (f : Share → Share) : (s.modShare n slot f).freeCtr = s.freeCtr := rfl
@[simp] theorem State.modShare_pending (n : Fin 132) (slot : Nat) (f : Share → Share) : (s.modShare n slot f).pending = s.pending := rfl

/-! ### modShares -/

@[simp] theorem State.modShares_phase (slot : Nat) (f : Share → Share) : (s.modShares slot f).phase = s.phase := rfl
@[simp] theorem State.modShares_pins (slot : Nat) (f : Share → Share) : (s.modShares slot f).pins = s.pins := rfl
@[simp] theorem State.modShares_ident (slot : Nat) (f : Share → Share) : (s.modShares slot f).ident = s.ident := rfl
@[simp] theorem State.modShares_hub (slot : Nat) (f : Share → Share) : (s.modShares slot f).hub = s.hub := rfl
@[simp] theorem State.modShares_ctxs (slot : Nat) (f : Share → Share) : (s.modShares slot f).ctxs = s.ctxs := rfl
@[simp] theorem State.modShares_stations (slot : Nat) (f : Share → Share) : (s.modShares slot f).stations = s.stations := rfl
@[simp] theorem State.modShares_links (slot : Nat) (f : Share → Share) : (s.modShares slot f).links = s.links := rfl
@[simp] theorem State.modShares_net (slot : Nat) (f : Share → Share) : (s.modShares slot f).net = s.net := rfl
@[simp] theorem State.modShares_near (slot : Nat) (f : Share → Share) : (s.modShares slot f).near = s.near := rfl
@[simp] theorem State.modShares_nearBad (slot : Nat) (f : Share → Share) : (s.modShares slot f).nearBad = s.nearBad := rfl
@[simp] theorem State.modShares_stackMem (slot : Nat) (f : Share → Share) : (s.modShares slot f).stackMem = s.stackMem := rfl
@[simp] theorem State.modShares_stackBad (slot : Nat) (f : Share → Share) : (s.modShares slot f).stackBad = s.stackBad := rfl
@[simp] theorem State.modShares_tallyWire (slot : Nat) (f : Share → Share) : (s.modShares slot f).tallyWire = s.tallyWire := rfl
@[simp] theorem State.modShares_tally (slot : Nat) (f : Share → Share) : (s.modShares slot f).tally = s.tally := rfl
@[simp] theorem State.modShares_now (slot : Nat) (f : Share → Share) : (s.modShares slot f).now = s.now := rfl
@[simp] theorem State.modShares_freeCtr (slot : Nat) (f : Share → Share) : (s.modShares slot f).freeCtr = s.freeCtr := rfl
@[simp] theorem State.modShares_pending (slot : Nat) (f : Share → Share) : (s.modShares slot f).pending = s.pending := rfl

/-! ### writeNear -/

@[simp] theorem State.writeNear_phase (a : Nat) (bs : Bytes) : (s.writeNear a bs).phase = s.phase := rfl
@[simp] theorem State.writeNear_pins (a : Nat) (bs : Bytes) : (s.writeNear a bs).pins = s.pins := rfl
@[simp] theorem State.writeNear_ident (a : Nat) (bs : Bytes) : (s.writeNear a bs).ident = s.ident := rfl
@[simp] theorem State.writeNear_hub (a : Nat) (bs : Bytes) : (s.writeNear a bs).hub = s.hub := rfl
@[simp] theorem State.writeNear_ctxs (a : Nat) (bs : Bytes) : (s.writeNear a bs).ctxs = s.ctxs := rfl
@[simp] theorem State.writeNear_slices (a : Nat) (bs : Bytes) : (s.writeNear a bs).slices = s.slices := rfl
@[simp] theorem State.writeNear_stations (a : Nat) (bs : Bytes) : (s.writeNear a bs).stations = s.stations := rfl
@[simp] theorem State.writeNear_links (a : Nat) (bs : Bytes) : (s.writeNear a bs).links = s.links := rfl
@[simp] theorem State.writeNear_net (a : Nat) (bs : Bytes) : (s.writeNear a bs).net = s.net := rfl
@[simp] theorem State.writeNear_stackMem (a : Nat) (bs : Bytes) : (s.writeNear a bs).stackMem = s.stackMem := rfl
@[simp] theorem State.writeNear_stackBad (a : Nat) (bs : Bytes) : (s.writeNear a bs).stackBad = s.stackBad := rfl
@[simp] theorem State.writeNear_tallyWire (a : Nat) (bs : Bytes) : (s.writeNear a bs).tallyWire = s.tallyWire := rfl
@[simp] theorem State.writeNear_tally (a : Nat) (bs : Bytes) : (s.writeNear a bs).tally = s.tally := rfl
@[simp] theorem State.writeNear_now (a : Nat) (bs : Bytes) : (s.writeNear a bs).now = s.now := rfl
@[simp] theorem State.writeNear_freeCtr (a : Nat) (bs : Bytes) : (s.writeNear a bs).freeCtr = s.freeCtr := rfl
@[simp] theorem State.writeNear_pending (a : Nat) (bs : Bytes) : (s.writeNear a bs).pending = s.pending := rfl

/-! ### learnNear -/

@[simp] theorem State.learnNear_phase (a : Nat) (bs : Bytes) (bad : List Nat) : (s.learnNear a bs bad).phase = s.phase := rfl
@[simp] theorem State.learnNear_pins (a : Nat) (bs : Bytes) (bad : List Nat) : (s.learnNear a bs bad).pins = s.pins := rfl
@[simp] theorem State.learnNear_ident (a : Nat) (bs : Bytes) (bad : List Nat) : (s.learnNear a bs bad).ident = s.ident := rfl
@[simp] theorem State.learnNear_hub (a : Nat) (bs : Bytes) (bad : List Nat) : (s.learnNear a bs bad).hub = s.hub := rfl
@[simp] theorem State.learnNear_ctxs (a : Nat) (bs : Bytes) (bad : List Nat) : (s.learnNear a bs bad).ctxs = s.ctxs := rfl
@[simp] theorem State.learnNear_slices (a : Nat) (bs : Bytes) (bad : List Nat) : (s.learnNear a bs bad).slices = s.slices := rfl
@[simp] theorem State.learnNear_stations (a : Nat) (bs : Bytes) (bad : List Nat) : (s.learnNear a bs bad).stations = s.stations := rfl
@[simp] theorem State.learnNear_links (a : Nat) (bs : Bytes) (bad : List Nat) : (s.learnNear a bs bad).links = s.links := rfl
@[simp] theorem State.learnNear_net (a : Nat) (bs : Bytes) (bad : List Nat) : (s.learnNear a bs bad).net = s.net := rfl
@[simp] theorem State.learnNear_stackMem (a : Nat) (bs : Bytes) (bad : List Nat) : (s.learnNear a bs bad).stackMem = s.stackMem := rfl
@[simp] theorem State.learnNear_stackBad (a : Nat) (bs : Bytes) (bad : List Nat) : (s.learnNear a bs bad).stackBad = s.stackBad := rfl
@[simp] theorem State.learnNear_tallyWire (a : Nat) (bs : Bytes) (bad : List Nat) : (s.learnNear a bs bad).tallyWire = s.tallyWire := rfl
@[simp] theorem State.learnNear_tally (a : Nat) (bs : Bytes) (bad : List Nat) : (s.learnNear a bs bad).tally = s.tally := rfl
@[simp] theorem State.learnNear_now (a : Nat) (bs : Bytes) (bad : List Nat) : (s.learnNear a bs bad).now = s.now := rfl
@[simp] theorem State.learnNear_freeCtr (a : Nat) (bs : Bytes) (bad : List Nat) : (s.learnNear a bs bad).freeCtr = s.freeCtr := rfl
@[simp] theorem State.learnNear_pending (a : Nat) (bs : Bytes) (bad : List Nat) : (s.learnNear a bs bad).pending = s.pending := rfl

/-! ### writeStack -/

@[simp] theorem State.writeStack_phase (m : Fin 12) (a : Nat) (bs : Bytes) : (s.writeStack m a bs).phase = s.phase := rfl
@[simp] theorem State.writeStack_pins (m : Fin 12) (a : Nat) (bs : Bytes) : (s.writeStack m a bs).pins = s.pins := rfl
@[simp] theorem State.writeStack_ident (m : Fin 12) (a : Nat) (bs : Bytes) : (s.writeStack m a bs).ident = s.ident := rfl
@[simp] theorem State.writeStack_hub (m : Fin 12) (a : Nat) (bs : Bytes) : (s.writeStack m a bs).hub = s.hub := rfl
@[simp] theorem State.writeStack_ctxs (m : Fin 12) (a : Nat) (bs : Bytes) : (s.writeStack m a bs).ctxs = s.ctxs := rfl
@[simp] theorem State.writeStack_slices (m : Fin 12) (a : Nat) (bs : Bytes) : (s.writeStack m a bs).slices = s.slices := rfl
@[simp] theorem State.writeStack_stations (m : Fin 12) (a : Nat) (bs : Bytes) : (s.writeStack m a bs).stations = s.stations := rfl
@[simp] theorem State.writeStack_links (m : Fin 12) (a : Nat) (bs : Bytes) : (s.writeStack m a bs).links = s.links := rfl
@[simp] theorem State.writeStack_net (m : Fin 12) (a : Nat) (bs : Bytes) : (s.writeStack m a bs).net = s.net := rfl
@[simp] theorem State.writeStack_near (m : Fin 12) (a : Nat) (bs : Bytes) : (s.writeStack m a bs).near = s.near := rfl
@[simp] theorem State.writeStack_nearBad (m : Fin 12) (a : Nat) (bs : Bytes) : (s.writeStack m a bs).nearBad = s.nearBad := rfl
@[simp] theorem State.writeStack_tallyWire (m : Fin 12) (a : Nat) (bs : Bytes) : (s.writeStack m a bs).tallyWire = s.tallyWire := rfl
@[simp] theorem State.writeStack_tally (m : Fin 12) (a : Nat) (bs : Bytes) : (s.writeStack m a bs).tally = s.tally := rfl
@[simp] theorem State.writeStack_now (m : Fin 12) (a : Nat) (bs : Bytes) : (s.writeStack m a bs).now = s.now := rfl
@[simp] theorem State.writeStack_freeCtr (m : Fin 12) (a : Nat) (bs : Bytes) : (s.writeStack m a bs).freeCtr = s.freeCtr := rfl
@[simp] theorem State.writeStack_pending (m : Fin 12) (a : Nat) (bs : Bytes) : (s.writeStack m a bs).pending = s.pending := rfl

/-! ### spend -/

@[simp] theorem State.spend_phase (k n : Nat) : (s.spend k n).phase = s.phase := rfl
@[simp] theorem State.spend_pins (k n : Nat) : (s.spend k n).pins = s.pins := rfl
@[simp] theorem State.spend_ident (k n : Nat) : (s.spend k n).ident = s.ident := rfl
@[simp] theorem State.spend_ctxs (k n : Nat) : (s.spend k n).ctxs = s.ctxs := rfl
@[simp] theorem State.spend_slices (k n : Nat) : (s.spend k n).slices = s.slices := rfl
@[simp] theorem State.spend_stations (k n : Nat) : (s.spend k n).stations = s.stations := rfl
@[simp] theorem State.spend_links (k n : Nat) : (s.spend k n).links = s.links := rfl
@[simp] theorem State.spend_net (k n : Nat) : (s.spend k n).net = s.net := rfl
@[simp] theorem State.spend_near (k n : Nat) : (s.spend k n).near = s.near := rfl
@[simp] theorem State.spend_nearBad (k n : Nat) : (s.spend k n).nearBad = s.nearBad := rfl
@[simp] theorem State.spend_stackMem (k n : Nat) : (s.spend k n).stackMem = s.stackMem := rfl
@[simp] theorem State.spend_stackBad (k n : Nat) : (s.spend k n).stackBad = s.stackBad := rfl
@[simp] theorem State.spend_tallyWire (k n : Nat) : (s.spend k n).tallyWire = s.tallyWire := rfl
@[simp] theorem State.spend_tally (k n : Nat) : (s.spend k n).tally = s.tally := rfl
@[simp] theorem State.spend_now (k n : Nat) : (s.spend k n).now = s.now := rfl
@[simp] theorem State.spend_freeCtr (k n : Nat) : (s.spend k n).freeCtr = s.freeCtr := rfl
@[simp] theorem State.spend_pending (k n : Nat) : (s.spend k n).pending = s.pending := rfl

@[simp] theorem State.modShare_other (n k : Fin 132) (slot : Nat) (f : Share → Share) (h : k ≠ n) :
    (s.modShare n slot f).slice k = s.slice k := vmod_other _ n k _ h

@[simp] theorem State.writeNear_near (a : Nat) (bs : Bytes) : (s.writeNear a bs).near = s.near.write a bs := rfl

@[simp] theorem State.writeStack_stack (m : Fin 12) (a : Nat) (bs : Bytes) :
    (s.writeStack m a bs).stack m = (s.stack m).write a bs := vmod_same _ m _

theorem State.writeStack_other (m k : Fin 12) (a : Nat) (bs : Bytes) (h : k ≠ m) : (s.writeStack m a bs).stack k = s.stack k :=
  vmod_other _ m k _ h

@[simp] theorem State.writeNear_stack (m : Fin 12) (a : Nat) (bs : Bytes) : (s.writeNear a bs).stack m = s.stack m := rfl

/-- A step of another slot is as it was. -/
theorem State.modStep_other (slot k : Nat) (f : Step → Step) (hf : ∀ x, (f x).slot = x.slot) (h : k ≠ slot) :
    (s.modStep slot f).step? k = s.step? k := by
  simp only [State.step?, State.modStep, State.modHub]
  induction s.hub.steps with
  | nil => rfl
  | cons x xs ih =>
    simp only [List.map_cons, List.find?_cons, ih]
    by_cases hx : x.slot = slot
    · have hk : (slot == k) = false := by simpa using fun e => h e.symm
      simp [hx, hf, hk]
    · simp [hx]

end Sys2Proof.Machine
end

