-- ==== Sys2Proof/WellFormed.lean ====
section
/-! DEFINITION. Which commands are well formed: the operands have the sizes of the ports and tables they stand for. An
ill-formed command is not refused by the machine (a partner's odd beat has the meaning its row gives); it is no command the
spec's ports can carry. -/
namespace Sys2Proof

/-- The unit is a slice. -/
def UnitId.isSlice : UnitId → Bool | .slice _ => true | _ => false

/-- The unit is a memory station. -/
def UnitId.isStation : UnitId → Bool | .ms _ => true | _ => false

/-- The unit is a link station. -/
def UnitId.isLink : UnitId → Bool | .ls _ => true | _ => false

/-- The step table has 16,384 slots (R264). -/
def slotOk (slot : Nat) : Bool := decide (slot < 16384)

/-- The place is one that Table 14-4 gives this kind of unit. -/
def SramPlace.unitOk (p : SramPlace) (u : UnitId) : Bool :=
  match p with
  | .roundStitch .. | .stagedTile .. | .outStitch .. | .accumulator .. | .contourRow .. | .sliceControl => u.isSlice
  | .cacheLine | .windowData .. | .stationControl => u.isStation
  | .fifoBank _ | .linkControl => u.isLink
  | .stepEntry _ | .contextState _ | .contextKey .. | .weightKey _ | .hubControl => u == .hub

/-- The checks of each command's operands. -/
def Instr.wf : Instr → Bool
  | .startInstant rom => rom.length == 16
  | .stackIdentityRead _ bits => bits < 2 ^ 1024
  | .sbReady => true
  | .versionSample u own _ => !(own && u.isSlice)
  | .reset => true
  | .supplyLoss => true
  | .thermalTrip => true
  | .thermalTripClear => true
  | .opGrantChange .. => true
  | .hLockedFall => true
  | .hLockedRise => true
  | .tallySupplyLoss => true
  | .tallySupplyReturn => true
  | .tPortOpen => true
  | .submissionDoorbell .. => true
  | .completionDoorbell .. => true
  | .ringEnable .. => true
  | .ringDisable .. => true
  | .entryRead _ _ n .. => 1 ≤ n && n ≤ 32
  | .deliver slot => slotOk slot
  | .compress slot => slotOk slot
  | .cCompress slot => slotOk slot
  | .cDecompress slot => slotOk slot
  | .gatherMerge slot => slotOk slot
  | .scatter slot => slotOk slot
  | .mergeOut slot => slotOk slot
  | .castOn slot => slotOk slot
  | .rebase slot => slotOk slot
  | .rechain slot => slotOk slot
  | .teardown slot => slotOk slot
  | .resume slot => slotOk slot
  | .nop slot => slotOk slot
  | .move slot => slotOk slot
  | .atlasWrite slot => slotOk slot
  | .share slot => slotOk slot
  | .free slot => slotOk slot
  | .frog slot => slotOk slot
  | .demote slot => slotOk slot
  | .promote slot => slotOk slot
  | .gather slot => slotOk slot
  | .deliverRows slot => slotOk slot
  | .gazClear slot => slotOk slot
  | .send slot => slotOk slot
  | .recv slot => slotOk slot
  | .mcast slot => slotOk slot
  | .descriptorBatch slot .. => slotOk slot
  | .slotGrant _ slot _ => slotOk slot
  | .grant dst _ => dst.isStation
  | .fetch _ src => src.isSlice || src.isStation || src.isLink
  | .mRequestIssue .. => true
  | .mergeCloseTimeout .. => true
  | .mReadBeat _ _ data _ _ => data.length == 1024
  | .mWriteAck .. => true
  | .nReadBeat _ _ data _ _ => data.length == 512
  | .nWriteAck .. => true
  | .cReadBeat _ data _ _ => data.length == 128
  | .cWriteAck .. => true
  | .write .. => true
  | .copyOnWriteDone .. => true
  | .stitch .. => true
  | .xlate .. => true
  | .expandStart .. => true
  | .contourTileDecoded .. => true
  | .pairStart .. => true
  | .dBeat .. => true
  | .frogMarker .. => true
  | .dFreePush .. => true
  | .dFullPop .. => true
  | .setHard .. => true
  | .setSoft .. => true
  | .rewind .. => true
  | .release .. => true
  | .aBeat _ b => b.data.length == 1024 && b.pos.length == 1024
  | .aDonePop .. => true
  | .tileCompressed .. => true
  | .contourBlockCoded .. => true
  | .scatterRecord .. => true
  | .mergeOutRound .. => true
  | .ack .. => true
  | .qpush .. => true
  | .credit .. => true
  | .nacc .. => true
  | .ndata .. => true
  | .summary .. => true
  | .atlas .. => true
  | .ctl dst => dst != .hub
  | .status src => src != .hub
  | .lsend _ src => src.isSlice || src.isStation || src.isLink
  | .verdict .. => true
  | .reservedTransaction .. => true
  | .stepSuspend slot => slotOk slot
  | .stepCompletion slot => slotOk slot
  | .completionRecordWrite .. => true
  | .switchIdleTimeout .. => true
  | .quantumExpiry .. => true
  | .sliceContextMove .. => true
  | .itemRelease .. => true
  | .releaseRecord .. => true
  | .releaseRingPoll .. => true
  | .prevSlotRelease .. => true
  | .sweepDone .. => true
  | .openUnkeyed .. => true
  | .openKeyed .. => true
  | .close .. => true
  | .abort .. => true
  | .scrubPhase2 .. => true
  | .scrubUnit _ u => u.isStation || u == .hub
  | .scrubEnd .. => true
  | .loadContext .. => true
  | .rotate .. => true
  | .loadWeight .. => true
  | .sealWeight .. => true
  | .zeroiseContext .. => true
  | .zeroiseWeight .. => true
  | .measure .. => true
  | .bindMaskWrite .. => true
  | .lRxBeat _ b => b.data.length == 128 && (!b.last || (1 ≤ b.bytes && b.bytes ≤ 128))
  | .frameVerdict .. => true
  | .ingressWordRead .. => true
  | .dataFrame .. => true
  | .rread .. => true
  | .rdata .. => true
  | .absentFrame .. => true
  | .creditFrame .. => true
  | .frameSend .. => true
  | .creditTimer .. => true
  | .dictionaryWrite .. => true
  | .drain .. => true
  | .quiesceResume .. => true
  | .halt .. => true
  | .stationEnableWrite .. => true
  | .linkEnableWrite .. => true
  | .activate .. => true
  | .clear .. => true
  | .checkpointNow .. => true
  | .lifetimeCheckpoint => true
  | .lifetimeRestore _ len _ _ => 1 ≤ len.toNat && len.toNat ≤ 8
  | .swatchControl _ _ len _ _ => 1 ≤ len.toNat && len.toNat ≤ 8
  | .swatchDone .. => true
  | .eventNext .. => true
  | .fenceSlice .. => true
  | .zeroiseAll .. => true
  | .frameServiceTimeout .. => true
  | .counterTick => true
  | .tallyCount .. => true
  | .tallyOpenMessage => true
  | .epochEnd => true
  | .tallyRequest .. => true
  | .tallyRecordOffer => true
  | .idleEntry .. => true
  | .dormantEntry .. => true
  | .offEntry .. => true
  | .opRequestIdle => true
  | .sliceWake .. => true
  | .wakeComplete .. => true
  | .powerWindow => true
  | .sramError u _ place _ => place.unitOk u
  | .probe => true
  | .probeTimeout u => u != .hub

/-- A well-formed command. -/
abbrev Instr.WellFormed (c : Instr) : Prop := c.wf = true

end Sys2Proof
end

