-- ==== Sys2Proof/Tests/Slice0.lean ====
section
/-! SUPPORT. Tests of one step each, ill-formed commands that the check refuses, and for every statement with hypotheses a
state and operands that meet them, clause by clause. -/
namespace Sys2Proof.Tests
open Sys2Proof.Machine

set_option Elab.async false

/-! ### States the tests start from -/

/-- A block in service: every unit present, every port at version 3, every context open, no spare in use. -/
def serving : State :=
  { State.reset with
    phase := .ready
    pins := { State.reset.pins with ready := true, hLocked := true }
    ident := { Identity.unread with engineId := 1, stations := 0xFFF, links := 0xFFFF }
    hub :=
      { Hub.reset with
        dict := { Dict.default with stationEnable := 0xFFF, linkEnable := 0xFFFF }
        map := Vector.ofFn (fun l => some (l.castLE (by decide))), spares := [128, 129, 130, 131], cVer := .agreed 3, fVer := .agreed 3 }
    ctxs := Vector.replicate 64 { Context.reset with state := .opened }
    slices := Vector.replicate 132 { Slice.reset with power := .active, fVer := .agreed 3 }
    stations := Vector.replicate 12
      { Station.reset with
        present := true, idValid := true, capacityLog2 := 8, rate := 100, fVer := .agreed 3, mVer := .agreed 3
        creditRead := 4096 * 15360, creditWrite := 4096 * 15360, creditRemote := 4096 * 15360 }
    links := Vector.replicate 16 { Link.reset with present := true, fVer := .agreed 3, lVer := .agreed 3 } }

/-- The stored descriptor with the given values of some of its words. -/
def wordsOf (l : List (Nat × Nat)) : Bytes := (List.range 16).flatMap (fun i => leBytes 8 ((assoc i l).getD 0))

/-- A header for one FIXED slice, S000 (Table 08-3). -/
def oneSlice (op : Nat) : List (Nat × Nat) := [(0, place op 56 8), (2, place 1 8 8)]

/-- A stream word of a layout and a pair of formats, with its chain at address 0 (Table 08-4). -/
def streamOf (layout base ceiling : Nat) : Nat := place 1 63 1 + place layout 56 2 + place base 52 4 + place ceiling 48 4

/-- A chain of one extent of `n` tiles from tile `t`, read to its end. -/
def chainOf (t n : Nat) : Chain :=
  { Chain.start 0 0 with
    extents := [{ addr := 0, baseTile := t, dims := [(n, 1)], tiles := n, bindOff := false }], count := 1, loads := 1, next := 128
    ended := true, batches := [0] }

/-- A held step of context 0 in a slot, with the chains the hub has read for it. -/
def stepOf (slot : Nat) (ws : List (Nat × Nat)) (chains : List (Role × Chain)) : Step :=
  { slot := slot, ctx := 0, ring := 0, order := slot, pattern := 0, index := 0, serial := false, words := wordsOf ws, phase := .held
    readyAt := none, epoch := none, slices := [], chains := chains, granules := [], asked := [], masks := [], conds := [], miss := none
    serialNo := 0, flags := {}, countA := 0, countB := 0, result := 0, tilesDone := 0, last := [], rowMark := [], recvFrom := [], doneShares := []
    toDo := 0, escalated := 0, pos := 0, target := none, resumedBy := none, page := none, pushed := [], frogList := [], perSeq := [], seqLens := []
    placed := [], parent := none, opened := [], asks := [], sees := [], resultsOut := false, batches := [] }

/-- The serving block with some steps in its table. -/
def withSteps (xs : List Step) : State := serving.modHub (fun h => { h with steps := xs })

/-- A state, and a slot whose step meets every hypothesis of a row's dispatch. -/
def meets (s : State) (slot : Nat) (mine : Step → Bool) : Bool :=
  match s.step? slot with
  | none => false
  | some x => mine x && s.eligible x && !s.behind x && s.verdict x == .go && s.dispatches x
      && ((x.op.getD .nop).noSlice || (match s.pickSlices x with
          | some ls => !s.outranked x ls
          | none => false))

/-! ### Ill-formed commands -/

theorem test_wf_rom : (Instr.startInstant []).wf = false := by decide
theorem test_wf_identity : (Instr.stackIdentityRead 0 (2 ^ 1024)).wf = false := by decide +kernel
theorem test_wf_version : (Instr.versionSample (.slice 0) true 3).wf = false := by decide
theorem test_wf_entries : (Instr.entryRead 0 0 33 [] []).wf = false := by decide
theorem test_wf_slot : (Instr.deliver 16384).wf = false := by decide
theorem test_wf_batch : (Instr.descriptorBatch 16384 .src 0 [] []).wf = false := by decide
theorem test_wf_grant : (Instr.grant .hub 0).wf = false := by decide
theorem test_wf_fetch : (Instr.fetch 0 .hub).wf = false := by decide
theorem test_wf_mBeat : (Instr.mReadBeat 0 0 [] true 0).wf = false := by decide
theorem test_wf_nBeat : (Instr.nReadBeat 0 0 [] true 0).wf = false := by decide
theorem test_wf_cBeat : (Instr.cReadBeat 0 [] true 0).wf = false := by decide
theorem test_wf_aBeat : (Instr.aBeat 0 { data := [], pos := [], last := true, index := 0, scale := 0, poison := false
                                         bindOff := false, buf := 0 }).wf = false := by decide
theorem test_wf_ctl : (Instr.ctl .hub).wf = false := by decide
theorem test_wf_status : (Instr.status .hub).wf = false := by decide
theorem test_wf_lsend : (Instr.lsend 0 .hub).wf = false := by decide
theorem test_wf_scrubUnit : (Instr.scrubUnit 0 (.slice 0)).wf = false := by decide
theorem test_wf_lBeat : (Instr.lRxBeat 0 { data := [], first := true, last := true, bytes := 0, src := 0 }).wf = false := by decide
theorem test_wf_restore : (Instr.lifetimeRestore 0 9 0 true).wf = false := by decide
theorem test_wf_swatch : (Instr.swatchControl 0 0 0 0 true).wf = false := by decide
theorem test_wf_sram : (Instr.sramError (.slice 0) false .cacheLine 0).wf = false := by decide
theorem test_wf_probe : (Instr.probeTimeout .hub).wf = false := by decide
theorem test_wf_nop : (Instr.nop 16383).wf = true := by decide

/-! ### Steps that every check passes: the hypotheses of the dispatch statements -/

theorem meets_deliver : meets (withSteps [stepOf 0 (oneSlice 0x01 ++ [(4, streamOf 0 0 0)]) [(.src, chainOf 0 2)]]) 0
    (isOp .deliver) = true := by decide +kernel
theorem meets_compress : meets (withSteps [stepOf 0 (oneSlice 0x02 ++ [(4, streamOf 0 0 0)]) [(.dst, chainOf 0 2)]]) 0
    (isOp .compress) = true := by decide +kernel
theorem meets_cCompress : meets (withSteps [stepOf 0 (oneSlice 0x04 ++ [(4, streamOf 2 0xC 0xC), (6, place 1 12 1)])
    [(.dst, chainOf 0 2)]]) 0 (isOp .cCompress) = true := by decide +kernel
theorem meets_cDecompress : meets (withSteps [stepOf 0 (oneSlice 0x05 ++ [(4, streamOf 2 0xC 0xC), (5, streamOf 0 0 0)])
    [(.src, chainOf 0 2), (.dst, chainOf 16 2)]]) 0 (isOp .cDecompress) = true := by decide +kernel
theorem meets_gatherMerge : meets (withSteps [stepOf 0 (oneSlice 0x06 ++ [(4, streamOf 0 1 1), (6, streamOf 0 0 0)])
    [(.src, chainOf 0 2), (.act, chainOf 16 2)]]) 0 (isOp .gatherMerge) = true := by decide +kernel

/-- The operand words of an accumulation step: a table of BF16 tiles and two spill streams of bytes. -/
def accWords (op : Nat) : List (Nat × Nat) :=
  oneSlice op ++ [(4, streamOf 0 0 0), (6, streamOf 0 0 0 + place 1 47 1), (7, streamOf 0 0 0 + place 1 47 1), (10, 30)]

/-- Its chains. -/
def accChains : List (Role × Chain) := [(.table, chainOf 0 2), (.spillA, chainOf 16 1), (.spillB, chainOf 32 1)]

/-- A state whose slice 0 holds an open set of context 0 with one record. -/
def accState (x : Step) : State :=
  (withSteps [x]).modSlice 0 (fun y => { y with banks := vmod y.banks 0 (fun _ =>
    { owner := accFields 0 (usesOf Context.reset .mergeOut x.words) x.words
      sets := [(0, [{ row := 0, chunk := 0, values := List.replicate 32 0, poison := false }])] }) })

theorem meets_scatter : meets (withSteps [stepOf 0 (accWords 0x07) accChains]) 0 (isOp .scatter) = true := by decide +kernel
theorem meets_mergeOut : meets (accState (stepOf 0 (accWords 0x08) accChains)) 0 (isOp .mergeOut) = true := by decide +kernel

/-- Context 0 with its persistent stream 0 armed on slice 0. -/
def armed (s : State) : State :=
  s.modCtx 0 (fun c => { c with streams := vmod c.streams 0 (fun p =>
    { p with state := .armed, word := streamWord (wordsOf [(4, streamOf 0 0 0)]) 4, chain := chainOf 0 2, depth := 4, slices := [0] }) })

theorem meets_castOn : meets (withSteps [stepOf 0 (oneSlice 0x09 ++ [(4, streamOf 0 0 0 + place 1 62 1)]) [(.src, chainOf 0 2)]]) 0
    (isOp .castOn) = true := by decide +kernel
theorem meets_rebase : meets (armed (withSteps [stepOf 0 (oneSlice 0x0A ++ [(5, 16)]) []])) 0
    (fun x => isOp .recast x && !isRechain x) = true := by decide +kernel
theorem meets_rechain : meets (armed (withSteps [stepOf 0 (oneSlice 0x0A ++ [(4, place 1 4 1)]) [(.src, chainOf 16 2)]])) 0
    (fun x => isOp .recast x && isRechain x) = true := by decide +kernel
theorem meets_teardown : meets (armed (withSteps [stepOf 0 (oneSlice 0x0B) []])) 0 (isOp .teardown) = true := by decide +kernel
theorem meets_resume : meets (withSteps [stepOf 0 (oneSlice 0x0C ++ [(4, place 1 44 14 + 7)]) [],
    { stepOf 1 (oneSlice 0x01 ++ [(4, streamOf 0 0 0)]) [(.src, chainOf 0 2)] with phase := .suspended, serialNo := 7, slices := [0] }]) 0
    (isOp .resume) = true := by decide +kernel
theorem meets_nop : meets (withSteps [stepOf 0 (oneSlice 0x0D) []]) 0 (isOp .nop) = true := by decide +kernel
theorem meets_move : meets (withSteps [stepOf 0 (oneSlice 0x0E ++ [(4, streamOf 0 0 0), (6, streamOf 0 0 0)])
    [(.src, chainOf 0 2), (.dst, chainOf 16 2)]]) 0 (isOp .move) = true := by decide +kernel
theorem meets_atlasWrite : meets (withSteps [stepOf 0 (oneSlice 0x10 ++ [(5, 1)]) []]) 0 (isOp .atlasWrite) = true := by decide +kernel
theorem meets_share : meets (withSteps [stepOf 0 (oneSlice 0x11 ++ [(6, 1)]) []]) 0 (isOp .share) = true := by decide +kernel
theorem meets_free : meets (withSteps [stepOf 0 (oneSlice 0x12 ++ [(5, 1)]) []]) 0 (isOp .free) = true := by decide +kernel
theorem meets_frog : meets (withSteps [stepOf 0 (oneSlice 0x13 ++ [(5, 1)]) []]) 0 (isOp .frog) = true := by decide +kernel
theorem meets_demote : meets (withSteps [stepOf 0 (oneSlice 0x14 ++ [(5, 1)]) []]) 0 (isOp .demote) = true := by decide +kernel
theorem meets_promote : meets (withSteps [stepOf 0 (oneSlice 0x15 ++ [(5, 1)]) []]) 0 (isOp .promote) = true := by decide +kernel
theorem meets_gather : meets (withSteps [stepOf 0 (oneSlice 0x16 ++ [(4, streamOf 0 0 0)]) []]) 0 (isOp .gather) = true := by decide +kernel
theorem meets_deliverRows : meets (withSteps [stepOf 0 (oneSlice 0x17 ++ [(4, streamOf 0 0 0)]) [(.src, chainOf 0 2)]]) 0
    (isOp .deliverRows) = true := by decide +kernel
theorem meets_gazClear : meets (withSteps [stepOf 0 (oneSlice 0x18 ++ [(5, 1)]) []]) 0 (isOp .gazClear) = true := by decide +kernel
theorem meets_send : meets (withSteps [stepOf 0 (oneSlice 0x20 ++ [(4, streamOf 0 0 0), (6, place 5 46 18)]) [(.src, chainOf 0 2)]]) 0
    (isOp .send) = true := by decide +kernel
theorem meets_recv : meets (withSteps [stepOf 0 (oneSlice 0x21 ++ [(4, streamOf 0 0 0)]) [(.dst, chainOf 0 2)]]) 0
    (isOp .recv) = true := by decide +kernel
theorem meets_mcast : meets (withSteps [{ stepOf 0 (oneSlice 0x22 ++ [(4, streamOf 0 0 0), (7, 1)]) [(.src, chainOf 0 2)] with
    sees := [(0, 64, false)] }]) 0 (isOp .mcast) = true := by decide +kernel

/-! ### Hypotheses of the statements on the queue, on the whole machine, on start-up and pins -/

theorem holds_stepRunsFront : ({ State.reset with pending := [.sbReady] } : State).pending = .sbReady :: [] := rfl
theorem holds_idle_held : State.reset.pending = [] ∧ State.reset.phase ≠ .ready := by decide +kernel
theorem holds_idle_ready : serving.pending = [] ∧ serving.phase = .ready := by decide +kernel
theorem holds_stepKeepsStores : State.reset.storesWf ∧ step State.reset = .next State.reset := ⟨⟨rfl, by decide +kernel⟩, rfl⟩
theorem holds_next : ∃ t, exec .hLockedRise serving = .next t := ⟨_, rfl⟩
theorem holds_tally_return : ({ State.reset with pins := { State.reset.pins with tallySupply := false } } : State).pins.tallySupply = false := rfl
theorem holds_tally_kept : tallyRow .hLockedRise = false ∧ ∃ t, exec .hLockedRise serving = .next t := ⟨rfl, _, rfl⟩

/-- The serving block with S000 fenced. -/
def fenced : State := serving.modSlice 0 (fun x => { x with power := .fenced })

theorem holds_deadSlice : restartRow .hLockedRise = false ∧ (fenced.slice 0).alive = false ∧ ∃ t, exec .hLockedRise fenced = .next t :=
  ⟨rfl, by decide +kernel, _, rfl⟩
theorem holds_inputPins : restartRow .probe = false ∧ tallyRow .probe = false ∧ Instr.probe ≠ .thermalTrip ∧
    Instr.probe ≠ .thermalTripClear ∧ Instr.probe ≠ .hLockedFall ∧ Instr.probe ≠ .hLockedRise ∧
    (∀ g, Instr.probe ≠ .opGrantChange g) ∧ ∃ t, exec .probe State.reset = .next t :=
  ⟨rfl, rfl, nofun, nofun, nofun, nofun, nofun, _, rfl⟩
theorem holds_sbReady_phase : Instr.sbReady = .sbReady ∧ ({ serving with phase := .starting } : State).phase = .starting := ⟨rfl, rfl⟩

/-- An identity ROM with a 2^34 B near store, every station and link, and S000 fused off (Table 11-20). -/
def rom : List (BitVec 32) := [1, 1, 0, 0, 0, 0, 0x0FFFFFFF, 34, 0, 0, 0, 0, 0, 0, 0, 0]

theorem holds_startInstant : State.reset.phase = .held ∧ nearLog2Ok (field (romWord rom 7) 0 8) = true ∧
    bitAt (identityOf rom 0).fused.toNat 0 = true ∧ bitAt (identityOf rom 0).fused.toNat 1 = false := by decide +kernel

/-- The block between the start instant and sb_ready, with station 0's identity still unread and a profile of 8-bit capacity and
rate fields. -/
def starting : State :=
  { serving.modStation 0 (fun m => { m with idValid := false }) with
    phase := .starting
    ident := { serving.ident with idLen := 32, capPos := 0, capWidth := 8, ratePos := 8, rateWidth := 8, rateScale := 10 } }

theorem holds_identity : starting.phase = .starting ∧ (starting.station 0).present = true ∧ (starting.station 0).idValid = false ∧
    (starting.station 0).failed = false := by decide +kernel
theorem holds_identity_good : starting.ident.profileOk = true ∧ field 0x0305 8 8 * 10 ≠ 0 ∧ field 0x0305 0 8 ≠ 2 ^ 8 - 1 := by decide +kernel
theorem holds_identity_bad : field 0x0005 8 8 * 10 = 0 ∧ field 0x03FF 0 8 = 2 ^ 8 - 1 := by decide +kernel
theorem holds_sbReady : ({ serving with phase := .starting } : State).phase = .starting ∧
    ∀ m : Fin 12, (({ serving with phase := .starting } : State).station m).present = true →
      (({ serving with phase := .starting } : State).station m).idValid = true := by decide +kernel
theorem holds_version : ((serving.setPort (.ms 0) true .waiting).portOf (.ms 0) true) = some (.waiting, 0x4D) ∧
    ((serving.setPort .hub true .waiting).portOf .hub true) = some (.waiting, 0x43) ∧ 2 ≤ (3 : BitVec 4).toNat ∧
    (1 : BitVec 4).toNat < 2 := by decide +kernel
theorem holds_thermal : serving.pins.thermal = false ∧
    ({ serving with pins := { serving.pins with thermal := true } } : State).pins.thermal = true := by decide +kernel
theorem holds_thermal_starting : ({ serving with phase := .starting } : State).phase = .starting := rfl
theorem holds_thermal_high : restartRow .probe = false ∧ Instr.probe ≠ .thermalTripClear ∧
    ∃ t, exec .probe ({ serving with pins := { serving.pins with thermal := true, opReq := 2 } } : State) = .next t := ⟨rfl, nofun, _, rfl⟩
theorem holds_operatingPoint : (1 : BitVec 2) ≠ serving.pins.opGrant ∧ ∀ x ∈ serving.hub.steps, x.open = false := by decide +kernel
theorem holds_lockFall : serving.phase = .ready ∧ serving.pins.hLocked = true := by decide +kernel

/-! ### Rings -/

/-- Ring 0 of context 0 enabled, with 16 entries in each of its rings, at 4 KiB and 8 KiB of the near store. -/
def ringed (s : State) : State :=
  s.modRing 0 0 (fun k =>
    { k with sqBase := 4096, sqLog2 := 4, cqBase := 8192, cqLog2 := 4, liveSqBase := 4096, liveSqLog2 := 4, liveCqBase := 8192, liveCqLog2 := 4
             enabled := true, inUse := true })

/-- The same with an entry to be read. -/
def rung : State := (ringed serving).modRing 0 0 (fun k => { k with tail := 1 })

theorem holds_doorbell : (ringed serving).cOpen = true ∧ ((ringed serving).ring 0 0).enabled = true ∧
    ((ringed serving).ctx 0).state = .opened ∧ (1 - ((ringed serving).ring 0 0).tail).toNat < 2 ^ 31 ∧
    (1 - ((ringed serving).ring 0 0).sqHead).toNat ≤ 2 ^ ((ringed serving).ring 0 0).liveSqLog2.toNat := by decide +kernel
theorem holds_doorbell_refused : ¬((serving.ring 0 0).enabled = true) ∧ ¬(serving.cqInUse 0 0 = true) := by decide +kernel
theorem holds_completionDoorbell : (ringed serving).cqInUse 0 0 = true ∧
    (0 - ((ringed serving).ring 0 0).consumed).toNat < 2 ^ 31 ∧
    (((ringed serving).ring 0 0).cqTail - 0).toNat ≤ ((ringed serving).ring 0 0).cqEntries := by decide +kernel
theorem holds_ringEnable : (serving.modRing 0 0 (fun k => { k with cqLog2 := 4 })).judge (writeFrame 0 0x3100 5 1 4) false = 0x40 ∧
    (serving.ring 0 0).sqLog2 = 0 ∧
    (ringed serving).judge (writeFrame 0 0x3100 5 1 5) false = 0x40 ∧ ((ringed serving).ring 0 0).sqLog2 ≠ 0 ∧
    (ringed serving).judge (writeFrame 0 0x3100 5 1 0) false = 0x40 := by decide +kernel
theorem holds_entryRead : rung.mayRead 0 0 1 = true ∧ (zeros 128).length = 128 * 1 := by decide +kernel
theorem holds_patternHeader : (serving.ring 0 0).expect.left = 0 ∧ wordField (zeros 128) 0 56 8 = 0 := by decide +kernel

/-- Ring 0 with a record that waits. -/
def recordWaits : State := (ringed serving).modRing 0 0 (fun k => { k with waiting := [{ slot := 0, first := zeros 64, exts := [] }] })

theorem holds_record : recordWaits.cOpen = true ∧ (recordWaits.ring 0 0).writable = some ({ slot := 0, first := zeros 64, exts := [] }, []) := by
  decide +kernel

/-- A dispatched step that has nothing left to do. -/
def overStep : Step := { stepOf 0 (oneSlice 0x0D) [] with phase := .dispatched }

theorem holds_completion : (withSteps [overStep]).step? 0 = some overStep ∧ overStep.finished = true ∧ overStep.suspends = false ∧
    overStep.target = none ∧ overStep.gatherResults = [] ∧ (withSteps [overStep]).skipRecord overStep = [] := by decide +kernel

/-- A GATHER whose sequence table is still to be written. -/
def gatherOver : Step := { stepOf 0 (oneSlice 0x16) [] with phase := .dispatched, seqLens := [1], perSeq := [1] }

theorem holds_completion_results : gatherOver.finished = true ∧ gatherOver.suspends = false ∧ gatherOver.resultsOut = false ∧
    gatherOver.gatherResults ≠ [] := by decide +kernel

/-- A step that has missed an ABSENT page. -/
def missed : Step := { overStep with miss := some { tile := 0, kind := 0, station := 0, level := 0, page := 0 } }

theorem holds_suspend : (withSteps [missed]).step? 0 = some missed ∧ missed.finished = true ∧ missed.suspends = true ∧
    missed.parent = none ∧ missed.resumedBy = none := by decide +kernel

/-! ### Checks, chains, grants -/

/-- A DELIVER of a slice that has none physical. -/
def lost : State :=
  let s := withSteps [stepOf 0 (oneSlice 0x01 ++ [(4, streamOf 0 0 0)]) [(.src, chainOf 0 2)]]
  s.modHub (fun h => { h with map := vmod h.map 0 (fun _ => none) })

/-- A DELIVER of a keyed context without a key. -/
def unkeyed : State :=
  (withSteps [stepOf 0 (oneSlice 0x01 ++ [(4, streamOf 0 0 0)]) [(.src, chainOf 0 2)]]).modCtx 0 (fun c => { c with keyed := true })

theorem holds_refused : stepRow (.deliver 0) = some (0, isOp .deliver) := rfl
theorem test_refused : (lost.step? 0).map (fun x => (lost.eligible x, lost.behind x, lost.verdict x)) = some (true, false, .refuse 0x23 0x01) := by
  decide +kernel
theorem test_held : (unkeyed.step? 0).map (fun x => (unkeyed.eligible x, unkeyed.behind x, unkeyed.verdict x)) = some (true, false, .hold) := by
  decide +kernel

/-- A ready NOP while the hub drains. -/
def draining : State := (withSteps [stepOf 0 (oneSlice 0x0D) []]).modHub (fun h => { h with quiesce := .draining })

theorem test_ready_not_dispatched : (draining.step? 0).map (fun x => (draining.eligible x, draining.verdict x, draining.dispatches x)) =
    some (true, .go, false) := by decide +kernel
theorem test_other_opcode : ((withSteps [stepOf 0 (oneSlice 0x0D) []]).step? 0).map (isOp .deliver) = some false := by decide +kernel
theorem holds_order : (unkeyed.ctx 0).keyed = true ∧ (unkeyed.ctx 0).cur.state ≠ .loaded ∧
    (lost.step? 0).map (fun x => lost.namedSlices x) = some (some [0]) ∧ lost.physOf 0 = none := by decide +kernel
theorem holds_marksStep : (withSteps [stepOf 3 (oneSlice 0x0D) []]).step? (stepOf 3 (oneSlice 0x0D) []).slot =
    some (stepOf 3 (oneSlice 0x0D) []) := by decide +kernel

/-- A GATHER of no sequence. -/
def emptyGather : Step := stepOf 0 (oneSlice 0x16 ++ [(4, streamOf 0 0 0)]) []

theorem holds_emptyGather : ((withSteps [emptyGather]).gatherChain emptyGather).1.failed = false ∧
    (withSteps [emptyGather]).gatherNeed emptyGather = none ∧ sumNat ((withSteps [emptyGather]).gatherChain emptyGather).2 = 0 := by
  decide +kernel

/-- A CAST_ON with its chain read. -/
def castOnStep : Step := stepOf 0 (oneSlice 0x09 ++ [(4, streamOf 0 0 0 + place 1 62 1)]) [(.src, chainOf 0 2)]

theorem holds_castOn : castOnStep.op = some .castOn ∧ (withSteps [castOnStep]).maskedChain castOnStep .src = some (chainOf 0 2) := by
  decide +kernel

/-- An ATLAS_WRITE of one page, in the table. -/
def atlasStep (op : Nat) : Step := stepOf 0 (oneSlice op ++ [(5, 1), (6, 1)]) []

theorem holds_atlas : (withSteps [atlasStep 0x10]).step? (atlasStep 0x10).slot = some (atlasStep 0x10) ∧ (atlasStep 0x10).runsItems = true ∧
    (atlasStep 0x10).op = some .atlasWrite ∧ (atlasStep 0x11).op = some .share ∧ (atlasStep 0x12).op = some .free ∧
    (atlasStep 0x13).op = some .frog ∧ (atlasStep 0x14).op = some .demote ∧ (atlasStep 0x15).op = some .promote := by decide +kernel

/-- A DELIVER of which no descriptor has been read. -/
def unread (ph : StepPhase) : Step := { stepOf 0 (oneSlice 0x01 ++ [(4, streamOf 0 0 0)]) [(.src, Chain.start 0 0)] with phase := ph }

theorem holds_batch : ∀ ph ∈ [StepPhase.held, .dispatched], (withSteps [unread ph]).step? 0 = some (unread ph) ∧
    ((withSteps [unread ph]).roles (unread ph)).contains .src = true ∧
    (withSteps [unread ph]).chainOf (unread ph) .src = some (Chain.start 0 0) ∧
    (withSteps [unread ph]).batchAsked (unread ph) .src (Chain.start 0 0) = true ∧ 0 = (Chain.start 0 0).next / 4096 * 4096 ∧
    (zeros 4096).length = 4096 := by decide +kernel

/-- A step dispatched to S000, with its share there. -/
def runOn (x0 : Step) : State :=
  let x : Step := { x0 with phase := .dispatched, slices := [0] }
  (withSteps [x]).modSlice 0 (fun y => { y with bound := some 0, shares := (newShare (withSteps [x]) x 0 none).toList })

/-- A DELIVER of two PASS tiles, dispatched to S000. -/
def delivering : State := runOn (stepOf 0 (oneSlice 0x01 ++ [(4, streamOf 0 0 0), (6, place 2 12 4)]) [(.src, chainOf 0 2)])

/-- The share of slot 0 on S000 meets what a grant of a source needs at chain index `i`. -/
def grants (s : State) (i : Nat) : Option (Bool × Bool) :=
  match s.liveShare 0 0 with
  | none => none
  | some (x, h) => (h.round .src).map (fun r => (walkAt x h r == .tile i && ((x.chain .src).bind (fun k => k.tileAt i)).isSome, x.rowSkips i))

theorem holds_slotGrant : grants delivering 0 = some (true, false) ∧ (delivering.step? 0).map (fun x =>
    (delivering.modSlice 0 Slice.touch).need (.step 0) x.ctx ((delivering.modSlice 0 Slice.touch).tileLooks x .src 0 0)) = some none := by
  decide +kernel

/-- The roots of context 0's atlas lie at near-store address 64. -/
def rooted (s : State) : State := s.modCtx 0 (fun c => { c with atlas := { c.atlas with roots := 64 } })

theorem holds_slotGrant_looks : grants (rooted delivering) 0 = some (true, false) ∧ ((rooted delivering).step? 0).map (fun x =>
    ((rooted delivering).modSlice 0 Slice.touch).lacks (.step 0) (((rooted delivering).modSlice 0 Slice.touch).tileLooks x .src 0 0)) =
      some (some (nearLook 0 64 8)) := by decide +kernel

/-- A DELIVER_ROWS whose row mask, at near-store address 0, is all zero. -/
def rowsOff : State :=
  runOn { stepOf 0 (oneSlice 0x17 ++ [(4, streamOf 0 0 0), (6, place 2 12 4)]) [(.src, chainOf 0 2)] with
    granules := [(0, zeros 64, false)] }

theorem holds_slotGrant_rows : grants rowsOff 0 = some (true, true) := by decide +kernel

/-! ### Stations -/

/-- Context 0's page 0 has the leaf `l`, under a root, a middle and a leaf node in stack 0. -/
def mapped (s : State) (l : Leaf) : State :=
  let node := fun (a : Nat) => sealEntry false [] 0 0 0 0 (leBytes 8 (place 1 63 1 + a))
  ((((rooted s).writeNear 64 (leBytes 8 4096)).writeStack 0 4096 (node 8192)).writeStack 0 8192 (node 16384)).writeStack 0 16384
    (sealEntry false [] 0 0 0 0 l.toBytes)

/-- Reads have come for who asked. -/
def seen (s : State) (who : Asker) (ls : List Look) : State :=
  ls.foldl (fun t l => t.modStation l.ms (fun x => { x with seen := (who, l) :: x.seen })) s

/-- A DENSE RESIDENT page of station 0. -/
def resident : Leaf := Leaf.residentAt 0 0 65536 131072 0

/-- A fetch of tile 0 for the share on S000. -/
def fetchOf (l : Option Leaf) : FetchRec :=
  { slot := 0, ctx := 0, chainIdx := 0, tileNo := 0, slice := 0, role := .src, pos := 0, mapWord := none, leaf := l, remoteFor := none }

/-- One transaction in flight. -/
def inFlight (s : State) (src dst : UnitId) (b : Body) : State := { s with net := [{ src := src, dst := dst, hdr := 0, body := b }] }

/-- What a unit takes of the network. -/
def took (s : State) (src dst : UnitId) (code : Nat) : Option Body := (s.recvTxn src dst code).map (·.1)

theorem holds_fetch_forwarded : took (inFlight delivering (.ms 1) (.ms 0) (.fetch (fetchOf (some resident)))) (.ms 1) (.ms 0) 0x01 =
      some (.fetch (fetchOf (some resident))) ∧
    delivering.need (.step 0) 0 (delivering.fetchLooks 0 (fetchOf (some resident))) = none := by decide +kernel

/-- The walked page of a fetch, with every read it needs made. -/
def fetching : State :=
  let s := inFlight (mapped delivering resident) (.slice 0) (.ms 0) (.fetch (fetchOf none))
  seen s (.step 0) (s.fetchLooks 0 (fetchOf none))

theorem holds_fetch_home : took fetching (.slice 0) (.ms 0) 0x01 = some (.fetch (fetchOf none)) ∧
    fetching.need (.step 0) 0 (fetching.fetchLooks 0 (fetchOf none)) = none ∧ fetching.walk 0 0 = .leaf resident 16384 16384 := by
  decide +kernel
theorem holds_fetch_looks : (inFlight (mapped delivering resident) (.slice 0) (.ms 0) (.fetch (fetchOf none))).lacks (.step 0)
    ((mapped delivering resident).fetchLooks 0 (fetchOf none)) = some (nearLook 0 64 8) := by decide +kernel
theorem holds_grant : took (inFlight delivering (.slice 0) (.ms 0) (.grant 0 .src 0)) (.slice 0) (.ms 0) 0x02 = some (.grant 0 .src 0) ∧
    (inFlight delivering (.slice 0) (.ms 0) (.grant 0 .src 0)).grantTarget 0 0 0 .src 0 = none := by decide +kernel

/-- The fetch has gone on to station 1. -/
def onward : State := (inFlight delivering (.slice 0) (.ms 0) (.grant 0 .src 0)).modStation 1 (fun x =>
  { x with jobs := [{ id := 0, kind := .readTile (fetchOf (some resident)) resident (some 0), waiting := 1, bad := [], legends := none
                      buf := [], tile := none }] })

theorem holds_grant_onward : onward.grantTarget 0 0 0 .src 0 = some 1 := by decide +kernel
theorem holds_transaction : took (inFlight serving .hub (.slice 0) (.ctl .probe)) .hub (.slice 0) 0x08 = some (.ctl .probe) := by decide +kernel

/-- A read request of one granule, or a write that gives half of one. -/
def reqOf (wr : Bool) (len : Nat) : MReq :=
  { cls := if wr then .write else .read, wr := wr, ctx := 0, kind := .stitch, first := 0, granules := ceilDiv len 64
    ranges := [{ addr := 0, len := len, data := if wr then zeros len else [], job := 0, off := 0, order := 0, sweep := false }], scrub := false, fill := none }

/-- Station 0 with a closed request, its M-port at a version. -/
def closedReq (v : Nat) (q : MReq) : State := serving.modStation 0 (fun x => { x with mVer := .agreed v, closed := [q] })

theorem holds_issue : let s := closedReq 3 (reqOf false 64)
    s.stationUp 0 = true ∧ (s.station 0).mVer.isOpen = true ∧ (s.station 0).closed = [] ++ [reqOf false 64] ++ [] ∧
    freeId 512 ((s.station 0).window.map (·.id)) = some 0 ∧ Int.ofNat ((reqOf false 64).bytes * 15360) ≤ (s.station 0).credit .read ∧
    ((s.station 0).window.filter (fun o => o.req.cls == .read && !o.req.scrub)).length < s.windowOf 0 .read := by decide +kernel
theorem holds_issue_partial : let s := closedReq 2 (reqOf true 32)
    s.stationUp 0 = true ∧ (s.station 0).mVer = .agreed 2 ∧ (reqOf true 32).partials ≠ [] ∧ (reqOf true 32).fill = none ∧
    freeId 512 ((s.station 0).window.map (·.id)) = some 0 ∧ Int.ofNat ((reqOf true 32).bytes * 15360) ≤ (s.station 0).credit .write ∧
    ((s.station 0).window.filter (fun o => o.req.cls == .write && !o.req.scrub)).length < s.windowOf 0 .write := by decide +kernel

/-- Station 0 with an outstanding request. -/
def outstanding (q : MReq) : State :=
  serving.modStation 0 (fun x => { x with window := [{ id := 5, req := q, got := 0, data := [], bad := [] }] })

theorem holds_mReadBeat : ∀ p ∈ [(64, true), (2048, false)], let s := outstanding (reqOf false p.1)
    (s.station 0).window.find? (fun w => w.id == (5 : BitVec 9).toNat && !w.req.wr) =
      some { id := 5, req := reqOf false p.1, got := 0, data := [], bad := [] } ∧
    p.2 = decide ((reqOf false p.1).bytes ≤ 0 + 1024) := by decide +kernel
theorem holds_mWriteAck : ((outstanding (reqOf true 64)).station 0).window.find? (fun w => w.id == (5 : BitVec 9).toNat && w.req.wr) =
    some { id := 5, req := reqOf true 64, got := 0, data := [], bad := [] } := by decide +kernel
theorem holds_stray : (serving.station 0).window.find? (fun w => w.id == (5 : BitVec 9).toNat && !w.req.wr) = none ∧
    (serving.station 0).window.find? (fun w => w.id == (5 : BitVec 9).toNat && w.req.wr) = none ∧ (serving.slice 0).alive = true ∧
    takeBeat (5 : BitVec 8).toNat 512 true (serving.slice 0).nOut = none ∧ takeBeat (5 : BitVec 6).toNat 128 true serving.hub.cOut = none ∧
    (serving.slice 0).nOut.find? (fun q => q.id == (5 : BitVec 8).toNat && q.wr) = none ∧
    serving.hub.cOut.find? (fun q => q.id == (5 : BitVec 6).toNat && q.wr) = none ∧
    (serving.link 0).rx.find? (fun k => k.verdict.isNone) = none := by decide +kernel

/-- A near-store request. -/
def nearReq (wr : Bool) (len : Nat) (p : NPurpose) : NReq :=
  { id := 5, wr := wr, addr := 0, len := len, data := if wr then zeros len else [], got := 0, bad := false, purpose := p }

/-- S000 and the hub, each with a request outstanding. -/
def nearOut (q : NReq) : State := (serving.modSlice 0 (fun x => { x with nOut := [q] })).modHub (fun h => { h with cOut := [q] })

theorem holds_nReadBeat : ∀ p ∈ [(64, true), (1024, false)], takeBeat (5 : BitVec 8).toNat 512 p.2
    ((nearOut (nearReq false p.1 .other)).slice 0).nOut = some (nearReq false p.1 .other) := by decide +kernel
theorem holds_cReadBeat : takeBeat (5 : BitVec 6).toNat 128 true (nearOut (nearReq false 64 .other)).hub.cOut =
    some (nearReq false 64 .other) := by decide +kernel
theorem holds_nearAcks : ∀ p ∈ [NPurpose.other, .record 0 0 true, .hubWrite 0], let s := nearOut (nearReq true 64 p)
    (s.slice 0).nOut.find? (fun w => w.id == (5 : BitVec 8).toNat && w.wr) = some (nearReq true 64 p) ∧
    s.hub.cOut.find? (fun w => w.id == (5 : BitVec 6).toNat && w.wr) = some (nearReq true 64 p) ∧ s.hub.cVer ≠ .agreed 2 := by decide +kernel

/-- A write of tile 0 of a DENSE PASS stream, its stitch cut short: no hypothesis looks at it. -/
def writeOf (l : Option Leaf) : WriteRec :=
  { slot := 0, role := .dst, ctx := 0, chainIdx := 0, tileNo := 0, slice := 0, legend := Legend.ofBytes (zeros 32), stitch := zeros 16
    layout := 0, ceiling := 0, tileMap := 0, masked := false, pageLast := false, load := none, remoteCls := false, leaf := l }

theorem holds_write_home : let s := inFlight delivering (.slice 0) (.ms 0) (.write (writeOf none))
    took s (.slice 0) (.ms 0) 0x03 = some (.write (writeOf none)) ∧ s.writeWaits 0 (writeOf none) = false ∧
    s.need (.step 0) 0 (s.homeLooks 0 (writeOf none)) = none := by decide +kernel
theorem holds_write_accepted : let s := inFlight delivering (.ms 1) (.ms 0) (.write (writeOf (some resident)))
    took s (.ms 1) (.ms 0) 0x03 = some (.write (writeOf (some resident))) ∧ s.writeWaits 0 (writeOf (some resident)) = false ∧
    s.need (.step 0) 0 (s.storeLooks 0 (writeOf (some resident)) resident) = none ∧ Layout.ofCode resident.layout = some .dense := by
  decide +kernel

/-- A write held for a page at station 0, with every read of its copy made. -/
def copied (s : State) (l : Leaf) : State :=
  let t := (mapped s l).modStation 0 (fun x => { x with heldWrites := [writeOf none] })
  seen t (.step 0) (t.copyLooks [] 0 0)

theorem holds_copyDone : ((copied delivering resident).station 0).heldWrites = [writeOf none] ∧
    (copied delivering resident).need (.step 0) 0 ((copied delivering resident).copyLooks [] 0 0) = none ∧
    (copied delivering resident).walk 0 0 = .leaf resident 16384 16384 ∧ resident.mustChange = false := by decide +kernel

/-- A shared page whose station has a pool ring of 16 entries at near-store address 2048, with one frame in it. -/
def sharedPage : State :=
  let s := delivering.modCtx 0 (fun c => { c with atlas := { c.atlas with pool := 1024, shareTable := 4096, shareRecords := 4 } })
  let t := (((s.writeNear 1024 (leBytes 8 2048)).writeNear 1032 (leBytes 8 4)).writeNear 1040 (leBytes 8 1)).writeNear 1056 (leBytes 8 2048)
  let u := (((t.writeNear 1064 (leBytes 8 4)).writeNear 1072 (leBytes 8 1)).writeNear 2048 (leBytes 8 8192)).writeNear 2056 (leBytes 8 4096)
  copied (u.writeNear 4096 (leBytes 8 2)) { resident with layout := 1, shared := true }

theorem holds_copyDone_shared : sharedPage.need (.step 0) 0 (sharedPage.copyLooks [] 0 0) = none ∧
    sharedPage.walk 0 0 = .leaf { resident with layout := 1, shared := true } 16384 16384 ∧
    ({ resident with layout := 1, shared := true } : Leaf).mustChange = true ∧
    (match sharedPage.copyOnWrite [] 0 0 { resident with layout := 1, shared := true } 16384 16384 with
      | .done _ _ => true
      | _ => false) = true := by decide +kernel

/-! ### Datapaths, D-port, A-port, accumulation -/

/-- The positions of a round, the first granted to an absent tile under FILL. -/
def filled (h : Share) : Share :=
  { h with rounds := h.rounds.map (fun r => { r with walk := 1, granted := 1, slots := [{ pos := 0, walkPos := 0, chainIdx := 0, content := .fill }] }) }

/-- A buffer handle. -/
def handle : QEntry := { poisoned := false, last := false, tag := 0, handle := 7 }

/-- S000's shares changed, with a buffer handle in D-free. -/
def ready (s : State) (f : Share → Share) : State := s.modSlice 0 (fun y => { y with shares := y.shares.map f, dFree := [handle] })

theorem holds_expandStart : ((((ready delivering filled).slice 0).shares.findSome? (fun h => (ready delivering filled).startShare 0 h.slot)).isSome) =
    true := by decide +kernel

/-- A GATHER_MERGE whose two rounds each hold an absent tile. -/
def pairing : State := ready (runOn (stepOf 0 (oneSlice 0x06 ++ [(4, streamOf 0 1 1), (6, streamOf 0 0 0), (8, place 3 12 4)])
  [(.src, chainOf 0 2), (.act, chainOf 16 2)])) filled

theorem holds_pairStart : (pairing.slice 0).shares.map (·.kind) = [.gatherMerge] ∧
    ((pairing.liveShare 0 0).bind (fun p => pairing.startPair 0 p.1 p.2)).isSome = true := by decide +kernel

/-- A compressor's input tile that its step passes by. -/
def input : InTile :=
  { chainIdx := 0, load := false, data := [], pos := [], beats := 0, scale := 0, scaleValid := false, absent := true, poison := false
    bindOff := false }

/-- A COMPRESS to two PASS tiles, dispatched to S000. -/
def compressing : State := runOn (stepOf 0 (oneSlice 0x02 ++ [(4, streamOf 0 0 0)]) [(.dst, chainOf 0 2)])

/-- The same with an input tile taken. -/
def coding : State := ready compressing (fun h => { h with queue := [input] })

theorem holds_tileCompressed : ((coding.slice 0).shares.findSome? (fun h => coding.codeShare 0 h.slot)).isSome = true := by decide +kernel

/-- A C_COMPRESS that has been stopped, with the block it was filling. -/
def blocking : State :=
  ready (runOn (stepOf 0 (oneSlice 0x04 ++ [(4, streamOf 2 0xC 0xC), (6, place 1 12 1)]) [(.dst, chainOf 0 2)]))
    (fun h => { h with block := some { firstIdx := 0, tiles := [input], closed := false }, stop := some 0 })

theorem holds_blockCoded : (blocking.slice 0).shares.map (·.kind) = [.contour] ∧
    ((blocking.liveShare 0 0).bind (fun p => blocking.codeBlock 0 p.1 p.2)).isSome = true := by decide +kernel

/-- S000 with a contour tile decoded for its share. -/
def decoded (s : State) : State := s.modSlice 0 (fun y =>
  { y with
    decoding := some { slot := 0, chainIdx := 0, pos := 0, data := [], legend := Legend.ofBytes (zeros 32), scale := 0, poison := false }
    dFree := [handle] })

/-- A C_DECOMPRESS, dispatched to S000. -/
def decompressing : State :=
  runOn (stepOf 0 (oneSlice 0x05 ++ [(4, streamOf 2 0xC 0xC), (5, streamOf 0 0 0)]) [(.src, chainOf 0 2), (.dst, chainOf 16 2)])

theorem holds_decoded : (decoded delivering).liveShare 0 0 = delivering.liveShare 0 0 ∧ ((decoded delivering).slice 0).mayOffer = true ∧
    ((decoded delivering).liveShare 0 0).map (fun p => (p.2.kind.toDPort, ((decoded delivering).use p.1 .src).isSome)) = some (true, true) ∧
    ((decoded decompressing).liveShare 0 0).map (fun p =>
      (p.2.kind.toDPort, takesTile p.1 p.2, ((decoded decompressing).use p.1 .src).isSome)) = some (false, true, true) := by decide +kernel

/-- A tile on the D-port with `n` beats, `sent` of them transferred. -/
def onPort (n sent : Nat) : DTile :=
  { slot := 0, ctx := 0, tag := 0, chainIdx := 0, pos := 0, mode := 0, scale := 0, poison := false, buf := 7, replay := false, pairs := 0, sent := sent
    beats := List.replicate n (0, [], []) }

/-- S000 sending it, with D-full holding `full` entries. -/
def sending (n sent full : Nat) : State := delivering.modSlice 0 (fun y =>
  { y with sending := some (onPort n sent), dFull := List.replicate full handle })

theorem holds_dBeat : ∀ p ∈ [(4, 0, 0), (4, 3, 0), (4, 3, 16)], let s := sending p.1 p.2.1 p.2.2
    (s.slice 0).awake = true ∧ (s.slice 0).sending = some (onPort p.1 p.2.1) ∧
    ((onPort p.1 p.2.1).sent + 1 < (onPort p.1 p.2.1).beats.length ∨ (s.slice 0).dFull.length < 16 ∨ 16 ≤ (s.slice 0).dFull.length) := by
  decide +kernel
theorem holds_queues : (delivering.slice 0).awake = true ∧ (delivering.slice 0).dFree.length < 16 ∧
    16 ≤ ((delivering.modSlice 0 (fun y => { y with dFree := List.replicate 16 handle })).slice 0).dFree.length := by decide +kernel
theorem holds_frogMarker : ((delivering.modSlice 0 (fun y =>
    { y with frogQ := [{ slot := 0, cookie := 9, index := 0, seqIdx := 0 }] })).slice 0).frogQ =
      { slot := 0, cookie := 9, index := 0, seqIdx := 0 } :: [] := by decide +kernel

/-- A share with mark 0 set. -/
def marked : State := ready delivering (fun h => { h with marks := [{ id := 0, hard := true, pos := 0 }] })

theorem holds_marks : (delivering.markShare 0).isSome = true ∧ (delivering.markShare 0).map (fun h => h.marks.find? (fun k => k.id == 0)) = some none ∧
    (marked.markShare 0).map (fun h => h.marks.find? (fun k => k.id == 0)) = some (some { id := 0, hard := true, pos := 0 }) ∧
    serving.markShare 0 = none := by decide +kernel

/-- A beat of the A-port. -/
def beat (last : Bool) : ABeat :=
  { data := [], pos := [], last := last, index := 0, scale := 0, poison := false, bindOff := false, buf := 0 }

/-- What an A-port beat finds on S000: whether the next input asks for a granule, and whether the slice is ready. -/
def finds (s : State) (b : ABeat) : Option (Option Nat × Bool × Bool) :=
  match s.inputShare 0 with
  | none => none
  | some (x, h0) =>
    let s1 := s.passAbsent 0 x.slot (shareLength x (some h0))
    ((s1.slice 0).share x.slot).map (fun h => (x.beatAsks h b, s1.aReady 0 x h b, h.kind == .scatter))

/-- A SCATTER of 30 records, dispatched to S000 with its set open. -/
def scattering : State := accState { stepOf 0 (accWords 0x07) accChains with phase := .dispatched, slices := [0] } |>.modSlice 0 (fun y =>
  { y with
    bound := some 0
    shares := (newShare serving { stepOf 0 (accWords 0x07) accChains with phase := .dispatched, slices := [0] } 0 none).toList })

theorem holds_aBeat : finds compressing (beat false) = some (none, true, false) ∧ finds compressing (beat true) = some (none, true, false) ∧
    finds scattering (beat false) = some (none, true, true) ∧ finds scattering (beat true) = some (none, true, true) := by decide +kernel

/-- A COMPRESS whose A-done queue is full. -/
def doneFull : State := compressing.modSlice 0 (fun y => { y with aDone := List.replicate 16 handle })

theorem holds_aBeat_full : finds doneFull (beat true) = some (none, false, false) := by decide +kernel

/-- A COMPRESS under a destination mask of one page, none of whose maps has been read. -/
def masked : State := runOn { stepOf 0 (oneSlice 0x02 ++ [(4, streamOf 0 0 0)]) [(.dst, chainOf 0 2)] with
  masks := [(.dst, { origin := 0, pages := 1, sheet := 0, quad := 64, tile := 128 })] }

theorem holds_aBeat_asks : finds masked (beat true) = some (some 0, true, false) := by decide +kernel

/-- A record with key 0. -/
def record0 : Nat × List Nat × Bool := (0, List.replicate 32 0, false)

/-- The scatter step with a record taken and `n` spills waiting. -/
def spilling (n : Nat) : State := (scattering.modSlice 0 (fun y => { y with records := [(0, record0)] })).modShare 0 0 (fun h =>
  { h with spillHeld := List.replicate n record0 })

theorem holds_scatterRecord : ∀ n ∈ [0, 64], (((spilling n).slice 0).shares.find? (fun k => k.kind == .scatter && !k.reported && !k.inDone)).isSome = true ∧
    ((spilling n).liveShare 0 0).map (fun p => p.2.spillHeld.length) = some n ∧ ((spilling n).slice 0).records = (0, record0) :: [] := by decide +kernel

/-- A MERGE_OUT, dispatched to S000, with what it has of a round. -/
def merging (w : Option MergeWork) (spill : List (Nat × List Nat × Bool)) : State :=
  let x : Step := { stepOf 0 (accWords 0x08) accChains with phase := .dispatched, slices := [0] }
  ((accState x).modSlice 0 (fun y => { y with bound := some 0, shares := (newShare serving x 0 none).toList })).modShare 0 0 (fun h =>
    { h with merge := w, spillHeld := spill })

/-- A round at work. -/
def roundOf (tiles : Option (List Nat)) : MergeWork :=
  { bank := { owner := none, sets := [] }, pos := 0, refused := [], discarded := 0, tiles := tiles }

/-- A merge-out step can work at its round on S000, and finds the round's work and the spills given. -/
def mergeFinds (s : State) (w : Option MergeWork) (spills : Nat) : Bool :=
  ((s.slice 0).shares.find? (fun k => k.kind == .mergeOut && !k.reported && !k.inDone)).isSome && (s.liveShare 0 0).any (fun p =>
    p.2.stop.isNone && p.1.miss.isNone && (s.ownerOf 0 p.1).isSome && p.2.merge == w && p.2.spillHeld.length == spills)

theorem holds_mergeOut_read : mergeFinds (merging (some (roundOf none)) []) (some (roundOf none)) 0 = true := by decide +kernel
theorem holds_mergeOut_write : mergeFinds (merging (some (roundOf (some [0]))) []) (some (roundOf (some [0]))) 0 = true := by decide +kernel
theorem holds_mergeOut_spill : mergeFinds (merging (some (roundOf (some []))) [record0]) (some (roundOf (some []))) 1 = true := by decide +kernel
theorem holds_mergeOut_end : mergeFinds (merging (some (roundOf (some []))) []) (some (roundOf (some []))) 0 = true := by decide +kernel
theorem holds_mergeOut_begin : mergeFinds (merging none []) none 0 = true ∧ ((merging none []).sharesOf 0).length = 1 ∧
    ((merging none []).step? 0).map (fun x => (x.slices, x.doneShares, x.setLost)) = some ([0], [], false) ∧
    ((merging none []).sharesOf 0).all (fun g => g.inPos == 0 && g.out.isEmpty && g.spillHeld.isEmpty) = true := by decide +kernel

/-! ### Transactions at their receivers -/

theorem holds_stitch : took (inFlight delivering (.ms 0) (.slice 0) (.stitch 0 .src 0 (plainTile (zeros 32) none 0))) (.ms 0) (.slice 0) 0x21 =
    some (.stitch 0 .src 0 (plainTile (zeros 32) none 0)) := by decide +kernel
theorem holds_xlate : let s := inFlight delivering (.ms 0) (.slice 0) (.xlate (fetchOf none) resident)
    took s (.ms 0) (.slice 0) 0x27 = some (.xlate (fetchOf none) resident) ∧ (s.step? 0).isSome = true ∧
    (s.fetchFmt (fetchOf none) resident).isSome = true := by decide +kernel
theorem holds_xlate_write : took (inFlight delivering (.ms 0) (.slice 0) (.xlate (fetchOf (some resident)) resident)) (.ms 0) (.slice 0) 0x27 =
    some (.xlate (fetchOf (some resident)) resident) := by decide +kernel
theorem holds_nacc : took (inFlight serving .hub (.slice 0) (.nacc 0 false 0 64 [])) .hub (.slice 0) 0x05 = some (.nacc 0 false 0 64 []) := by
  decide +kernel
theorem holds_ndata : ∀ u ∈ [UnitId.ms 0, .hub], took (inFlight serving (.slice 0) u (.ndata 0 64 (zeros 64) [])) (.slice 0) u 0x23 =
    some (.ndata 0 64 (zeros 64) []) := by decide +kernel
theorem holds_ack : ∀ u ∈ [UnitId.slice 1, .ls 0], took (inFlight delivering (.slice 0) u (.ack 0 .dst 0)) (.slice 0) u 0x22 =
    some (.ack 0 .dst 0) := by decide +kernel
theorem holds_qpush : took (inFlight delivering (.slice 1) (.slice 0) (.qpush 0 handle)) (.slice 1) (.slice 0) 0x07 = some (.qpush 0 handle) := by
  decide +kernel
theorem holds_credit : ∀ u ∈ [UnitId.slice 0, .ls 0], took (inFlight delivering (.slice 1) u (.credit 0 0 1)) (.slice 1) u 0x24 =
    some (.credit 0 0 1) := by decide +kernel
theorem holds_summary : ∀ out ∈ [[], [nearReq false 64 (.gaz .merge (.slice 1) 0 { entry := 0, page := 0, tile := 0, y := 0, n := 0, bounds := [] } 0 0)]],
    let s := (inFlight serving (.slice 1) (.slice 0) (.summary 0 0 0 0 0 0 [] 0 0)).modSlice 0 (fun x => { x with nOut := out })
    took s (.slice 1) (.slice 0) 0x06 = some (.summary 0 0 0 0 0 0 [] 0 0) ∧ (s.slice 0).merging = !out.isEmpty := by decide +kernel
theorem holds_atlasTxn : took (inFlight serving (.ms 1) (.ms 0) (.atlas (.setLeaf 0 0 resident 0))) (.ms 1) (.ms 0) 0x09 =
    some (.atlas (.setLeaf 0 0 resident 0)) := by decide +kernel
theorem holds_ctl : took (inFlight serving .hub (.slice 0) (.ctl .probe)) .hub (.slice 0) 0x08 = some (.ctl .probe) := by decide +kernel

/-- A report with nothing in it. -/
def report (probe : Bool) : Report :=
  { slot := 0, j := 0, last := none, countA := 0, countB := 0, result := 0, tiles := 0, escalated := 0, conds := [], flags := {}, skipped := none
    shareDone := false, receivers := 0, lost := none, miss := none, ofFetch := false, probeAnswer := probe }

theorem holds_status : ∀ b ∈ [true, false], took (inFlight serving (.slice 0) .hub (.status (report b))) (.slice 0) .hub 0x26 =
    some (.status (report b)) := by decide +kernel

/-- A record for a receiver. -/
def txRecord : TxRecord := { chainIdx := 0, record := { tile := 0, legend := zeros 32, stitch := [] } }

theorem holds_lsend : ∀ u ∈ [UnitId.ms 0, .slice 0], took (inFlight serving u (.ls 0) (.lsend 0 0 txRecord true)) u (.ls 0) 0x04 =
    some (.lsend 0 0 txRecord true) ∧ serving.step? 0 = none := by decide +kernel
theorem holds_verdictTxn : took (inFlight serving (.ls 0) (.slice 0) (.verdict 0 true)) (.ls 0) (.slice 0) 0x25 = some (.verdict 0 true) := by
  decide +kernel
theorem holds_reserved : serving.unitUp (.slice 0) = true ∧ typeLegal 0x0A false = false ∧ typeLegal 0x21 false = false := by decide +kernel

/-! ### Link stations -/

/-- A frame header from context 0 of engine 5 to context 0 of engine 1 (Table 11-13). -/
def header (kind records : Nat) : FrameHeader :=
  { ident := 0x5C, version := 3, kind := kind, srcEngine := 5, dstEngine := 1, srcContext := 0, dstContext := 0, tag := 0, records := records
    firstIndex := 0, seq := 0, catchup := false, wholeSlot := false, lastFrame := true, tiles := 0, page := 0, credit := 0 }

/-- A whole frame of 64 B, `read` of its one word read. -/
def frame64 (h : FrameHeader) (read : Nat) (verdict : Option Bool) : RxFrame :=
  { Link.reset.newFrame 5 with
    words := [{ data := h.toBytes ++ zeros 448, valid := 64, last := true }], beats := 1, whole := true, wordsRead := read
    released := read == 1, verdict := verdict }

/-- Link station 0 with received frames. -/
def received (s : State) (fs : List RxFrame) : State := s.modLink 0 (fun x => { x with rx := fs, nextFrame := fs.length })

/-- A frame of which one beat has come. -/
def begun : RxFrame := Link.reset.newFrame 5 |>.take { data := zeros 128, first := true, last := false, bytes := 0, src := 5 }

theorem holds_lRxBeat : ((received serving [begun]).link 0).openFrame = some begun ∧ (serving.link 0).openFrame = none ∧
    (serving.link 0).bankFree (serving.link 0).nextBank = true ∧
    (∀ s ∈ [received serving [frame64 (header 5 0) 0 none, { frame64 (header 5 0) 0 none with number := 1, bank := 1 }]],
      (s.link 0).openFrame = none ∧ (s.link 0).bankFree (s.link 0).nextBank = false) := by decide +kernel
theorem holds_ingress : ((received serving [frame64 (header 5 0) 0 none]).link 0).rx.find? (fun k => !k.released) = some (frame64 (header 5 0) 0 none) ∧
    (frame64 (header 5 0) 0 none).readable serving.hub.dict.cutThrough.toNat = true := by decide +kernel
theorem holds_verdict : ((received serving [frame64 (header 5 0) 0 none]).link 0).rx.find? (fun k => k.verdict.isNone) =
    some (frame64 (header 5 0) 0 none) ∧ (frame64 (header 5 0) 0 none).whole = true ∧
    serving.linkUp 0 = true ∧ (serving.link 0).lVer.isOpen = true := by decide +kernel

/-- A RECV from context 0 of engine 5, dispatched. -/
def receiving : State := withSteps [{ stepOf 0 (oneSlice 0x21 ++ [(4, streamOf 0 0 0), (6, place 5 46 18)]) [(.dst, chainOf 0 2)] with phase := .dispatched }]

theorem holds_dataFrame : let f := frame64 (header 1 0) 1 none
    (received receiving [f]).frameNow 0 isDataKind = some f ∧
    ((received receiving [f]).recvFor f.header).map (fun x => x.phase != .held) = some true := by decide +kernel
theorem holds_dataFrame_lost : let f := frame64 (header 1 0) 1 (some false)
    (received serving [f]).frameNow 0 isDataKind = some f ∧ (received serving [f]).recvFor f.header = none ∧ f.outcome = some false ∧
    f.released = true := by decide +kernel
theorem holds_rread : let f := frame64 (header 2 0) 1 (some false)
    (received serving [f]).frameAt 0 (· == 2) = some f ∧ f.outcome = some false ∧ (f.parse (serving.link 0).version).2 = none ∧
    f.header.dstEngine = serving.ident.engineId.toNat := by decide +kernel

/-- A link station with a remote read outstanding. -/
def asking (fs : List RxFrame) : State :=
  (received delivering fs).modLink 0 (fun x => { x with requests := [{ number := 0, fetch := fetchOf none }] })

theorem holds_answers : let f := frame64 (header 3 1) 1 (some false)
    let g := frame64 (header 4 0) 1 (some false)
    (asking [f]).frameNow 0 (· == 3) = some f ∧ ((asking [f]).requestOf 0 f.header).isSome = true ∧
    (asking [g]).frameAt 0 (· == 4) = some g ∧ ((asking [g]).requestOf 0 g.header).isSome = true ∧ g.outcome = some false ∧
    (g.parse ((asking [g]).link 0).version).2 = none := by decide +kernel
theorem holds_creditFrame : let f := frame64 (header 5 0) 1 (some false)
    (received serving [f]).frameAt 0 (· == 5) = some f ∧ f.outcome = some false ∧ (f.parse (serving.link 0).version).2 = none ∧
    f.header.dstEngine = serving.ident.engineId.toNat := by decide +kernel

/-- A receiver of slot 0's step that has nothing more to get. -/
def receiver : Receiver :=
  { slot := 0, number := 0, engine := 5, context := 0, tag := 0, pending := [], seq := 0, sentTiles := 0, frames := 0, sentBytes := 0
    outBytes := 0, first := 0, lastSent := false, done := false }

/-- A SEND of an empty chain, dispatched, with its receiver. -/
def sendingOn : State :=
  (withSteps [{ stepOf 0 (oneSlice 0x20 ++ [(4, streamOf 0 0 0), (6, place 5 46 18)]) [(.src, chainOf 0 2)] with
    phase := .dispatched, doneShares := [0] }]).modLink 0 (fun x => { x with
      receivers := [{ receiver with sentTiles := 1, pending := [{ txRecord with chainIdx := 1 }] }] })

theorem holds_frameSend : ∃ t, ((sendingOn.link 0).receivers.findSome? (sendingOn.serveReceiver 0)) = some t :=
  Option.isSome_iff_exists.mp (by decide +kernel)
theorem holds_frameSend_queued :
    ((serving.modLink 0 (fun x => { x with tx := [{ slot := 0, receiver := 0, reply := true, header := header 5 0, body := [], tiles := 0 }] })).link 0).tx =
      { slot := 0, receiver := 0, reply := true, header := header 5 0, body := [], tiles := 0 } :: [] := by decide +kernel

/-! ### Contexts, keys, scrubs -/

/-- A ready step of context 0 waits for S000, which is bound to context 1. -/
def waited : State := (withSteps [{ stepOf 0 (oneSlice 0x01 ++ [(4, streamOf 0 0 0)]) [(.src, chainOf 0 2)] with readyAt := some 0 }]).modSlice 0
  (fun y => { y with bound := some 1 })

theorem holds_sliceDue : waited.nextContext 0 = some 0 ∧ (waited.slice 0).busyFor 1 = false ∧ (waited.slice 0).bound = some 1 := by decide +kernel

/-- The same, S000 being due to move. -/
def due : State := waited.modSlice 0 (fun y => { y with moveDue := some 0 })

theorem holds_sliceMove : (due.slice 0).moveDue = some 0 ∧ (due.slice 0).awake = true ∧ (due.slice 0).atBoundary 1 = true ∧
    (due.slice 0).busyFor 1 = false ∧ due.left 0 0 = false := by decide +kernel

/-- Context 0 with something retired. -/
def retiring (r : Retired) : State := serving.modCtx 0 (fun c => { c with retired := [(0, r)] })

theorem holds_itemRelease : ∀ r ∈ [Retired.shareRecord 0, .frame 0 65536 131072 0, .area 0 65536 0, .legendBlock 0 131072 0],
    takeRetired ((retiring r).epochClear 0) ((retiring r).ctx 0).retired = some (r, []) := by decide +kernel

/-- Context 0 with a release to be written, and its pool table at near-store address 1024. -/
def releasing (read : Bool) : State := (serving.modCtx 0 (fun c =>
    { c with releases := [.area 0 65536 0], ringSeen := read, atlas := { c.atlas with pool := 1024 } }))
  |>.writeNear (1024 + 32 * 24) (leBytes 8 8192 ++ leBytes 8 4)

theorem holds_releases : ∀ b ∈ [false, true], ((releasing b).ctx 0).releases ≠ [] ∧ ((releasing b).ctx 0).ringSeen = b ∧
    (releasing b).cOpen = true ∧ (releasing b).releaseRoom 0 ≠ 0 := by decide +kernel

/-- Context 0 with its sweep done and the previous key slot draining. -/
def drained : State := serving.modCtx 0 (fun c => { c with sweepDone := true, prev := { KeySlot.empty with state := .draining } })

theorem holds_prevSlot : (drained.ctx 0).sweepDone = true ∧ (drained.ctx 0).prev.state = .draining ∧
    drained.epochClear 0 (drained.ctx 0).prevRetire.toNat = true := by decide +kernel

/-- A page that the sweep has open. -/
def sweepSession : Session :=
  { slot := sweepSlot, ctx := 0, stitchBase := 65536, legendAddr := 131072, layout := 0, tileMap := 0xFFFF, ceiling := 0, version := 0
    written := [], closing := true }

/-- Context 0 sweeping, every station having passed its leaves, or station 0 having a page of the sweep open. -/
def sweeping (ended : Bool) : State :=
  (serving.modCtx 0 (fun c => { c with sweeping := true, sweepAt := Vector.replicate 12 sweepEnd })).modStation 0 (fun m =>
    { m with sessions := if ended then [] else [sweepSession] })

theorem holds_sweep : (serving.ctx 0).sweeping = false ∧ ∀ b ∈ [true, false], ((sweeping b).ctx 0).sweeping = true ∧
    ((sweeping b).sweepOn 0).sweepOver 0 = b := by decide +kernel

/-- A scrub of context 0, in its second phase with the given extents and working stations. -/
def scrubbing (two : Bool) (es : List ScrubExtent) (ms : List (Fin 12)) : State := serving.modCtx 0 (fun c =>
  { c with
    state := .scrubbing
    scrub := some { phase2 := two, serial := 0, key := 0, asked := 0, extents := es, working := ms, taken := [], inherited := [], units := 1, began := 0, late := [] } })

/-- One unit in stack 0, or in the near store. -/
def extent (st : Option (Fin 12)) : ScrubExtent := { station := st, base := 4096, len := 2048 }

theorem holds_scrubPhases : (((scrubbing false [] []).ctx 0).scrub.map (·.phase2)) = some false ∧
    (((scrubbing true [] []).ctx 0).scrub.map (fun k => (k.phase2, (scrubbing true [] []).scrubDone k))) = some (true, true) := by decide +kernel
theorem holds_scrubUnit : ∀ p ∈ [(some 0, true), (none, false)], let s := scrubbing true [extent p.1] [0]
    ((s.ctx 0).scrub.map (fun k => k.unitOf 0 (k.written 0))) = some (some (p.2, 4096)) ∧ s.stationUp 0 = true ∧
    freeId 512 ((s.station 0).window.map (·.id)) = some 0 ∧ (s.nearSliceOf 0).isSome = true := by decide +kernel
theorem holds_scrubUnit_hub : ((((scrubbing true [extent none] []).ctx 0).scrub.map (fun k =>
    (k.working, unitAt (k.extents.filter (fun e => e.station.isNone)) (k.written 12))))) = some ([], some 4096) := by decide +kernel

/-- Context 0 in a state, under a tag, keyed or not. -/
def context (st : CtxState) (keyed : Bool) : State := serving.modCtx 0 (fun c => { c with state := st, tag := 7, keyed := keyed })

theorem holds_contexts : ((context .free false).ctx 0).tag ≠ 0 ∧
    (∀ d, d ≠ 0 → ((context .free false).ctx d).state = .free ∨ ((context .free false).ctx d).tag ≠ ((context .free false).ctx 0).tag) ∧
    (∀ st ∈ [CtxState.free, .opened, .closing, .scrubbing], ((context st false).ctx 0).state = st) := by decide +kernel

/-- A keyed OPEN context with its key slots in given states, h_locked high, and weight slot 0 in a state. -/
def keyed (cur prev : KeyState) (w : WeightState) : State :=
  ((context .opened true).modCtx 0 (fun c => { c with cur := { KeySlot.empty with state := cur }, prev := { KeySlot.empty with state := prev } }))
    |>.modHub (fun h => { h with weights := vmod h.weights 0 (fun x => { x with state := w }) })

theorem holds_keys : ∀ p ∈ [(KeyState.empty, KeyState.empty, WeightState.empty), (.loaded, .empty, .loading), (.loaded, .draining, .sealed)],
    let s := keyed p.1 p.2.1 p.2.2
    s.pins.hLocked = true ∧ (s.ctx 0).state = .opened ∧ (s.ctx 0).keyed = true ∧ (s.ctx 0).cur.state = p.1 ∧ (s.ctx 0).prev.state = p.2.1 ∧
    (s.hub.weights[0]).state = p.2.2 ∧ (∀ y ∈ s.hub.steps, (y.open && s.isLoad y && y.head.weightSlot == 0) = false) ∧
    (∀ y ∈ s.hub.steps, s.usesWeight y 0 = false) := by decide +kernel

/-! ### The dictionary -/

/-- The 128 bits of a frame (Table 12-2). -/
def frameBits (f : HReq) : BitVec 128 := BitVec.ofNat 128 (place f.op 0 8 + place f.seq 8 8 + place f.idx 16 16 + place f.sub 32 8 +
  place f.seg 40 16 + place f.len 56 8 + place f.value 64 64)

theorem holds_refusedFrame : let f := HReq.ofBits (frameBits (writeFrame 0 0x1000 1 2 0)).toNat
    f = writeFrame 0 0x1000 1 2 0 ∧ serving.judge f true = 0x42 ∧ f.idx ≠ 0x9000 ∧ f.idx ≠ 0x6000 := by decide +kernel
theorem holds_acceptedFrames : ∀ f ∈ [{ writeFrame 0 0x2000 2 0 0 with op := 1 }, writeFrame 0 0x2000 1 1 1],
    serving.judge f true = 0x40 ∧ f.idx ≠ 0x9000 ∧ (objOf serving.hub.mirrorRecord.length f.idx f.sub).map (·.ty.segmented) = some false := by
  decide +kernel
theorem holds_frameChecks : objOf serving.hub.mirrorRecord.length 0x0FFF 0 = none ∧
    (objOf serving.hub.mirrorRecord.length 0x1000 1).map (fun o => (typeOk o (writeFrame 0 0x1000 1 2 0), o.acc)) = some (true, .ro) ∧
    (objOf serving.hub.mirrorRecord.length 0x6200 2).map (fun o => (typeOk o (writeFrame 0 0x6200 2 8 0), o.acc)) = some (true, .rws) := by
  decide +kernel
theorem holds_unitEnables : serving.quiescent = true ∧ serving.stationsOk 1 = true ∧ serving.linksOk 1 = true := by decide +kernel

/-- The quiesced block with a staged patch of 8 bytes. -/
def patched : State := serving.modHub (fun h => { h with quiesce := .quiesced, patchLength := 8 })

theorem holds_patch : patched.hub.quiesce = .quiesced ∧ patched.hub.patchLength ≠ 0 := by decide +kernel
theorem holds_restore_bad : serving.hub.restoreFailed = false ∧ serving.restoreOk (zeros 16) = false := by decide +kernel
theorem holds_swatch : serving.notBusy (writeFrame 0 0x7000 0x20 1 1) = true ∧ (serving.physOf 0).isSome = true ∧
    (((serving.modHub (fun h => { h with swatch := vmod h.swatch 0 (fun w => { w with running := true }) })).hub.swatch[0]).running = true) ∧
    (serving.slice 0).awake = true := by decide +kernel
theorem holds_lastWord : (serving.slice 0).alive = true ∧ (fenced.slice 0).alive = false ∧ (context .opened true).bindOk 0 1 = true := by
  decide +kernel
theorem holds_frameTimeout : lastWordAny (HReq.ofBits (0 : BitVec 128).toNat) = false := by decide +kernel

/-! ### The tally, power, faults -/

/-- The block with its tally open and messages, records and offers of it. -/
def tallied (m : List TallyMsg) (o : List TallyOffer) : State :=
  { serving with tallyWire := m, tally := { serving.tally with isOpen := true, kept := [(0, zeros 8)], offers := o } }

theorem holds_tally : (tallied [] []).tally.isOpen = true ∧ (tallied [.count .hub 0 2 5] []).tallyWire = .count .hub 0 2 5 :: [] ∧
    (tallied [.opened 0 7] []).tallyWire = .opened 0 7 :: [] ∧ (0, zeros 8) ∈ (tallied [] []).tally.kept ∧
    (∀ o ∈ [TallyOffer.allOnes, .record 0], (tallied [] [o]).tally.offers = o :: []) ∧
    (tallied [] []).tally.kept.find? (fun k => k.1 == 0) = some (0, zeros 8) := by decide +kernel
theorem holds_tally_allOnes : ∀ r, ((1 : BitVec 64), r) ∉ (tallied [] []).tally.kept := fun _ h => by
  simp only [tallied, List.mem_singleton, Prod.mk.injEq] at h; exact absurd h.1 (by decide)
theorem holds_tPort : serving.pins.tallySupply = true ∧ serving.tally.isOpen = false := by decide +kernel

/-- S000 in a power state, waking or not, the block not keeping slices ready. -/
def powered (p : Power) (waking : Bool) : State := (serving.modSlice 0 (fun y => { y with power := p, waking := waking })).modHub (fun h =>
  { h with dict := { h.dict with offMs := 1, governorPinned := false, minReady := 0 } })

/-- A DORMANT slice answers a probe and leaves another transaction in the network; an IDLE one takes it and is ACTIVE (R466, R469). -/
theorem test_sleeping_slice : let ack := fun (s : State) => inFlight s (.ms 0) (.slice 0) (.ack 0 .dst 0)
    took (inFlight (powered .dormant false) .hub (.slice 0) (.ctl .probe)) .hub (.slice 0) 0x08 = some (.ctl .probe) ∧
    took (ack (powered .dormant false)) (.ms 0) (.slice 0) 0x22 = none ∧
    ((ack (powered .idle false)).recvTxn (.ms 0) (.slice 0) 0x22).map (fun p => (p.2.slice 0).power) = some .active := by decide +kernel

theorem holds_idleEntry : ((powered .active false).slice 0).noTile = true := by decide +kernel
theorem holds_dormantEntry : let s := powered .idle false
    (s.slice 0).shares = [] ∧ s.dispatching 0 = false ∧ s.swatching 0 = false ∧ s.inUse = false ∨ 1 ≤ s.readySlices := by decide +kernel
theorem holds_dormantEntry_order : (allFin 132).all (fun m => !(((powered .idle false).logicalOf m).isSome && (powered .idle false).unused m
    && (powered .idle false).idlesBefore m 0)) = true := by decide +kernel
theorem holds_offEntry : (powered .dormant false).holdsNothing 0 = true ∧ (powered .dormant false).hub.dict.offMs ≠ 0 := by decide +kernel
theorem holds_wakes : ∀ p ∈ [Power.dormant, .off], (powered p false).wakes 0 .port = true ∧ (powered p false).logicalOf 0 ≠ none := by decide +kernel
theorem holds_wakeComplete : ((powered .dormant true).slice 0).waking = true ∧ ((powered .dormant true).slice 0).alive = true := by decide +kernel
theorem holds_sram : ∀ u ∈ [UnitId.hub, .slice 0, .ms 0, .ls 0], serving.unitUp u = true := by decide +kernel
theorem holds_sram_step : (((withSteps [overStep]).countSram .hub false).raise 0x9014 none (unitNo .hub) 0 0).step? 0 = some overStep := by
  decide +kernel
theorem holds_probe : UnitId.slice 0 ∈ (serving.modHub (fun h => { h with probed := [.slice 0] })).hub.probed := by decide +kernel
theorem holds_fence : (serving.slice 0).alive = true ∧ serving.logicalOf 0 = some 0 ∧ 0 ∉ serving.hub.spares ∧
    (∀ k : Fin 128, k ≠ 0 → serving.hub.map[k.1] ≠ some 0) ∧ serving.hub.spares.head? = some 128 := by decide +kernel

/-! ### One step of some commands -/

theorem test_creditFrame_unknown : (received serving [frame64 (header 5 0) 1 (some false)]).recvFor (header 1 0) = none := by decide +kernel
theorem test_reset_idle : step { State.reset with pending := [.probe] } = .next State.reset := rfl

/-! ### A lifetime record that is good: the restore's own hypothesis, without running a CRC of 64 KiB -/

theorem crcBit_lt {c : Nat} (h : c < 2 ^ 32) : crcBit c < 2 ^ 32 := by
  have h2 : c >>> 1 < 2 ^ 32 := by rw [Nat.shiftRight_eq_div_pow]; omega
  unfold crcBit
  split
  · exact Nat.xor_lt_two_pow h2 (by decide)
  · exact h2

theorem crcByte_lt {c : Nat} (h : c < 2 ^ 32) (b : Byte) : crcByte c b < 2 ^ 32 := by
  have h0 : Nat.xor c b.toNat < 2 ^ 32 := Nat.xor_lt_two_pow h (Nat.lt_trans b.isLt (by decide))
  exact crcBit_lt (crcBit_lt (crcBit_lt (crcBit_lt (crcBit_lt (crcBit_lt (crcBit_lt (crcBit_lt h0)))))))

theorem crcFold_lt (bs : Bytes) {c : Nat} (h : c < 2 ^ 32) : bs.foldl crcByte c < 2 ^ 32 := by
  induction bs generalizing c with
  | nil => exact h
  | cons b bs ih => exact ih (crcByte_lt h b)

theorem crc32c_lt (bs : Bytes) : crc32c bs < 2 ^ 32 := Nat.xor_lt_two_pow (crcFold_lt bs (by decide)) (by decide)

theorem leNat_leBytes4 {x : Nat} (h : x < 2 ^ 32) : leNat (leBytes 4 x) = x := by
  simp only [leBytes, leNat, byteOf, BitVec.toNat_ofNat, Nat.shiftRight_eq_div_pow, Nat.shiftLeft_eq]
  omega

/-- All but the last 8 bytes of a lifetime record of no counts, `n` zero bytes among them. -/
def recordFront (n : Nat) : Bytes :=
  [0x5E, 0x1F, 1, 0, 0, 3, 0, 0, 0, 0, 0, 0] ++ leBytes 4 (crc32c (zeros n ++ leBytes 8 0)) ++ zeros n

theorem recordFront_length (n : Nat) : (recordFront n).length = 16 + n := by
  simp [recordFront, zeros, leBytes]; omega

theorem leBytes8_length (x : Nat) : (leBytes 8 x).length = 8 := rfl

theorem recordFront_read {n a b : Nat} (ha : a = 16 + n) (hb : b = a + 8) :
    ((Mem.write [] 0 (recordFront n)).write a (leBytes 8 0)).read 0 b = recordFront n ++ leBytes 8 0 := by
  have hw : (Mem.write [] 0 (recordFront n)).wf = true := Mem.wf_write rfl 0 (recordFront n)
  have hl := recordFront_length n
  apply List.ext_getElem?
  intro i
  by_cases h : i < b
  · rw [Mem.getElem?_read _ _ _ _ h, Mem.get_write hw, Mem.get_write rfl, hl, leBytes8_length, Nat.zero_add]
    by_cases h2 : i < a
    · rw [if_neg (by omega), if_pos (by omega), List.getElem?_append_left (by omega)]
      simp [hl, ← ha, h2]
    · rw [if_pos (by omega), List.getElem?_append_right (by omega), hl, ← ha]
      have h8 : i - a < (leBytes 8 0).length := by rw [leBytes8_length]; omega
      simp [h8]
  · rw [List.getElem?_eq_none (by rw [Mem.length_read]; omega), List.getElem?_eq_none (by
      rw [List.length_append, hl, leBytes8_length]; omega)]

/-- What the checks of a lifetime record look at, for any CRC field `c`. -/
theorem record_fields (c : Nat) (z w : Bytes) (hc : c < 2 ^ 32) :
    let r := ([0x5E, 0x1F, 1, 0, 0, 3, 0, 0, 0, 0, 0, 0] ++ leBytes 4 c ++ z) ++ w
    leAt r 12 4 = c ∧ r.drop 16 = z ++ w ∧ leAt r 0 2 = 0x1F5E ∧ leAt r 2 2 = 1 ∧ byteAt r 5 = 3 :=
  ⟨by simpa [leAt, cut, leBytes] using leNat_leBytes4 hc, by simp [leBytes], by simp [leAt, cut, leNat], by simp [leAt, cut, leNat],
    by simp [byteAt]⟩

theorem recordFront_ok (n : Nat) (s : State) (h : s.hub.restored = false ∧ s.hub.checkpointSeq = 0) :
    s.restoreOk (recordFront n ++ leBytes 8 0) = true := by
  obtain ⟨h1, h2, h3, h4, h5⟩ := record_fields (crc32c (zeros n ++ leBytes 8 0)) (zeros n) (leBytes 8 0) (crc32c_lt _)
  unfold State.restoreOk recordFront
  rw [h1, h2, h3, h4, h5, h.1, h.2]
  simp

theorem holds_restore_good : ∃ img : Mem, ∀ s : State, s.hub.restored = false ∧ s.hub.checkpointSeq = 0 →
    s.restoreOk ((img.write 65528 (leBytes 8 0)).read 0 65536) = true :=
  ⟨Mem.write [] 0 (recordFront 65512), fun s h => by
    have e := recordFront_read (n := 65512) (a := 65528) (b := 65536) (by omega) (by omega)
    rw [e]
    exact recordFront_ok 65512 s h⟩

/-! ### Clauses that ask for a state of their own -/

/-- Ring 0 of context 0 with a burst of one entry on its way, or come. -/
def bursting (d : Option (Bytes × List Nat)) : State := rung.modRing 0 0 (fun k => { k with burst := some { count := 1, data := d } })

theorem holds_entryBurst : (rung.ring 0 0).burst = none ∧ rung.mayRead 0 0 1 = true ∧ serving.mayRead 0 0 1 = false ∧
    (∀ d ∈ [none, some (zeros 128, [])], ((bursting d).ring 0 0).burst = some { count := 1, data := d } ∧ (bursting d).cOpen = true ∧
      ((bursting d).ctx 0).state = .opened) := by decide +kernel

/-- A DELIVER of which a batch has been asked for, or has come. -/
def batching (ph : StepPhase) (d : Option (Bytes × List Nat)) : Step := { unread ph with batches := [(0, d)] }

theorem holds_batch_asked : ∀ ph ∈ [StepPhase.held, .dispatched],
    (unread ph).batches.find? (fun b => b.1 == 0) = none ∧ (withSteps [unread ph]).readSlice (unread ph) = some 0 ∧
    (∀ d ∈ [none, some (zeros 64, [])], (batching ph d).batches.find? (fun b => b.1 == 0) = some (0, d) ∧
      (withSteps [batching ph d]).batchAsked (batching ph d) .src (Chain.start 0 0) = true) := by decide +kernel

theorem holds_nextIssue : ∀ p ∈ [(3, reqOf false 64), (2, reqOf true 32), (2, { reqOf true 32 with fill := some 0 })],
    let s := closedReq p.1 p.2
    (s.station 0).nextIssue p.2.cls = some p.2 ∧ s.stationUp 0 = true ∧ (s.station 0).mVer.isOpen = true := by decide +kernel
theorem holds_cReadBeat_more : takeBeat (5 : BitVec 6).toNat 128 false (nearOut (nearReq false 256 .other)).hub.cOut =
    some (nearReq false 256 .other) := by decide +kernel
theorem holds_retire : (retireReq 5 256 [nearReq false 64 .other, { nearReq true 64 .other with id := 256 }]).find? (fun w => w.id == 5) =
    some (nearReq true 64 .other) ∧
    (retireReq 5 64 [nearReq false 64 .other, { nearReq true 64 .other with id := 64 }]).find? (fun w => w.id == 5) =
    some (nearReq true 64 .other) := by decide +kernel
theorem holds_storesWf : State.reset.storesWf ∧ 4096 % 64 = 0 ∧ 4096 / 64 * 64 ∉ State.reset.nearDirty ∧
    4096 / 64 * 64 ∉ (State.reset.station 0).dirty := ⟨⟨rfl, by decide +kernel⟩, rfl, by decide +kernel, by decide +kernel⟩

theorem holds_record_step : ∀ n ∈ [0, 64], ((spilling n).slice 0).records = (0, record0) :: [] ∧
    ((spilling n).liveShare 0 0).isSome = true ∧ (((spilling n).slice 0).share 0).isSome = true ∧ ((spilling n).slice 0).spillsHeld = n := by
  decide +kernel
theorem holds_record_alone : ((serving.modSlice 0 (fun y => { y with records := [(0, record0)] })).slice 0).records = (0, record0) :: [] ∧
    (serving.slice 0).share 0 = none ∧ (serving.slice 0).records = [] := by decide +kernel

/-- A leaf change has come to the home of context 0's page 0. -/
def leafSent (s : State) : State := inFlight (mapped s resident) (.ms 1) (.ms 0) (.atlas (.setLeaf 0 0 resident 7))

/-- The same, with every read it needs made. -/
def leafRead (s : State) : State :=
  seen (leafSent s) (.own 0) ((leafSent s).leafLooks [] 0 0 ((leafSent s).dropLooks 0 0))

theorem holds_atlasTxn_looks : took (leafSent serving) (.ms 1) (.ms 0) 0x09 = some (.atlas (.setLeaf 0 0 resident 7)) ∧
    ((leafSent serving).step? 7) = none ∧
    ((leafSent serving).lacks (.own 0) ((leafSent serving).leafLooks [] 0 0 ((leafSent serving).dropLooks 0 0))).isSome = true := by
  decide +kernel
theorem holds_atlasTxn_home : let s := leafRead serving
    s.need (.own 0) 0 (s.leafLooks [] 0 0 (s.dropLooks 0 0)) = none ∧ s.pageHeld 0 0 = false ∧
    (s.modStation 0 (fun x => { x with heldWrites := [writeOf none] })).pageHeld 0 0 = true := by decide +kernel
theorem holds_leafCame : (leafRead serving).walk 0 0 = .leaf resident 16384 16384 ∧
    ((leafRead serving).replaceLeaf [] 0 0 resident { resident with shared := true } 16384 16384 false).2.2.2 = true := by decide +kernel

/-- A forwarded walk. -/
def walking (s : State) : State := inFlight s (.ms 1) (.ms 0) (.atlas (.walk (fetchOf none)))

theorem holds_atlasWalk : took (walking (mapped serving resident)) (.ms 1) (.ms 0) 0x09 = some (.atlas (.walk (fetchOf none))) ∧
    (mapped serving resident).walk 0 0 = .leaf resident 16384 16384 ∧ serving.walk 0 0 = .miss 0 ∧
    ((mapped serving resident).writeStack 0 4096 (leBytes 8 (place 1 63 1))).walk 0 0 = .integrity 0x01 ∧
    (serving.modStation 0 (fun x => { x with failed := true })).walk 0 0 = .stationDown := by decide +kernel
theorem holds_status_lost : ∀ r ∈ [{ report false with lost := some (0x31, 1, 0) },
      { report false with miss := some { tile := 0, kind := 1, station := 0, level := 0, page := 0 } }],
    took (inFlight serving (.ms 0) .hub (.status r)) (.ms 0) .hub 0x26 = some (.status r) := by decide +kernel
theorem holds_lsend_step : took (inFlight sendingOn (.slice 0) (.ls 0) (.lsend 0 0 txRecord true)) (.slice 0) (.ls 0) 0x04 =
      some (.lsend 0 0 txRecord true) ∧ (sendingOn.step? 0).isSome = true ∧
    took (inFlight sendingOn (.ls 1) (.ls 0) (.lsend 0 1 txRecord true)) (.ls 1) (.ls 0) 0x04 = some (.lsend 0 1 txRecord true) := by
  decide +kernel
theorem holds_reserved_open : serving.phase = .ready ∧ (serving.fVer (.slice 0)).isOpen = true := by decide +kernel

theorem holds_quiesce : serving.hub.steps.all (fun x => !x.unfinished) = true ∧
    ((withSteps [overStep]).hub.quiesce = .running ∧ (withSteps [overStep]).hub.steps.all (fun x => !x.unfinished) = false) ∧
    (delivering.step? 0).map (fun x => (x.running, x.target, x.conds)) = some (true, none, []) ∧
    ((delivering.slice 0).shares.map (·.slot)) = [0] := by decide +kernel
theorem holds_enables_disabled : ((serving.modStation 0 (fun x => { x with mVer := .disabled })).station 0).mVer = .disabled := by
  decide +kernel
theorem holds_building : ∀ b ∈ [false, true], (serving.modHub (fun h => { h with building := b })).hub.building = b ∧ serving.phase = .ready := by
  decide +kernel
theorem holds_tally_closed : serving.tally.isOpen = false ∧ (TallyMsg.count .hub 0 2 5).isCountOf .hub = true ∧
    (TallyMsg.opened 0 7).isOpened = true := by decide +kernel
theorem holds_roundStitch : ((delivering.slice 0).share 0).isSome = true := by decide +kernel
theorem holds_spares : serving.hub.spares.Pairwise (· < ·) := by decide +kernel
theorem holds_sealWeight : let s := keyed .loaded .empty .loading
    ∀ y ∈ s.hub.steps, (y.open && s.isLoadStep y && y.head.weightSlot == 0) = false := by decide +kernel

end Sys2Proof.Tests
end

section
/-! SUPPORT. The step rows: each is one use of `State.tryStep`, and Table 08-6 decides what that does with a held step (R14,
R273, R277, R344). -/
namespace Sys2Proof.Machine

/-! ### Trying a step -/

section
variable {s : State} {x : Step} {slot : Nat} {mine : Step → Bool} {go : State → Step → List Nat → State}

/-- Every step row tries the step in its slot; rows differ in the opcode they take and in what their dispatch does. -/
theorem exec_of_stepRow {c : Instr} (h : stepRow c = some (slot, mine)) (s : State) :
    ∃ go, exec c s = .next (s.tryStep slot mine go) := by
  cases c
  case deliver | compress | cCompress | cDecompress | gatherMerge | scatter | mergeOut | castOn | rebase | rechain | teardown
    | resume | nop | move | atlasWrite | share | free | frog | demote | promote | gather | deliverRows | gazClear | send | recv
    | mcast => cases h; exact ⟨_, rfl⟩
  all_goals cases h

theorem State.tryStep_of_refuse {st cause : Nat} (hs : s.step? slot = some x) (hm : mine x = true) (he : s.eligible x = true)
    (hb : s.behind x = false) (hv : s.verdict x = .refuse st cause) : s.tryStep slot mine go = s.complete slot st cause none := by
  simp [State.tryStep, hs, hm, he, hb, hv]

theorem State.tryStep_of_hold (hs : s.step? slot = some x) (hm : mine x = true) (he : s.eligible x = true)
    (hb : s.behind x = false) (hv : s.verdict x = .hold) :
    s.tryStep slot mine go = ((s.hubNeed x x.tables).getD s).askMasks x := by
  simp [State.tryStep, hs, hm, he, hb, hv]

theorem State.tryStep_of_not_dispatches (hs : s.step? slot = some x) (hm : mine x = true) (he : s.eligible x = true)
    (hb : s.behind x = false) (hv : s.verdict x = .go) (hd : s.dispatches x = false) :
    s.tryStep slot mine go = s.makeReady x := by
  simp [State.tryStep, hs, hm, he, hb, hv, hd]

/-- A row without a step it may take does nothing: no step in its slot, one of another row, one not held or whose order does
not let it go yet, or one behind a step that names the same thing (R277). -/
theorem State.tryStep_of_untaken
    (h : ∀ x, s.step? slot = some x → mine x = false ∨ s.eligible x = false ∨ s.behind x = true) :
    s.tryStep slot mine go = s := by
  cases hs : s.step? slot with
  | none => simp [State.tryStep, hs]
  | some x => rcases h x hs with hx | hx | hx <;> simp [State.tryStep, hs, hx]

end

/-! ### Table 08-6 -/

/-- The first row of the table whose condition holds decides. -/
@[simp] theorem firstRow_row_cons (c : Bool) (v : Verdict86) (rs : List (Option Verdict86)) :
    firstRow (row c v :: rs) = if c then v else firstRow rs := by
  cases c <;> rfl

/-- Some slice the step names is lost, so that no physical slice stands for it (R485). -/
def State.namesLost (s : State) (x : Step) : Bool :=
  match s.namedSlices x with | some ls => ls.any (fun l => (s.physOf l).isNone) | none => false

theorem State.namesLost_of_mem {s : State} {x : Step} {ls : List Nat} {l : Nat} (hn : s.namedSlices x = some ls) (hl : l ∈ ls)
    (hp : s.physOf l = none) : s.namesLost x = true := by
  simp only [State.namesLost, hn, List.any_eq_true]
  exact ⟨l, hl, by simp [hp]⟩

/-- The table begins with the key of a keyed context and the lost slices. -/
theorem State.rows_begin (s : State) (x : Step) : ∃ rest, s.rows x =
    row ((s.ctx x.ctx).keyed && ((s.ctx x.ctx).cur.state != .loaded || !s.pins.hLocked)) .hold ::
    row (!(x.op.getD .nop).noSlice && s.namesLost x) (.refuse 0x23 0x01) :: rest := ⟨_, rfl⟩

theorem State.verdict_of_no_key {s : State} {x : Step} (hk : (s.ctx x.ctx).keyed = true)
    (h : (s.ctx x.ctx).cur.state ≠ .loaded ∨ s.pins.hLocked = false) : s.verdict x = .hold := by
  obtain ⟨rest, hr⟩ := s.rows_begin x
  simp [State.verdict, hr, hk, h]

theorem State.verdict_of_namesLost {s : State} {x : Step}
    (hk : (s.ctx x.ctx).keyed = true → (s.ctx x.ctx).cur.state = .loaded ∧ s.pins.hLocked = true)
    (ho : (x.op.getD .nop).noSlice = false) (hl : s.namesLost x = true) : s.verdict x = .refuse 0x23 0x01 := by
  obtain ⟨rest, hr⟩ := s.rows_begin x
  have hkey : ((s.ctx x.ctx).keyed && ((s.ctx x.ctx).cur.state != .loaded || !s.pins.hLocked)) = false := by
    simpa using hk
  simp [State.verdict, hr, hkey, ho, hl]

/-! ### The obligation -/

theorem refusedAndHeldSteps : Claims.RefusedAndHeldSteps := by
  intro c slot mine s hrow
  obtain ⟨go, hgo⟩ := exec_of_stepRow hrow s
  rw [hgo]
  refine ⟨fun x st cause hs hm he hb hv => ?refused, fun x hs hm he hb hv => ?held, fun x hs hm he hb hv hd => ?noted,
    fun h => ?untaken⟩
  case refused => rw [State.tryStep_of_refuse hs hm he hb hv]
  case held => rw [State.tryStep_of_hold hs hm he hb hv]
  case noted => rw [State.tryStep_of_not_dispatches hs hm he hb hv hd]
  case untaken => rw [State.tryStep_of_untaken h]

theorem checksInOrder : Claims.ChecksInOrder :=
  ⟨fun _ _ hk h => State.verdict_of_no_key hk h,
    fun _ _ _ hk ho hn ⟨_, hl, hp⟩ => State.verdict_of_namesLost hk ho (State.namesLost_of_mem hn hl hp)⟩

/-- Settles O24: every step row is one use of `State.tryStep`, which follows the verdict of Table 08-6, and the table's first
two rows are the loaded key and the lost slices. -/
theorem checksOfTable0806 : Obligations.ChecksOfTable0806 := ⟨refusedAndHeldSteps, checksInOrder⟩

end Sys2Proof.Machine
end

section
/-! SUPPORT. H-port frames: the answer and the effect of each kind, for a block in service (R434 to R437, R439). -/
namespace Sys2Proof.Machine

section
variable {s : State} {f : HReq} {rot : Bool}

/-- A frame that carries a key command (Table 10-4), after which the staging registers are cleared (R346). -/
def HReq.isKeyCommand (f : HReq) : Bool := f.op == 2 && f.idx == 0x6000 && f.sub == 0x0B

theorem HReq.not_isKeyCommand (h : f.idx ≠ 0x6000 ∨ f.sub ≠ 0x0B) : f.isKeyCommand = false := by
  rcases h with h | h <;> simp [HReq.isKeyCommand, h]

/-- A frame that a check refuses has its response alone. -/
theorem State.hFrame_of_refused (hp : s.phase = .ready) (hj : s.judge f rot ≠ 0x40) (hl : f.idx ≠ 0x9000)
    (hk : f.isKeyCommand = false) : s.hFrame f rot = s.answered f (s.judge f rot) 0 := by
  simp only [HReq.isKeyCommand] at hk
  simp [State.hFrame, State.answered, hp, hj, hl, hk]

/-- An accepted frame has the effect of its read or write, and its response carries the frame's value. -/
theorem State.hFrame_of_accepted (hp : s.phase = .ready) (hj : s.judge f rot = 0x40) (hl : f.idx ≠ 0x9000)
    (hk : f.isKeyCommand = false) :
    s.hFrame f rot = (if f.writes then s.applyWrite f else s.readEffect f rot).answered f 0x40 (s.frameValue f) := by
  simp only [HReq.isKeyCommand] at hk
  simp [State.hFrame, State.answered, hp, hj, hl, hk]

/-- A READ does nothing but return its value, the event log's index apart (R449, R495). -/
theorem State.readEffect_of_read (hop : f.op = 1) (hl : f.idx ≠ 0x9000) : s.readEffect f rot = s := by
  simp [State.readEffect, hop, hl]

theorem State.frameValue_of_scalar {o : Obj} (ho : objOf s.hub.mirrorRecord.length f.idx f.sub = some o) (hop : f.op = 1)
    (ht : o.ty.segmented = false) : s.frameValue f = s.readScalar f.idx f.sub := by
  simp [State.frameValue, ho, hop, ht]

theorem State.frameValue_of_write (hop : f.op = 2) : s.frameValue f = 0 := by
  unfold State.frameValue
  split <;> simp [hop]

/-- An accepted WRITE of a scalar takes effect and answers 0. -/
theorem State.hFrame_of_write (hp : s.phase = .ready) (hj : s.judge f rot = 0x40) (hl : f.idx ≠ 0x9000) (hop : f.op = 2)
    (hk : f.isKeyCommand = false) : s.hFrame f rot = (s.applyWrite f).answered f 0x40 0 := by
  rw [State.hFrame_of_accepted hp hj hl hk, State.frameValue_of_write hop]
  simp [HReq.writes, hop]

/-- An accepted READ of a scalar answers with its value and changes nothing. -/
theorem State.hFrame_of_read {o : Obj} (hp : s.phase = .ready) (hj : s.judge f rot = 0x40) (hl : f.idx ≠ 0x9000)
    (hop : f.op = 1) (ho : objOf s.hub.mirrorRecord.length f.idx f.sub = some o) (ht : o.ty.segmented = false) :
    s.hFrame f rot = s.answered f 0x40 (s.readScalar f.idx f.sub) := by
  have hk : f.isKeyCommand = false := by simp [HReq.isKeyCommand, hop]
  rw [State.hFrame_of_accepted hp hj hl hk, State.readEffect_of_read hop hl, State.frameValue_of_scalar ho hop ht]
  simp [HReq.writes, hop]

end

/-! ### The obligation -/

@[simp] theorem exec_dictionaryWrite (frame : BitVec 128) (rot : Bool) (s : State) :
    exec (.dictionaryWrite frame rot) s = .next (s.hFrame (HReq.ofBits frame.toNat) rot) := rfl

theorem refusedFrames : Claims.RefusedFrames := by
  intro frame rot s hp f hj hl hk
  rw [exec_dictionaryWrite, State.hFrame_of_refused hp hj hl (HReq.not_isKeyCommand hk)]

theorem acceptedFrames : Claims.AcceptedFrames := by
  intro frame rot o s hp f hj hl ho
  rw [exec_dictionaryWrite]
  refine ⟨fun hop ht => ?read, fun hop hk => ?write⟩
  case read => rw [State.hFrame_of_read hp hj hl hop ho ht]
  case write => rw [State.hFrame_of_write hp hj hl hop (HReq.not_isKeyCommand hk)]

theorem frameTimeout : Claims.FrameTimeout := by
  intro frame rot s hp hw
  simp [exec, execFrameServiceTimeout, State.live, hp, hw]

/-- Settles O49: the one path of every frame, taken apart by the answer of its checks and by what the frame asks for. -/
theorem frameAnswers : Obligations.FrameAnswers := ⟨refusedFrames, acceptedFrames, frameTimeout⟩

end Sys2Proof.Machine
end

section
/-! SUPPORT. ctx_command, the write of (0x3300 + c).02: its checks and its effect in every context state (R335, R336, Tables
10-1 and 10-2). -/
namespace Sys2Proof.Machine

/-! ### Indices of the dictionary -/

theorem within_add (base : Nat) {n : Nat} (i : Fin n) : within base n (base + i.1) = some i := by
  simp [within, finOf]

theorem within_of_ge {base n idx : Nat} (h : base + n ≤ idx) : within base n idx = none := by
  have : ¬ idx - base < n := by omega
  simp [within, finOf, this]

/-- The control objects of the contexts stand at 0x3300 to 0x333F (Table 12-6). -/
theorem context_idx_ne (c : Fin 64) {k : Nat} (h : k < 0x3300 ∨ 0x3340 ≤ k) : 0x3300 + c.1 ≠ k := by omega

theorem within_rings_context (c : Fin 64) : within 0x3100 64 (0x3300 + c.1) = none := within_of_ge (by omega)

theorem within_atlas_context (c : Fin 64) : within 0x3200 64 (0x3300 + c.1) = none := within_of_ge (by omega)

/-- The objects at a context's control index are those of Table 10-1. -/
theorem objOf_context (recordLen sub : Nat) (c : Fin 64) : objOf recordLen (0x3300 + c.1) sub = contextObj sub := by
  have hidentity : 0x3300 + c.1 ≠ 0x1000 := context_idx_ne c (by decide)
  have hversions : ¬ 0x3300 + c.1 ≤ 0x11FF := by omega
  have hstacks : within 0x1200 12 (0x3300 + c.1) = none := within_of_ge (by omega)
  have hconfig : 0x3300 + c.1 ≠ 0x2000 := context_idx_ne c (by decide)
  unfold objOf
  simp [hidentity, hversions, hstacks, hconfig, within_rings_context, within_atlas_context, within_add]

/-! ### The checks of a context command -/

section
variable {s : State} {c : Fin 64} {v : Nat} {rot : Bool}

/-- The write of a context's ctx_command. -/
def ctxFrame (seq : BitVec 8) (c : Fin 64) (v : Nat) : HReq := writeFrame seq (0x3300 + c.1) 2 1 v

/-- Table 10-1: ctx_command takes the values 1 to 4. -/
theorem State.valueOk_ctxCommand (hv : 1 ≤ v) (hv4 : v ≤ 4) : s.valueOk ⟨.u8, .wo⟩ (0x3300 + c.1) 2 v = true := by
  unfold State.valueOk
  simp [within_rings_context, within_atlas_context, within_add, hv, hv4]

/-- A command of Table 10-1 passes every check but that of the context's state (check 9), with h_rot high or low. -/
theorem State.judge_ctxFrame (hp : s.phase = .ready) (seq : BitVec 8) (hv : 1 ≤ v) (hv4 : v ≤ 4) :
    s.judge (ctxFrame seq c v) rot = if s.stateOk (ctxFrame seq c v) then 0x40 else 0x47 := by
  have hmod : v % 256 = v := Nat.mod_eq_of_lt (by omega)
  have hobj : objOf s.hub.mirrorRecord.length (0x3300 + c.1) 2 = some ⟨.u8, .wo⟩ := objOf_context ..
  have hstream : 0x3300 + c.1 ≠ 0x4000 := context_idx_ne c (by decide)
  simp [State.judge, ctxFrame, writeFrame, hp, hobj, typeOk, HReq.segmented, HReq.writes, Ty.segmented, Ty.width, hmod,
    measuredPairs, State.valueOk_ctxCommand hv hv4, State.notBusy, hstream]
  split <;> simp [*]

/-- The effect of the write is the command. -/
theorem State.applyWrite_ctxFrame (seq : BitVec 8) (hv4 : v ≤ 4) : s.applyWrite (ctxFrame seq c v) = s.ctxCmd c v := by
  have hmod : v % 256 = v := Nat.mod_eq_of_lt (by omega)
  have hstream : 0x3300 + c.1 ≠ 0x4000 := context_idx_ne c (by decide)
  simp [State.applyWrite, ctxFrame, writeFrame, HReq.segmented, hmod, State.writeScalar, State.writeContext, measuredPairs,
    hstream, within_rings_context, within_atlas_context, within_add]

/-- A context command: accepted or refused STATE by the context's state. -/
theorem State.hFrame_ctxFrame (hp : s.phase = .ready) (seq : BitVec 8) (hv : 1 ≤ v) (hv4 : v ≤ 4) :
    s.hFrame (ctxFrame seq c v) rot = if s.stateOk (ctxFrame seq c v)
      then (s.ctxCmd c v).answered (ctxFrame seq c v) 0x40 0 else s.answered (ctxFrame seq c v) 0x47 0 := by
  have hj := State.judge_ctxFrame (rot := rot) (c := c) hp seq hv hv4
  have hl : (ctxFrame seq c v).idx ≠ 0x9000 := context_idx_ne c (by decide)
  have hk : (ctxFrame seq c v).isKeyCommand = false := HReq.not_isKeyCommand (.inl (context_idx_ne c (by decide)))
  split at hj
  next hok => rw [State.hFrame_of_write hp hj hl rfl hk, State.applyWrite_ctxFrame seq hv4, if_pos hok]
  next hno =>
    have hne : s.judge (ctxFrame seq c v) rot ≠ 0x40 := by simp [hj]
    rw [State.hFrame_of_refused hp hne hl hk, hj, if_neg hno]

/-- OPEN_KEYED's tag check (Table 10-1). -/
theorem State.tagFree_iff : s.tagFree c = true ↔
    (s.ctx c).tag ≠ 0 ∧ ∀ d, d ≠ c → (s.ctx d).state = .free ∨ (s.ctx d).tag ≠ (s.ctx c).tag := by
  simp [State.tagFree, allFin, or_iff_not_imp_left]

theorem State.stateOk_open (seq : BitVec 8) : s.stateOk (ctxFrame seq c 1) = ((s.ctx c).state == .free) := by
  unfold State.stateOk
  simp [ctxFrame, writeFrame, within_add]

theorem State.stateOk_openKeyed (seq : BitVec 8) :
    s.stateOk (ctxFrame seq c 2) = ((s.ctx c).state == .free && s.tagFree c) := by
  unfold State.stateOk
  simp [ctxFrame, writeFrame, within_add]

theorem State.stateOk_close (seq : BitVec 8) :
    s.stateOk (ctxFrame seq c 3) = ((s.ctx c).state == .opened || (s.ctx c).state == .closing) := by
  unfold State.stateOk
  simp [ctxFrame, writeFrame, within_add]

theorem State.stateOk_abort (seq : BitVec 8) : s.stateOk (ctxFrame seq c 4) = true := by
  unfold State.stateOk
  simp [ctxFrame, writeFrame, within_add]

/-! ### Commands without effect -/

/-- A second CLOSE of a CLOSING context has no effect (assumption 25). -/
theorem State.closeCtx_of_not_opened (h : (s.ctx c).state ≠ .opened) : s.closeCtx c = s := by
  simp [State.closeCtx, h]

/-- ABORT has no effect on a FREE or SCRUBBING context (Table 10-2). -/
theorem State.abortCtx_of_free_or_scrubbing (cause : Nat) (h : (s.ctx c).state = .free ∨ (s.ctx c).state = .scrubbing) :
    s.abortCtx c cause = s := by
  rcases h with h | h <;> simp [State.abortCtx, h]

/-! ### The four commands in every context state -/

theorem exec_openUnkeyed (hp : s.phase = .ready) (seq : BitVec 8) :
    exec (.openUnkeyed c seq rot) s = .next (if (s.ctx c).state = .free
      then (s.openCtx c false).answered (ctxFrame seq c 1) 0x40 0 else s.answered (ctxFrame seq c 1) 0x47 0) := by
  change Host.Outcome.next (s.hFrame (ctxFrame seq c 1) rot) = _
  simp [State.hFrame_ctxFrame hp, State.stateOk_open, State.ctxCmd]

theorem exec_openKeyed (hp : s.phase = .ready) (seq : BitVec 8) :
    exec (.openKeyed c seq rot) s = .next (if (s.ctx c).state = .free ∧ s.tagFree c = true
      then (s.openCtx c true).answered (ctxFrame seq c 2) 0x40 0 else s.answered (ctxFrame seq c 2) 0x47 0) := by
  change Host.Outcome.next (s.hFrame (ctxFrame seq c 2) rot) = _
  simp [State.hFrame_ctxFrame hp, State.stateOk_openKeyed, State.ctxCmd]

theorem exec_close (hp : s.phase = .ready) (seq : BitVec 8) :
    exec (.close c seq rot) s = .next (if (s.ctx c).state = .opened ∨ (s.ctx c).state = .closing
      then (s.closeCtx c).answered (ctxFrame seq c 3) 0x40 0 else s.answered (ctxFrame seq c 3) 0x47 0) := by
  change Host.Outcome.next (s.hFrame (ctxFrame seq c 3) rot) = _
  simp [State.hFrame_ctxFrame hp, State.stateOk_close, State.ctxCmd]

theorem exec_abort (hp : s.phase = .ready) (seq : BitVec 8) :
    exec (.abort c seq rot) s = .next ((s.abortCtx c 0x03).answered (ctxFrame seq c 4) 0x40 0) := by
  change Host.Outcome.next (s.hFrame (ctxFrame seq c 4) rot) = _
  simp [State.hFrame_ctxFrame hp, State.stateOk_abort, State.ctxCmd]

end

/-! ### The obligation -/

/-- Settles O47: each command is a write of ctx_command, which only the context's state can refuse; of the accepted ones a
CLOSE of a CLOSING context and an ABORT of a FREE or SCRUBBING one change nothing. -/
theorem contextCommands : Obligations.ContextCommands := by
  intro c seq rot s hp frame opened
  rw [exec_openUnkeyed hp, exec_openKeyed hp, exec_close hp, exec_abort hp]
  refine ⟨fun h => ?opens, fun h => ?openRefused, fun h ht hd => ?opensKeyed, fun h => ?openKeyedRefused, fun h => ?closes,
    fun h => ?closesAgain, fun h => ?closeRefused, fun h => ?aborts, fun h => ?abortIdle⟩
  case opens => rw [if_pos h]; rfl
  case openRefused => rw [if_neg h]; rfl
  case opensKeyed => rw [if_pos ⟨h, State.tagFree_iff.2 ⟨ht, hd⟩⟩]; rfl
  case openKeyedRefused =>
    rw [if_neg]
    · rfl
    · rintro ⟨hfree, htag⟩
      obtain ⟨ht, hd⟩ := State.tagFree_iff.1 htag
      rcases h with h | h | ⟨d, hne, hdf, hdt⟩
      · exact h hfree
      · exact ht h
      · exact (hd d hne).elim hdf (fun hdiff => hdiff hdt)
  case closes => rw [if_pos (.inl h)]; rfl
  case closesAgain =>
    rw [if_pos (.inr h), State.closeCtx_of_not_opened (by simp [h])]; rfl
  case closeRefused =>
    rw [if_neg]
    · rfl
    · rcases h with h | h <;> simp [h]
  case aborts => rfl
  case abortIdle => rw [State.abortCtx_of_free_or_scrubbing _ h]; rfl

end Sys2Proof.Machine
end

section
/-! SUPPORT. START_INSTANT and SB_READY: the logical mapping of R30, the state the identity ROM gives, and what the events of
both leave unchanged (R30, R376, R428, R429, R461, R462). -/
namespace Sys2Proof.Machine

/-! ### The logical mapping (R30) -/

/-- Fused logical slices of a list, which take the spares. -/
def fusedOf (fused : Nat) (ls : List (Fin 128)) : List (Fin 128) := ls.filter (fun k => bitAt fused k.1)

/-- Fused logical slices of a list below `l`, which take their spare before it. -/
def fusedBelow (fused : Nat) (ls : List (Fin 128)) (l : Fin 128) : List (Fin 128) :=
  ls.filter (fun k => k.1 < l.1 && bitAt fused k.1)

/-- The physical slice of logical slice `l` in a mapping of `ls`: its own, or the next spare not yet taken. -/
def mappedTo (fused : Nat) (ls : List (Fin 128)) (sp : List (Fin 132)) (l : Fin 128) : Option (Fin 132) :=
  if bitAt fused l.1 then sp[(fusedBelow fused ls l).length]? else some (l.castLE (by decide))

section
variable {fused : Nat} {l a : Fin 128} {ls : List (Fin 128)} {sp : List (Fin 132)}

/-- Each fused slice takes one spare, from the front. -/
theorem mapSlices_spares : (mapSlices fused ls sp).2 = sp.drop (fusedOf fused ls).length := by
  induction ls generalizing sp with
  | nil => rfl
  | cons l ls ih =>
    cases hl : bitAt fused l.1 with
    | false => simp [mapSlices, fusedOf, hl, ih]
    | true => cases sp <;> simp [mapSlices, fusedOf, hl, ih]

theorem fusedBelow_cons_self (h : ∀ k ∈ ls, l < k) : fusedBelow fused (l :: ls) l = [] := by
  have later : ∀ k ∈ ls, ¬ k < l := fun k hk => Nat.lt_asymm (h k hk)
  simpa [fusedBelow] using fun k hk hlt => absurd hlt (later k hk)

theorem fusedBelow_cons_lower (h : a < l) :
    fusedBelow fused (a :: ls) l = if bitAt fused a.1 then a :: fusedBelow fused ls l else fusedBelow fused ls l := by
  simp [fusedBelow, List.filter_cons, h]

/-- The first slice of the list takes the first spare when it is fused. -/
theorem mapSlices_cons_first (h : ∀ k ∈ ls, l < k) :
    ∃ rest, (mapSlices fused (l :: ls) sp).1 = (l, mappedTo fused (l :: ls) sp l) :: rest := by
  cases hb : bitAt fused l.1 with
  | false => simp [mapSlices, mappedTo, hb]
  | true => cases sp <;> simp [mapSlices, mappedTo, fusedBelow_cons_self h, hb]

/-- The slices after a first one are mapped with the spares it leaves. -/
theorem mapSlices_cons_later (h : a < l) : ∃ v sp', (mapSlices fused (a :: ls) sp).1 = (a, v) :: (mapSlices fused ls sp').1 ∧
    mappedTo fused (a :: ls) sp l = mappedTo fused ls sp' l := by
  cases hb : bitAt fused a.1 with
  | false => exact ⟨some (a.castLE (by decide)), sp, by simp [mapSlices, hb], by simp [mappedTo, fusedBelow_cons_lower h, hb]⟩
  | true =>
    cases sp with
    | nil => exact ⟨none, [], by simp [mapSlices, hb], by simp [mappedTo]⟩
    | cons p ps => exact ⟨some p, ps, by simp [mapSlices, hb], by simp [mappedTo, fusedBelow_cons_lower h, hb]⟩

/-- In an ascending list every slice is mapped as R30 says. -/
theorem mapSlices_find (hs : ls.Pairwise (· < ·)) (hl : l ∈ ls) :
    (mapSlices fused ls sp).1.find? (fun p => p.1 == l) = some (l, mappedTo fused ls sp l) := by
  induction ls generalizing sp with
  | nil => cases hl
  | cons a ls ih =>
    obtain ⟨hfirst, hrest⟩ := List.pairwise_cons.1 hs
    rcases List.mem_cons.1 hl with rfl | hmem
    · obtain ⟨rest, hm⟩ := mapSlices_cons_first (fused := fused) (sp := sp) hfirst
      simp [hm]
    · have hal : a < l := hfirst l hmem
      obtain ⟨v, sp', hm, hto⟩ := mapSlices_cons_later (fused := fused) (ls := ls) (sp := sp) hal
      simp [hm, hto, ih hrest hmem, Fin.ne_of_lt hal]

theorem allFin_ascending (n : Nat) : (allFin n).Pairwise (· < ·) := List.pairwise_lt_finRange n

theorem mapVector_get : (mapVector fused)[l.1] = mappedTo fused (allFin 128) (unfusedSpares fused) l := by
  simp [mapVector, mapSlices_find (allFin_ascending 128) (List.mem_finRange l)]

theorem unfusedSpares_ascending : (unfusedSpares fused).Pairwise (· < ·) := (allFin_ascending 132).filter _

end

/-! ### Events change the hub's log and counters alone -/

/-- `t` is `s` after some events: only the event log, its sequence number and the counters may differ. -/
def State.Raised (s t : State) : Prop :=
  ∃ seq log counters, t = { s with hub := { s.hub with eventSeq := seq, log := log, counters := counters } }

theorem State.raised_raise (s : State) (code : Nat) (ctx : Option (Fin 64)) (unit a0 a1 : Nat) :
    s.Raised (s.raise code ctx unit a0 a1) := ⟨_, _, _, rfl⟩

theorem State.Raised.trans {s t u : State} (h : s.Raised t) (k : t.Raised u) : s.Raised u := by
  obtain ⟨_, _, _, rfl⟩ := h
  obtain ⟨seq, log, counters, rfl⟩ := k
  exact ⟨seq, log, counters, rfl⟩

theorem State.raised_each {α : Type} {f : State → α → State} (hf : ∀ (s : State) (x : α), s.Raised (f s x)) (s : State)
    (xs : List α) : s.Raised (s.each xs f) := by
  unfold State.each
  induction xs generalizing s with
  | nil => exact ⟨_, _, _, rfl⟩
  | cons x xs ih => exact (hf s x).trans (ih (f s x))

/-! ### START_INSTANT -/

/-- The state at the start instant, before the events of a bad ROM: the identity of the ROM, its mapping and its defaults. -/
def State.started (s : State) (rom : List (BitVec 32)) (near : Nat) : State :=
  let id := identityOf rom near
  let fused := id.fused.toNat
  { s with
    phase := .starting
    pins := { s.pins with supplyValid := true, opReq := 2 }
    ident := id
    hub := { s.hub with
      map := mapVector fused, spares := (mapSlices fused (allFin 128) (unfusedSpares fused)).2
      dict := { s.hub.dict with stationEnable := BitVec.ofNat 16 id.stations.toNat, linkEnable := id.links } }
    slices := Vector.ofFn (fun n => { s.slices[n.1] with power := startPower fused (mapVector fused) n })
    stations := Vector.ofFn (fun m => { s.stations[m.1] with present := bitAt id.stations.toNat m.1 })
    links := Vector.ofFn (fun l => { s.links[l.1] with present := bitAt id.links.toNat l.1 }) }

/-- What START_INSTANT gives: the ROM's identity, its enables (Table 12-9), the mapping (R30), the power states (Table 13-3),
and the stations and links there are. -/
structure State.StartedFrom (s : State) (rom : List (BitVec 32)) (near : Nat) (t : State) : Prop where
  phase : t.phase = .starting
  opReq : t.pins.opReq = 2
  ident : t.ident = identityOf rom near
  stationEnable : t.hub.dict.stationEnable = BitVec.ofNat 16 t.ident.stations.toNat
  linkEnable : t.hub.dict.linkEnable = t.ident.links
  map : ∀ l : Fin 128, t.hub.map[l.1] = mappedTo t.ident.fused.toNat (allFin 128) (unfusedSpares t.ident.fused.toNat) l
  spares : t.hub.spares = (unfusedSpares t.ident.fused.toNat).drop (fusedOf t.ident.fused.toNat (allFin 128)).length
  power : ∀ n, (t.slice n).power = startPower t.ident.fused.toNat t.hub.map n
  stations : ∀ m, (t.station m).present = bitAt t.ident.stations.toNat m.1
  links : ∀ l, (t.link l).present = bitAt t.ident.links.toNat l.1
  stores : s.sameStores t
  tally : t.tally = s.tally
  ctxs : t.ctxs = s.ctxs

theorem State.startedFrom_started (s : State) (rom : List (BitVec 32)) (near : Nat) :
    s.StartedFrom rom near (s.started rom near) where
  phase := rfl
  opReq := rfl
  ident := rfl
  stationEnable := rfl
  linkEnable := rfl
  map _ := mapVector_get
  spares := by simp only [State.started, mapSlices_spares]
  power n := by simp only [State.slice, State.started, Vector.getElem_ofFn]
  stations m := by simp only [State.station, State.started, Vector.getElem_ofFn]
  links l := by simp only [State.link, State.started, Vector.getElem_ofFn]
  stores := ⟨fun _ => rfl, fun _ _ => rfl⟩
  tally := rfl
  ctxs := rfl

theorem State.StartedFrom.raised {s t u : State} {rom : List (BitVec 32)} {near : Nat} (h : s.StartedFrom rom near t)
    (hr : t.Raised u) : s.StartedFrom rom near u := by
  obtain ⟨seq, log, counters, rfl⟩ := hr
  exact { h with }

/-- The free value that stands for an illegal near_log2 of the ROM (R429), and the state that drew it. -/
def State.drawNear (s : State) (rom : List (BitVec 32)) : Nat × State :=
  if nearLog2Ok (field (romWord rom 7) 0 8) then (0, s) else s.draw

/-- START_INSTANT reads the identity and raises an event for each bad word. -/
theorem execStartInstant_of_held {s : State} {rom : List (BitVec 32)} (hp : s.phase = .held) :
    execStartInstant rom s = .next (((s.drawNear rom).2.started rom (s.drawNear rom).1).each (romBadWords rom)
      (fun t i => t.raise 0x900D none 0xC0 i (romWord rom i))) := by
  cases hn : nearLog2Ok (field (romWord rom 7) 0 8) <;> simp [execStartInstant, State.started, State.drawNear, hp, hn]

theorem execStartInstant_startedFrom {s : State} (rom : List (BitVec 32)) (hp : s.phase = .held) :
    ∃ t, execStartInstant rom s = .next t ∧ (s.drawNear rom).2.StartedFrom rom (s.drawNear rom).1 t :=
  ⟨_, execStartInstant_of_held hp,
    (State.startedFrom_started ..).raised (State.raised_each (fun t _ => t.raised_raise ..) _ _)⟩

/-- Settles O9: the state of the start instant, whose mapping is that of `mapSlices`; the events of bad words change the log and
the counters alone. -/
theorem startInstantMapsSlices : Obligations.StartInstantMapsSlices := by
  intro rom s hp hn
  obtain ⟨t, hexec, h⟩ := execStartInstant_startedFrom rom hp
  rw [State.drawNear, if_pos hn] at h
  exact ⟨t, hexec, h.phase, h.opReq, h.ident, h.stationEnable, h.linkEnable,
    fun l hl => (h.map l).trans (if_neg (Bool.eq_false_iff.1 hl)), fun l hl => (h.map l).trans (if_pos hl), h.spares, h.power,
    h.stations, h.links, h.stores, h.tally, h.ctxs⟩

/-! ### SB_READY -/

/-- The state of SB_READY once every station has its identity, before event 0x9011. -/
def State.serves (s : State) : State :=
  ({ s with phase := .ready, pins := { s.pins with ready := true } } : State).measureNow.latch.settleOpReq

theorem State.usable_of_map {s t : State} (h : t.hub.map = s.hub.map) : t.usable = s.usable := by
  simp only [State.usable, h]

theorem State.serves_map (s : State) : s.serves.hub.map = s.hub.map := by
  simp only [State.serves, State.settleOpReq, State.latch, State.measureNow, State.modHub]

theorem State.serves_usable (s : State) : s.serves.usable = s.usable := by
  exact State.usable_of_map s.serves_map

theorem State.serves_measurement (s : State) : s.serves.hub.measurement = sha384 (measuredBytes s.hub) := rfl

theorem execSbReady_of_identities {s : State} (hp : s.phase = .starting)
    (hids : ∀ m : Fin 12, (s.station m).present = true → (s.station m).idValid = true) :
    execSbReady s = .next (if s.usable.length < 128 then s.serves.raise 0x9011 none 0xC0 s.usable.length 0 else s.serves) := by
  have hfails : (allFin 12).filter (fun m => (s.station m).present && !(s.station m).idValid) = [] := by
    simpa [allFin] using hids
  rw [execSbReady, if_neg (by simp [hp]), hfails, ← s.serves_usable]
  rfl

/-- Settles O11: with every identity there no station fails, the block measures itself, and the event tells of a lost slice. -/
theorem sbReadyMeasures : Obligations.SbReadyMeasures := by
  intro s hp hids
  refine ⟨_, execSbReady_of_identities hp hids, ?_⟩
  by_cases hlost : s.usable.length < 128
  all_goals
    simp only [hlost, if_true, if_false]
    exact ⟨rfl, rfl, s.serves_measurement, rfl, rfl, rfl, rfl, rfl, rfl, rfl, ⟨fun _ => rfl, fun _ _ => rfl⟩, rfl⟩

end Sys2Proof.Machine
end

section
/-! SUPPORT. The spares over every command, and what the fencing of a slice changes of the mapping and of the slices (R30, R483
to R485). -/
namespace Sys2Proof.Machine

/-! ### Every command keeps the spares in ascending order (R30, R483) -/

/-- An operation on a state that differs from `s` outside the hub only takes spares. -/
theorem spares_of_keepsX {s s1 t : State} {o : Host.Outcome State Fault Refusal} (hk : KeepsX s1 o) (h : o = .next t)
    (hhub : s1.hub = s.hub) : t.hub.spares.Sublist s.hub.spares := hhub ▸ (hk t h).spares

/-- A command whose next state has the spares of the state before. -/
theorem spares_of_eq {s t u : State} (h : Host.Outcome.next u = (.next t : Host.Outcome State Fault Refusal))
    (hu : u.hub.spares = s.hub.spares) : t.hub.spares.Sublist s.hub.spares := by
  cases h
  exact hu ▸ List.Sublist.refl _

theorem execStartInstant_spares {rom : List (BitVec 32)} {s t : State} (h : execStartInstant rom s = .next t) :
    t.hub.spares.Sublist s.hub.spares ∨ ∃ fused, t.hub.spares.Sublist (unfusedSpares fused) := by
  by_cases hp : s.phase = .held
  · obtain ⟨u, hexec, hu⟩ := execStartInstant_startedFrom rom hp
    cases hexec.symm.trans h
    exact .inr ⟨_, hu.spares ▸ List.drop_sublist _ _⟩
  · exact .inl (spares_of_eq (by simpa [execStartInstant, hp] using h) rfl)

theorem execSbReady_spares {s t : State} (h : execSbReady s = .next t) : t.hub.spares.Sublist s.hub.spares := by
  unfold execSbReady at h
  split at h
  · exact spares_of_eq h rfl
  · refine spares_of_keepsX (s1 := { s with phase := .ready, pins := { s.pins with ready := true } }) (KeepsX.next ?_) h rfl
    have hk : ∀ ms : List (Fin 12), Keeps _ (State.each _ ms (fun t m => t.failStation m)).measureNow.latch.settleOpReq :=
      fun ms => ((Keeps.refl { s with phase := .ready, pins := { s.pins with ready := true } }).each
        fun _ _ k => k.failStation).measureNow.latch.settleOpReq
    split
    · exact (hk _).raise
    · exact hk _

theorem execThermalTrip_spares {s t : State} (h : execThermalTrip s = .next t) : t.hub.spares.Sublist s.hub.spares := by
  unfold execThermalTrip at h
  split at h
  · exact spares_of_eq h rfl
  · exact spares_of_keepsX (s1 := { s with pins := { s.pins with thermal := true } })
      (KeepsX.next (Keeps.refl _).count.raise.settleOpReq) h rfl

theorem execThermalTripClear_spares {s t : State} (h : execThermalTripClear s = .next t) :
    t.hub.spares.Sublist s.hub.spares := by
  refine spares_of_keepsX (s1 := { s with pins := { s.pins with thermal := false } }) (KeepsX.next ?_) h rfl
  exact Keeps.ite _ (Keeps.refl _).settleOpReq (Keeps.refl _)

theorem execOpGrantChange_spares {g : BitVec 2} {s t : State} (h : execOpGrantChange g s = .next t) :
    t.hub.spares.Sublist s.hub.spares := by
  refine spares_of_keepsX (s1 := { s with pins := { s.pins with opGrant := g } }) (KeepsX.next ?_) h rfl
  exact Keeps.ite _ (Keeps.refl _).raise (Keeps.refl _)

theorem execHLockedFall_spares {s t : State} (h : execHLockedFall s = .next t) : t.hub.spares.Sublist s.hub.spares := by
  refine spares_of_keepsX (s1 := { s with pins := { s.pins with hLocked := false } }) (KeepsX.next ?_) h rfl
  exact Keeps.ite _ (Keeps.refl _).abortKeyed.zeroAllKeys.raise (Keeps.refl _)

/-- The tally's rows leave the spares. -/
theorem tallyRow_spares {c : Instr} {s t : State} (hc : tallyRow c = true) (h : exec c s = .next t) :
    t.hub.spares.Sublist s.hub.spares := by
  cases c
  case tallySupplyLoss => exact spares_of_eq h rfl
  case tallyCount | tallyOpenMessage | epochEnd | tPortOpen | tallySupplyReturn =>
    simp only [exec, execTallyCount, execTallyOpenMessage, execEpochEnd, execTPortOpen, execTallySupplyReturn] at h
    split at h <;> exact spares_of_eq h rfl
  case tallyRequest | tallyRecordOffer =>
    simp only [exec, execTallyRequest, execTallyRecordOffer] at h
    split at h
    · exact spares_of_eq h rfl
    · exact spares_of_keepsX (KeepsX.next (Keeps.refl _).spendTally) h rfl
  all_goals cases hc

/-- START_INSTANT gives the spares anew; every other command only takes some. -/
theorem exec_spares {c : Instr} {s t : State} (h : exec c s = .next t) :
    t.hub.spares.Sublist s.hub.spares ∨ ∃ fused, t.hub.spares.Sublist (unfusedSpares fused) := by
  by_cases hplain : plain c = true
  · exact .inl (exec_keeps hplain t h).spares
  by_cases htally : tallyRow c = true
  · exact .inl (tallyRow_spares htally h)
  cases c
  case startInstant rom => exact execStartInstant_spares h
  case sbReady => exact .inl (execSbReady_spares h)
  case reset => cases h; exact .inl (List.nil_sublist _)
  case supplyLoss => cases h; exact .inl (List.nil_sublist _)
  case thermalTrip => exact .inl (execThermalTrip_spares h)
  case thermalTripClear => exact .inl (execThermalTripClear_spares h)
  case opGrantChange g => exact .inl (execOpGrantChange_spares h)
  case hLockedFall => exact .inl (execHLockedFall_spares h)
  case hLockedRise => exact .inl (spares_of_eq h rfl)
  case tallyCount | tallyOpenMessage | epochEnd | tallyRequest | tallyRecordOffer | tPortOpen | tallySupplyLoss
    | tallySupplyReturn => exact absurd rfl htally
  all_goals exact absurd rfl hplain

/-- Every command keeps the spares in ascending order. -/
theorem exec_keeps_spares_ascending {c : Instr} {s t : State} (hs : s.hub.spares.Pairwise (· < ·)) (h : exec c s = .next t) :
    t.hub.spares.Pairwise (· < ·) := by
  rcases exec_spares h with hsub | ⟨fused, hsub⟩
  · exact hs.sublist hsub
  · exact unfusedSpares_ascending.sublist hsub

theorem head_le_of_ascending {p q : Fin 132} {sp : List (Fin 132)} (hs : sp.Pairwise (· < ·)) (hp : sp.head? = some p)
    (hq : q ∈ sp) : p ≤ q := by
  obtain ⟨rest, rfl⟩ := List.head?_eq_some_iff.1 hp
  rcases List.mem_cons.1 hq with rfl | hmem
  · exact Nat.le_refl _
  · exact Nat.le_of_lt (List.rel_of_pairwise_cons hs hmem)

/-! ### What the work after a remap keeps -/

/-- The mapping, the spares and the count of fences stay, as do the power state, the wake and the shares of every slice; and a
slice that no logical slice is mapped to is bound as it was. -/
structure KeepsMapping (s t : State) : Prop where
  map : t.hub.map = s.hub.map
  spares : t.hub.spares = s.hub.spares
  fences : t.hub.counters.fences = s.hub.counters.fences
  power : ∀ n, (t.slice n).power = (s.slice n).power
  waking : ∀ n, (t.slice n).waking = (s.slice n).waking
  shares : ∀ n, (t.slice n).shares = (s.slice n).shares
  bound : ∀ n, (∀ l : Fin 128, s.hub.map[l.1] ≠ some n) → (t.slice n).bound = (s.slice n).bound

/-- A change of a slice that leaves its power state, its wake and its shares. -/
structure Slice.SameWork (f : Slice → Slice) : Prop where
  power : ∀ x, (f x).power = x.power
  waking : ∀ x, (f x).waking = x.waking
  shares : ∀ x, (f x).shares = x.shares

theorem KeepsMapping.refl (s : State) : KeepsMapping s s :=
  ⟨rfl, rfl, rfl, fun _ => rfl, fun _ => rfl, fun _ => rfl, fun _ _ => rfl⟩

theorem KeepsMapping.trans {s t u : State} (h : KeepsMapping s t) (k : KeepsMapping t u) : KeepsMapping s u where
  map := k.map.trans h.map
  spares := k.spares.trans h.spares
  fences := k.fences.trans h.fences
  power n := (k.power n).trans (h.power n)
  waking n := (k.waking n).trans (h.waking n)
  shares n := (k.shares n).trans (h.shares n)
  bound n hn := (k.bound n (h.map ▸ hn)).trans (h.bound n hn)

theorem KeepsMapping.foldl {α : Type} {f : State → α → State} (hf : ∀ t x, KeepsMapping t (f t x)) (xs : List α) (s : State) :
    KeepsMapping s (xs.foldl f s) := by
  induction xs generalizing s with
  | nil => exact KeepsMapping.refl s
  | cons x xs ih => exact (hf s x).trans (ih (f s x))

theorem KeepsMapping.each {α : Type} {f : State → α → State} (hf : ∀ t x, KeepsMapping t (f t x)) (xs : List α) (s : State) :
    KeepsMapping s (s.each xs f) := KeepsMapping.foldl hf xs s

/-- A state whose slices are those of `s` and whose hub differs in neither mapping, spares nor fences. -/
theorem KeepsMapping.of_slices {s t : State} (hm : t.hub.map = s.hub.map) (hsp : t.hub.spares = s.hub.spares)
    (hf : t.hub.counters.fences = s.hub.counters.fences) (hs : t.slices = s.slices) : KeepsMapping s t := by
  have hslice : ∀ n, t.slice n = s.slice n := fun n => by simp only [State.slice, hs]
  exact ⟨hm, hsp, hf, fun n => by rw [hslice], fun n => by rw [hslice], fun n => by rw [hslice], fun n _ => by rw [hslice]⟩

theorem State.slice_modSlice {α : Type} {s : State} {n : Fin 132} {f : Slice → Slice} {g : Slice → α} (hg : ∀ x, g (f x) = g x)
    (k : Fin 132) : g ((s.modSlice n f).slice k) = g (s.slice k) := by
  by_cases h : k = n
  · subst h
    rw [State.modSlice_same, hg]
  · rw [State.modSlice_other _ _ _ _ h]

/-- A change of a slice's ports, or of a mapped slice's binding. -/
theorem KeepsMapping.modSlice {s : State} {n : Fin 132} {f : Slice → Slice} (hf : Slice.SameWork f)
    (hb : (∀ x, (f x).bound = x.bound) ∨ ∃ l : Fin 128, s.hub.map[l.1] = some n) : KeepsMapping s (s.modSlice n f) where
  map := rfl
  spares := rfl
  fences := rfl
  power := State.slice_modSlice hf.power
  waking := State.slice_modSlice hf.waking
  shares := State.slice_modSlice hf.shares
  bound k hk := by
    rcases hb with hb | ⟨l, hl⟩
    · exact State.slice_modSlice hb k
    · rw [State.modSlice_other _ _ _ _ (fun e : k = n => hk l (hl.trans (congrArg some e.symm)))]

section
variable (s : State)

theorem KeepsMapping.raise (code : Nat) (ctx : Option (Fin 64)) (unit a0 a1 : Nat) :
    KeepsMapping s (s.raise code ctx unit a0 a1) := .of_slices rfl rfl rfl rfl

theorem KeepsMapping.modStep (slot : Nat) (f : Step → Step) : KeepsMapping s (s.modStep slot f) := .of_slices rfl rfl rfl rfl

theorem KeepsMapping.addCond (slot status cause : Nat) (tile : Option Nat) : KeepsMapping s (s.addCond slot status cause tile) :=
  KeepsMapping.modStep ..

theorem KeepsMapping.withNet (net : List Txn) : KeepsMapping s { s with net := net } := .of_slices rfl rfl rfl rfl

theorem KeepsMapping.spend (k n : Nat) : KeepsMapping s (s.spend k n) := .of_slices rfl rfl rfl rfl

theorem KeepsMapping.writeNear (a : Nat) (bs : Bytes) : KeepsMapping s (s.writeNear a bs) := .of_slices rfl rfl rfl rfl

theorem KeepsMapping.post (src dst : UnitId) (b : Body) : KeepsMapping s (s.post src dst b) := by
  unfold State.post
  split
  · exact KeepsMapping.withNet ..
  · exact KeepsMapping.refl s

theorem KeepsMapping.naccWrite (u : UnitId) (n : Fin 132) (tag a : Nat) (bs : Bytes) :
    KeepsMapping s (s.naccWrite u n tag a bs) := (KeepsMapping.writeNear ..).trans (KeepsMapping.post ..)

theorem KeepsMapping.nSent (n : Fin 132) (q : NReq) : KeepsMapping s (s.nSent n q) := by
  unfold State.nSent
  split
  · refine KeepsMapping.trans ?_ (KeepsMapping.spend ..)
    exact KeepsMapping.modSlice ⟨fun _ => rfl, fun _ => rfl, fun _ => rfl⟩ (.inl fun _ => rfl)
  · exact KeepsMapping.refl s

theorem KeepsMapping.nQueue (n : Fin 132) (wr : Bool) (a len : Nat) (data : Bytes) (p : NPurpose) :
    KeepsMapping s (s.nQueue n wr a len data p) := by
  have queued : ∀ q : NReq, KeepsMapping s (s.modSlice n (fun x => { x with nOut := x.nOut ++ [q] })) :=
    fun q => KeepsMapping.modSlice ⟨fun _ => rfl, fun _ => rfl, fun _ => rfl⟩ (.inl fun _ => rfl)
  unfold State.nQueue
  dsimp only
  split
  · exact (queued _).trans (KeepsMapping.nSent ..)
  · exact queued _

theorem KeepsMapping.nRange (n : Fin 132) (wr : Bool) (a len : Nat) (data : Bytes) (p : NPurpose) :
    KeepsMapping s (s.nRange n wr a len data p) := by
  have pieces : ∀ t : State, KeepsMapping t (t.nPieces n wr a len data p) :=
    KeepsMapping.each (fun t _ => KeepsMapping.nQueue t ..) _
  unfold State.nRange
  split
  · exact (KeepsMapping.writeNear ..).trans (pieces _)
  · exact pieces s

theorem KeepsMapping.tornSummaries (torn : List (UnitId × Fin 64 × SummaryRec × Nat × Nat)) :
    KeepsMapping s (s.tornSummaries torn) := by
  refine KeepsMapping.each (fun t e => ?_) torn s
  split
  · exact KeepsMapping.nRange ..
  · exact KeepsMapping.refl t

theorem KeepsMapping.remakeNaccs (l : Option Nat) (as : List (UnitId × Nat × Bool × Nat × Nat)) :
    KeepsMapping s (s.remakeNaccs l as) := by
  unfold State.remakeNaccs
  split
  · exact KeepsMapping.refl s
  · exact KeepsMapping.each (fun t _ => KeepsMapping.post t ..) as s

theorem KeepsMapping.clearAgain (n : Fin 132) (x : Step) (es : List Nat) : KeepsMapping s (s.clearAgain n x es) := by
  refine ((KeepsMapping.withNet ..).trans (KeepsMapping.modStep ..)).trans (KeepsMapping.each (fun t e => ?_) es _)
  split
  · exact KeepsMapping.naccWrite ..
  · exact KeepsMapping.refl t

theorem State.mapped_of_physOf {s : State} {l : Nat} {n : Fin 132} (h : s.physOf l = some n) :
    ∃ k : Fin 128, s.hub.map[k.1] = some n := by
  unfold State.physOf at h
  split at h
  · cases h
  · exact ⟨_, h⟩

theorem KeepsMapping.redispatch (slot j l : Nat) (last : Option Nat) : KeepsMapping s (s.redispatch slot j l last) := by
  have hstep := KeepsMapping.modStep s slot (fun y => { y with slices := y.slices.set j l })
  unfold State.redispatch
  dsimp only
  split
  next hphys =>
    split
    · exact hstep
    · refine hstep.trans (KeepsMapping.trans ?_ (KeepsMapping.post ..))
      exact KeepsMapping.modSlice ⟨fun _ => rfl, fun _ => rfl, fun _ => rfl⟩ (.inr (State.mapped_of_physOf hphys))
  · exact hstep

theorem KeepsMapping.fenceShare (slot j : Nat) : KeepsMapping s (s.fenceShare slot j) :=
  (KeepsMapping.addCond ..).trans (KeepsMapping.modStep ..)

theorem KeepsMapping.continueStep (x : Step) (j l : Nat) (lost : Option Share) (replaced : Bool) :
    KeepsMapping s (s.continueStep x j l lost replaced) := by
  unfold State.continueStep
  dsimp only
  split
  · exact KeepsMapping.refl s
  split
  · exact KeepsMapping.fenceShare ..
  split
  · exact KeepsMapping.redispatch ..
  split
  · exact KeepsMapping.fenceShare ..
  split
  · exact KeepsMapping.fenceShare ..
  · exact KeepsMapping.redispatch ..

end

/-! ### Fencing -/

/-- Slice `n`, which logical slice `i` is mapped to, is fenced: counted, with its event, and without its state and its part in
the hub's. -/
def State.unmake (s : State) (n : Fin 132) (i : Fin 128) : State :=
  (((s.count (fun c => { c with fences := c.fences + 1 })).raise 0x9010 none n.1 n.1 i.1).modSlice n (fun y =>
        { Slice.reset with power := .fenced, corrected := y.corrected, uncorrected := y.uncorrected, activeMs := y.activeMs
                           fVer := y.fVer })).modHub
    (fun h => { h with
      saved := h.saved.filter (fun e => e.1 != n), spares := h.spares.filter (· != n), probed := h.probed.filter (· != .slice n) })

/-- Logical slice `i` takes the first spare, which wakes, or is lost. -/
def State.remap (s : State) (i : Fin 128) : State :=
  let spare := s.hub.spares.head?
  let t := s.modHub (fun h => { h with map := h.map.set i.1 spare i.2, spares := h.spares.drop 1 })
  match spare with
  | some p => t.modSlice p (fun y => { y with waking := true })
  | none => t.raise 0x9011 none 0xC0 t.usable.length 0

/-- After the remap the fence of a mapped slice only continues work that was lost. -/
theorem State.fence_keepsMapping {s : State} {n : Fin 132} {i : Fin 128} (ha : (s.slice n).alive = true)
    (hl : s.logicalOf n = some i) : KeepsMapping ((s.unmake n i).remap i) (s.fence n) := by
  unfold State.fence
  rw [if_neg (by simp [ha])]
  simp only [hl]
  refine KeepsMapping.trans ?lost (KeepsMapping.each (fun t x => KeepsMapping.foldl (fun u j => ?continued) _ t) _ _)
  case continued =>
    split
    · exact KeepsMapping.continueStep ..
    · exact KeepsMapping.refl u
  case lost =>
    refine KeepsMapping.trans ?_ (KeepsMapping.each (fun t e => KeepsMapping.clearAgain t ..) _ _)
    refine KeepsMapping.trans ?_ (KeepsMapping.remakeNaccs ..)
    refine KeepsMapping.trans ?_ (KeepsMapping.withNet ..)
    exact KeepsMapping.tornSummaries ..

section
variable {s : State} {n p : Fin 132} {i : Fin 128}

theorem State.unmake_spares (hn : n ∉ s.hub.spares) : (s.unmake n i).hub.spares = s.hub.spares := by
  change s.hub.spares.filter (· != n) = s.hub.spares
  exact List.filter_eq_self.2 fun q hq => by simpa using fun e : q = n => hn (e ▸ hq)

theorem State.unmake_slice : (s.unmake n i).slice n = { Slice.reset with
    power := .fenced, corrected := (s.slice n).corrected, uncorrected := (s.slice n).uncorrected
    activeMs := (s.slice n).activeMs, fVer := (s.slice n).fVer } := vmod_same _ n _

theorem State.remap_map : (s.remap i).hub.map = s.hub.map.set i.1 s.hub.spares.head? i.2 := by
  unfold State.remap
  dsimp only
  split <;> rfl

theorem State.remap_spares : (s.remap i).hub.spares = s.hub.spares.drop 1 := by
  unfold State.remap
  dsimp only
  split <;> rfl

theorem State.remap_fences : (s.remap i).hub.counters.fences = s.hub.counters.fences := by
  unfold State.remap
  dsimp only
  split <;> rfl

/-- The spare that takes over starts its wake. -/
theorem State.remap_waking (hp : s.hub.spares.head? = some p) : ((s.remap i).slice p).waking = true := by
  simp [State.remap, hp]

/-- A slice that is no spare is left by the remap. -/
theorem State.remap_slice (hn : n ∉ s.hub.spares) : (s.remap i).slice n = s.slice n := by
  unfold State.remap
  dsimp only
  split
  next p hp =>
    have hne : n ≠ p := fun e => hn (e ▸ List.mem_of_mem_head? hp)
    rw [State.modSlice_other _ _ _ _ hne]
    rfl
  · rfl

/-- After the remap no logical slice is mapped to the fenced one. -/
theorem State.remap_unmaps (hn : n ∉ s.hub.spares) (hother : ∀ k : Fin 128, k ≠ i → s.hub.map[k.1] ≠ some n) (l : Fin 128) :
    (s.remap i).hub.map[l.1] ≠ some n := by
  simp only [State.remap_map]
  by_cases hl : l = i
  · subst hl
    simpa using fun h => hn (List.mem_of_mem_head? h)
  · have hne : i.1 ≠ l.1 := fun e => hl (Fin.ext e.symm)
    simpa [Vector.getElem_set, hne] using hother l hl

end

/-- Fencing a mapped slice. -/
theorem State.fence_remaps {s : State} {n : Fin 132} {i : Fin 128} (ha : (s.slice n).alive = true) (hl : s.logicalOf n = some i)
    (hn : n ∉ s.hub.spares) (hother : ∀ k : Fin 128, k ≠ i → s.hub.map[k.1] ≠ some n) :
    ((s.fence n).slice n).power = .fenced ∧ ((s.fence n).slice n).shares = [] ∧ ((s.fence n).slice n).bound = none ∧
    (s.fence n).hub.map[i.1] = s.hub.spares.head? ∧ (s.fence n).hub.spares = s.hub.spares.drop 1 ∧
    (s.fence n).hub.counters.fences = s.hub.counters.fences + 1 ∧
    (∀ p, s.hub.spares.head? = some p → ((s.fence n).slice p).waking = true) := by
  have h := State.fence_keepsMapping ha hl
  have hsp : (s.unmake n i).hub.spares = s.hub.spares := State.unmake_spares hn
  have hn' : n ∉ (s.unmake n i).hub.spares := hsp ▸ hn
  have hslice := (State.remap_slice (i := i) hn').trans State.unmake_slice
  refine ⟨?power, ?shares, ?bound, ?map, ?spares, ?fences, fun p hp => ?waking⟩
  case power => rw [h.power, hslice]
  case shares => rw [h.shares, hslice]; rfl
  case bound => rw [h.bound n (State.remap_unmaps hn' hother), hslice]; rfl
  case map => simp only [h.map, State.remap_map, hsp, Vector.getElem_set_self]
  case spares => rw [h.spares, State.remap_spares, hsp]
  case fences => rw [h.fences, State.remap_fences]; rfl
  case waking => rw [h.waking, State.remap_waking (hsp ▸ hp)]

/-- Settles O60: every command takes spares from an ascending list or gives one anew, and what a fence does after the remap keeps
the mapping and the work of every slice. -/
theorem fenceRemaps : Obligations.FenceRemaps :=
  ⟨fun _ _ _ hs h => exec_keeps_spares_ascending hs h, fun _ _ hs hp _ hq => head_le_of_ascending hs hp hq,
    fun _ _ _ ha hl hn hother => State.fence_remaps ha hl hn hother⟩

end Sys2Proof.Machine
end

section
/-! SUPPORT. Taking a transaction: which one leaves the network, and what the unit that takes it changes (R42, R385, R405,
R466, R469). -/
namespace Sys2Proof.Machine

/-! ### The network -/

section
variable {src dst : UnitId} {resp : Bool} {lets : Body → Bool}

/-- A transaction of a source, destination and class that is let in. -/
def Txn.fits (src dst : UnitId) (resp : Bool) (lets : Body → Bool) (x : Txn) : Bool :=
  x.src == src && x.dst == dst && x.body.response == resp && lets x.body

/-- `q` is the first of `net` that fits and is no piece, and `rest` is what stays: all but `q` and the pieces that fit before
it. -/
def TakenFrom (fits : Txn → Bool) (net : List Txn) (q : Txn) (rest : List Txn) : Prop :=
  ∃ before after, net = before ++ [q] ++ after ∧ rest = before.filter (fun x => !fits x) ++ after ∧
    (∀ x ∈ before, fits x = true → x.body.isPart = true) ∧ fits q = true ∧ q.body.isPart = false

theorem TakenFrom.cons {fits : Txn → Bool} {net rest : List Txn} {q x : Txn} (h : TakenFrom fits net q rest)
    (hx : fits x = true → x.body.isPart = true) : TakenFrom fits (x :: net) q (if fits x then rest else x :: rest) := by
  obtain ⟨before, after, hnet, hrest, hbefore, hq⟩ := h
  refine ⟨x :: before, after, by simp [hnet], ?_, List.forall_mem_cons.2 ⟨hx, hbefore⟩, hq⟩
  cases hf : fits x <;> simp [hrest, hf]

theorem takeTxn_some {net parts rest : List Txn} {q : Txn} (h : takeTxn src dst resp lets net = some (parts, q, rest)) :
    TakenFrom (Txn.fits src dst resp lets) net q rest := by
  induction net generalizing parts rest with
  | nil => cases h
  | cons x xs ih =>
    have hx : (x.src == src && x.dst == dst && x.body.response == resp && lets x.body) = x.fits src dst resp lets := rfl
    rw [takeTxn, hx] at h
    split at h
    next hfits =>
      split at h
      next hpart =>
        obtain ⟨⟨_, _, _⟩, htake, he⟩ := Option.map_eq_some_iff.1 h
        cases he
        simpa [hfits] using (ih htake).cons (fun _ => hpart)
      next hpart =>
        cases h
        exact ⟨[], xs, rfl, rfl, by simp, hfits, by simpa using hpart⟩
    next hfits =>
      obtain ⟨⟨_, _, _⟩, htake, he⟩ := Option.map_eq_some_iff.1 h
      cases he
      simpa [hfits] using (ih htake).cons (fun hf => absurd hf hfits)

end

/-! ### The unit that takes it -/

/-- What a unit takes and the state it leaves. -/
theorem State.recvTxn_some {s t : State} {src dst : UnitId} {code : Nat} {b : Body} (h : s.recvTxn src dst code = some (b, t)) :
    s.phase = .ready ∧ ∃ parts q rest beats, takeTxn src dst (bitAt code 5) (s.letsIn dst) s.net = some (parts, q, rest) ∧
      q.body = b ∧ b.typeCode = code ∧ t = (State.rouse { s with net := rest } dst b).spend 6 beats := by
  unfold State.recvTxn at h
  split at h
  · cases h
  next hopen =>
    have hp : s.phase = .ready := by
      simp only [State.live, Bool.or_eq_true, not_or, Bool.not_eq_true', Bool.not_eq_false] at hopen
      simpa using hopen.1.1.1
    split at h
    · cases h
    next parts q rest htake =>
      split at h
      next hcode =>
        cases h
        exact ⟨hp, parts, q, rest, _, htake, rfl, by simpa using hcode, rfl⟩
      next => cases h

/-- Rousing touches the slices alone. -/
theorem State.rouse_eq (s : State) (dst : UnitId) (b : Body) : s.rouse dst b = { s with slices := (s.rouse dst b).slices } := by
  unfold State.rouse
  split
  · split <;> rfl
  · rfl

/-- An IDLE slice that takes anything but a probe is ACTIVE; every other slice is as it was (R466). -/
theorem State.rouse_slice (s : State) (dst : UnitId) (b : Body) (n : Fin 132) : (s.rouse dst b).slice n =
    if dst = .slice n ∧ b.isProbe = false ∧ (s.slice n).power = .idle then { s.slice n with power := .active } else s.slice n := by
  cases dst with
  | slice k =>
    cases hb : b.isProbe with
    | true => simp [State.rouse, hb]
    | false =>
      by_cases hk : k = n
      · subst hk
        simp [State.rouse, hb, Slice.touch]
      · simp [State.rouse, hb, hk, State.modSlice_other _ _ _ _ (Ne.symm hk)]
  | ms k => simp [State.rouse]
  | ls k => simp [State.rouse]
  | hub => simp [State.rouse]

/-- Settles O27: `takeTxn` splits the network at the one it takes, and the unit that takes it at most rouses its slice. -/
theorem transactionsInOrder : Obligations.TransactionsInOrder := by
  intro src dst code b s t h
  obtain ⟨hp, parts, q, rest, beats, htake, rfl, hcode, rfl⟩ := State.recvTxn_some h
  obtain ⟨before, after, hnet, hrest, hbefore, hfits, hpart⟩ := takeTxn_some htake
  obtain ⟨⟨⟨hsrc, hdst⟩, -⟩, hlets⟩ :
      ((q.src = src ∧ q.dst = dst) ∧ q.body.response = bitAt code 5) ∧ s.letsIn dst q.body = true := by
    simpa [Txn.fits] using hfits
  have hrouse := State.rouse_eq { s with net := rest } dst q.body
  refine ⟨⟨before, after, q, hnet, hsrc, hdst, rfl, ?net, hbefore⟩, hcode, hpart, hp, ?awake, ?slices, ?frame⟩
  case net => rw [hrouse]; exact hrest
  case awake =>
    rintro n rfl
    simpa [State.letsIn] using hlets
  case slices => exact State.rouse_slice { s with net := rest } dst q.body
  case frame => rw [hrouse]; rfl

end Sys2Proof.Machine
end

section
/-! SUPPORT. What the view operations show of a store: bytes written read back, bytes learned show in the granules that no
unacknowledged write covers, and every other byte stays (R69, R392, R393, R394; assumption 7). -/
namespace Sys2Proof.Machine

/-! ### A store that comes to show bytes in some of its granules -/

/-- `m'` shows the bytes `bs` from `a` on in the granules `p`, and reads as `m` everywhere else. -/
structure Mem.Shows (a : Nat) (bs : Bytes) (p : Nat → Prop) (m m' : Mem) : Prop where
  wf : m'.wf = true
  inside : ∀ x, a ≤ x → x < a + bs.length → p (x / 64 * 64) → m'.get x = bs.getD (x - a) 0#8
  outside : ∀ x, (x < a ∨ a + bs.length ≤ x ∨ ¬ p (x / 64 * 64)) → m'.get x = m.get x

section
variable {a : Nat} {bs : Bytes} {p q : Nat → Prop} {m m' m'' : Mem}

theorem Mem.Shows.refl (hm : m.wf = true) (hp : ∀ g, ¬ p g) : Mem.Shows a bs p m m :=
  ⟨hm, fun _ _ _ h => absurd h (hp _), fun _ _ => rfl⟩

theorem Mem.Shows.trans (h : Mem.Shows a bs p m m') (k : Mem.Shows a bs q m' m'') :
    Mem.Shows a bs (fun g => p g ∨ q g) m m'' where
  wf := k.wf
  inside x hlo hhi hg := by
    by_cases hq : q (x / 64 * 64)
    · exact k.inside x hlo hhi hq
    · rw [k.outside x (.inr (.inr hq))]
      exact h.inside x hlo hhi (hg.resolve_right hq)
  outside x hx := by
    rw [k.outside x (hx.imp_right (·.imp_right fun n hq => n (.inr hq)))]
    exact h.outside x (hx.imp_right (·.imp_right fun n hp => n (.inl hp)))

theorem Mem.Shows.of_iff (h : Mem.Shows a bs p m m') (hpq : ∀ g, p g ↔ q g) : Mem.Shows a bs q m m' := by
  obtain rfl : p = q := funext fun g => propext (hpq g)
  exact h

/-- Writing the part of `bs` that lies in one granule shows it there. -/
theorem Mem.shows_write_piece (hm : m.wf = true) {g lo n : Nat} (hg : g % 64 = 0) (hlo : lo = max a g)
    (hn : min (lo + n) (a + bs.length) = min (g + 64) (a + bs.length)) :
    Mem.Shows a bs (· = g) m (m.write lo (cut bs (lo - a) n)) := by
  have hlen : (cut bs (lo - a) n).length = min n (bs.length - (lo - a)) := by simp [cut]
  refine ⟨Mem.wf_write hm _ _, fun x hax hxa hx => ?_, fun x hx => ?_⟩
  · rw [Mem.get_write hm, if_pos (by omega)]
    have hoff : lo - a + (x - lo) = x - a := by omega
    simp [cut, List.getD_eq_getElem?_getD, hoff, unlisted, show x - lo < n by omega]
  · exact Mem.get_write_outside hm (by omega)

/-- Writing the part in one granule, unless the granule is dirty. -/
theorem Mem.shows_clean_piece (hm : m.wf = true) {g lo n : Nat} (dirty : List Nat) (hg : g % 64 = 0) (hlo : lo = max a g)
    (hn : min (lo + n) (a + bs.length) = min (g + 64) (a + bs.length)) :
    Mem.Shows a bs (fun k => k = g ∧ k ∉ dirty) m (if dirty.contains g then m else m.write lo (cut bs (lo - a) n)) := by
  split
  next hd => exact Mem.Shows.refl hm fun k ⟨he, hk⟩ => hk (he ▸ List.contains_iff_mem.1 hd)
  next hd =>
    have hd : g ∉ dirty := fun h => hd (List.contains_iff_mem.2 h)
    exact (Mem.shows_write_piece hm hg hlo hn).of_iff fun k => ⟨fun e => ⟨e, e ▸ hd⟩, And.left⟩

/-- An operation that shows one granule at a time, but for the granules of `dirty`, shows them all. -/
theorem Mem.shows_each {view : State → Mem} {f : State → Nat → State} {dirty gs : List Nat} {s : State}
    (hf : ∀ t, (view t).wf = true → ∀ g ∈ gs, Mem.Shows a bs (fun k => k = g ∧ k ∉ dirty) (view t) (view (f t g)))
    (hs : (view s).wf = true) : Mem.Shows a bs (fun k => k ∈ gs ∧ k ∉ dirty) (view s) (view (s.each gs f)) := by
  induction gs generalizing s with
  | nil => exact Mem.Shows.refl hs (by simp)
  | cons g gs ih =>
    have first := hf s hs g (List.mem_cons_self ..)
    have others := ih (s := f s g) (fun t ht k hk => hf t ht k (List.mem_cons_of_mem _ hk)) first.wf
    exact (first.trans others).of_iff fun k => by simp only [List.mem_cons]; tauto

end

/-- The granules of a range are those that overlap it. -/
theorem mem_granulesOf {a len g : Nat} : g ∈ granulesOf a len ↔ 0 < len ∧ g % 64 = 0 ∧ a < g + 64 ∧ g < a + len := by
  unfold granulesOf
  split
  next h => simp [show len = 0 by simpa using h]
  next h =>
    have hlen : len ≠ 0 := by simpa using h
    simp only [List.mem_map, List.mem_range]
    constructor
    · rintro ⟨i, hi, rfl⟩
      omega
    · rintro ⟨-, hg, hag, hga⟩
      exact ⟨g / 64 - a / 64, by omega, by omega⟩

/-! ### What the operations leave alone -/

theorem State.each_view {α β : Type} {view : State → β} {f : State → α → State} (hf : ∀ t x, view (f t x) = view t)
    (xs : List α) (s : State) : view (s.each xs f) = view s := by
  unfold State.each
  induction xs generalizing s with
  | nil => rfl
  | cons x xs ih => rw [List.foldl_cons, ih, hf]

section
variable (s : State)

theorem State.nSent_near (n : Fin 132) (q : NReq) : (s.nSent n q).near = s.near := by
  unfold State.nSent
  split <;> rfl

theorem State.cSent_near (q : NReq) : (s.cSent q).near = s.near := by
  unfold State.cSent
  split <;> rfl

theorem State.nQueue_near (n : Fin 132) (wr : Bool) (a len : Nat) (data : Bytes) (p : NPurpose) :
    (s.nQueue n wr a len data p).near = s.near := by
  unfold State.nQueue
  dsimp only
  split
  · exact State.nSent_near ..
  · rfl

theorem State.cQueue_near (wr : Bool) (a len : Nat) (data : Bytes) (p : NPurpose) :
    (s.cQueue wr a len data p).near = s.near := by
  unfold State.cQueue
  extract_lets q s1
  split
  · exact State.cSent_near ..
  · rfl

/-- A slice's request changes the near store as its write does, a read not at all. -/
theorem State.nRange_near (n : Fin 132) (wr : Bool) (a len : Nat) (data : Bytes) (p : NPurpose) :
    (s.nRange n wr a len data p).near = (if wr then s.writeNear a data else s).near :=
  State.each_view (fun t _ => t.nQueue_near ..) _ _

/-- A request of the hub changes the near store as its write does, a read not at all. -/
theorem State.cRequest_near (wr : Bool) (a len : Nat) (data : Bytes) (p : NPurpose) :
    (s.cRequest wr a len data p).near = (if wr then s.writeNear a data else s).near :=
  State.each_view (fun t _ => t.cQueue_near ..) _ _

@[simp] theorem State.learnNear_stack (a : Nat) (bs : Bytes) (bad : List Nat) (m : Fin 12) :
    (s.learnNear a bs bad).stack m = s.stack m := rfl

@[simp] theorem State.learnStack_stack (m : Fin 12) (a : Nat) (bs : Bytes) (bad : List Nat) :
    (s.learnStack m a bs bad).stack m = (s.stack m).write a bs := s.writeStack_stack m a bs

theorem State.learnStack_other (m k : Fin 12) (a : Nat) (bs : Bytes) (bad : List Nat) (h : k ≠ m) :
    (s.learnStack m a bs bad).stack k = s.stack k := s.writeStack_other m k a bs h

theorem State.learnRead_stack (a : Nat) (bs : Bytes) (bad : List Nat) (m : Fin 12) :
    (s.learnRead a bs bad).stack m = s.stack m :=
  State.each_view (view := (·.stack m)) (fun t g => by dsimp only; split <;> rfl) _ s

theorem State.learnM_near (m : Fin 12) (a : Nat) (bs : Bytes) (bad : List Nat) : (s.learnM m a bs bad).near = s.near :=
  State.each_view (view := (·.near)) (fun t g => by split <;> rfl) _ s

theorem State.learnM_other (m k : Fin 12) (a : Nat) (bs : Bytes) (bad : List Nat) (h : k ≠ m) :
    (s.learnM m a bs bad).stack k = s.stack k := by
  refine State.each_view (view := (·.stack k)) (fun t g => ?_) _ s
  split
  · rfl
  · exact t.learnStack_other m k _ _ _ h

end

/-! ### What the operations show -/

section
variable {s : State}

/-- A near-store read's bytes show in every granule of their range that no unacknowledged write covers. -/
theorem State.learnRead_shows (hs : s.near.wf = true) (a : Nat) (bs : Bytes) (bad : List Nat) :
    Mem.Shows a bs (fun g => g ∈ granulesOf a bs.length ∧ g ∉ s.nearDirty) s.near (s.learnRead a bs bad).near := by
  refine Mem.shows_each (view := (·.near)) (fun t ht g hg => ?_) hs
  obtain ⟨-, hal, hlo, hhi⟩ := mem_granulesOf.1 hg
  dsimp only
  rw [apply_ite State.near]
  refine Mem.shows_clean_piece ht s.nearDirty hal rfl ?_
  change min (max a g + (min (a + bs.length) (g + 64) - max a g)) _ = _
  omega

/-- The bytes an M-port read returns show in every granule of their range that no unacknowledged write covers. -/
theorem State.learnM_shows {m : Fin 12} (hs : (s.stack m).wf = true) {a : Nat} (ha : a % 64 = 0) (bs : Bytes) (bad : List Nat) :
    Mem.Shows a bs (fun g => g ∈ granulesOf a bs.length ∧ g ∉ (s.station m).dirty) (s.stack m) ((s.learnM m a bs bad).stack m) := by
  refine Mem.shows_each (view := (·.stack m)) (fun t ht g hg => ?_) hs
  obtain ⟨-, hal, hlo, hhi⟩ := mem_granulesOf.1 hg
  rw [apply_ite (State.stack · m), State.learnStack_stack]
  exact Mem.shows_clean_piece ht _ hal (by omega) rfl

/-- Bytes shown in the granules of their range that are not dirty, byte by byte. -/
theorem Mem.Shows.bytes {a : Nat} {bs : Bytes} {dirty : List Nat} {m m' : Mem}
    (h : Mem.Shows a bs (fun g => g ∈ granulesOf a bs.length ∧ g ∉ dirty) m m') :
    (∀ i, i < bs.length → (a + i) / 64 * 64 ∉ dirty → m'.get (a + i) = bs.getD i 0#8) ∧
    (∀ x, (x < a ∨ a + bs.length ≤ x ∨ x / 64 * 64 ∈ dirty) → m'.get x = m.get x) := by
  constructor
  · intro i hi hd
    have hg : (a + i) / 64 * 64 ∈ granulesOf a bs.length := mem_granulesOf.2 (by omega)
    rw [h.inside (a + i) (by omega) (by omega) ⟨hg, hd⟩, Nat.add_sub_cancel_left]
  · exact fun x hx => h.outside x (hx.imp_right (·.imp_right fun hd n => n.2 hd))

end

/-- Settles O32: every write reads back by the laws of a store; a read's bytes are learned granule by granule. -/
theorem storesReadBack : Obligations.StoresReadBack := by
  refine ⟨fun a bs s hs => ?near, fun m a bs s hs => ?stack, fun a len bs p s => ?hub, fun n a len bs p s => ?slice,
    fun a bs bad s hs => ?learnNear, fun a bs bad s hs => ?learnRead, fun m a bs bad s hs ha => ?learnM⟩
  case near => exact ⟨Mem.read_write hs.1 a bs, fun _ => Mem.get_write_outside hs.1, fun m => s.writeNear_stack m a bs⟩
  case stack =>
    rw [State.writeStack_stack]
    exact ⟨Mem.read_write (hs.2 m) a bs, fun _ => Mem.get_write_outside (hs.2 m), fun k => s.writeStack_other m k a bs, rfl⟩
  case hub => exact ⟨s.cRequest_near true a len bs p, s.cRequest_near false a len bs p⟩
  case slice => exact ⟨s.nRange_near n true a len bs p, s.nRange_near n false a len bs p⟩
  case learnNear =>
    exact ⟨Mem.read_write hs.1 a bs, fun _ => Mem.get_write_outside hs.1, s.learnNear_stack a bs bad⟩
  case learnRead =>
    obtain ⟨hin, hout⟩ := (State.learnRead_shows hs.1 a bs bad).bytes
    exact ⟨hin, hout, s.learnRead_stack a bs bad⟩
  case learnM =>
    obtain ⟨hin, hout⟩ := (State.learnM_shows (hs.2 m) ha bs bad).bytes
    exact ⟨hin, hout, fun k => s.learnM_other m k a bs bad, s.learnM_near m a bs bad⟩

end Sys2Proof.Machine
end

section
/-! SUPPORT. F-port transactions at their receivers: what each does once it has been taken (R69, R137, R182, R253, R254, R260, R299,
R325, R392, R405, R511). -/
namespace Sys2Proof.Machine

variable {s t : State}

/-! ### Tiles and near-store accesses at a slice -/

theorem exec_stitch_taken {sl : Fin 132} {src : UnitId} {slot pos : Nat} {r : Role} {y : SlotTile}
    (h : s.recvTxn src (.slice sl) 0x21 = some (.stitch slot r pos y, t)) :
    exec (.stitch sl src) s = .next (t.fillSlot sl slot r pos y) := by
  change execStitch sl src s = _
  simp only [execStitch, h]

theorem exec_xlate_read {sl : Fin 132} {src : Fin 12} {f : FetchRec} {l : Leaf} {x : Step} {fmt : StreamFmt}
    (h : s.recvTxn (.ms src) (.slice sl) 0x27 = some (.xlate f l, t)) (hf : f.leaf = none) (hx : t.step? f.slot = some x)
    (hfmt : t.fetchFmt f l = some fmt) : exec (.xlate sl src) s = .next (t.startNear sl f l fmt) := by
  change execXlate sl src s = _
  simp [execXlate, h, hf, hx, hfmt]

theorem exec_xlate_write {sl : Fin 132} {src : Fin 12} {f : FetchRec} {l : Leaf}
    (h : s.recvTxn (.ms src) (.slice sl) 0x27 = some (.xlate f l, t)) (hf : f.leaf ≠ none) :
    exec (.xlate sl src) s = .next (t.writeNearTile sl f l) := by
  change execXlate sl src s = _
  simp [execXlate, h, hf]

theorem exec_nacc_taken {sl : Fin 132} {src : UnitId} {step addr len : Nat} {wr : Bool} {data : Bytes}
    (h : s.recvTxn src (.slice sl) 0x05 = some (.nacc step wr addr len data, t)) : exec (.nacc sl src) s = .next
      (t.nPieces sl wr addr len data (if wr then .naccWrite src step addr len else .nacc src step addr len)) := by
  change execNacc sl src s = _
  simp only [execNacc, h]

/-! ### Near-store data at a station and at the hub -/

theorem exec_ndata_station {src : Fin 132} {m : Fin 12} {step addr : Nat} {data : Bytes} {bad : List Nat}
    (h : s.recvTxn (.slice src) (.ms m) 0x23 = some (.ndata step addr data bad, t)) :
    exec (.ndata (.ms m) src) s = .next ((t.nearCame m addr data.length).wake [m]) := by
  change execNdata (.ms m) src s = _
  simp only [execNdata, h]

theorem exec_ndata_hub {src : Fin 132} {step addr : Nat} {data : Bytes} {bad : List Nat}
    (h : s.recvTxn (.slice src) .hub 0x23 = some (.ndata step addr data bad, t)) :
    exec (.ndata .hub src) s = .next
      (if ((t.modStep step (Step.nearCame · addr data bad)).step? step).any (isOp .recv)
        then (t.modStep step (Step.nearCame · addr data bad)).drainRecv step
        else t.modStep step (Step.nearCame · addr data bad)) := by
  change execNdata .hub src s = _
  simp only [execNdata, h]
  rfl

/-- A string of 4 KiB is a chain's batch, any other a granule of a mask or map. -/
theorem Step.nearCame_eq (addr : Nat) (data : Bytes) (bad : List Nat) (x : Step) : x.nearCame addr data bad =
    if data.length = 4096 then
      { x with batches := x.batches.map (fun b => if b.1 == addr && b.2.isNone then (addr, some (data, bad)) else b) }
    else
      { x with
        asked := x.asked.filter (· != addr)
        granules := if x.asked.contains addr then (addr, data, !bad.isEmpty) :: x.granules else x.granules } := by
  unfold Step.nearCame
  simp only [beq_iff_eq]

/-! ### Acknowledgements, step links and credits -/

theorem exec_ack_slice {src : UnitId} {n : Fin 132} {slot i : Nat} {r : Role}
    (h : s.recvTxn src (.slice n) 0x22 = some (.ack slot r i, t)) : exec (.ack (.slice n) src) s = .next (t.ackOut n slot r i) := by
  change execAck (.slice n) src s = _
  simp only [execAck, h]

theorem exec_ack_link {src : UnitId} {l : Fin 16} {slot i : Nat} {r : Role}
    (h : s.recvTxn src (.ls l) 0x22 = some (.ack slot r i, t)) : exec (.ack (.ls l) src) s = .next (t.tileVisible l slot i) := by
  change execAck (.ls l) src s = _
  simp only [execAck, h]

theorem exec_qpush_taken {sl : Fin 132} {src : UnitId} {slot : Nat} {e : QEntry}
    (h : s.recvTxn src (.slice sl) 0x07 = some (.qpush slot e, t)) :
    exec (.qpush sl src) s = .next (t.modShare sl slot (fun g => { g with link := g.link ++ [(src, e)] })) := by
  change execQpush sl src s = _
  simp only [execQpush, h]

theorem exec_credit_slice {src : UnitId} {n : Fin 132} {slot j k : Nat}
    (h : s.recvTxn src (.slice n) 0x24 = some (.credit slot j k, t)) : exec (.credit (.slice n) src) s = .next
      (((t.slice n).shares.filter (fun g => !g.linkOut.isEmpty && t.atWork n g.ctx)).foldl (fun u g => u.flushLink n g.slot) t) := by
  change execCredit (.slice n) src s = _
  simp only [execCredit, h, State.each]

theorem exec_credit_link {src : UnitId} {l : Fin 16} {slot j k : Nat}
    (h : s.recvTxn src (.ls l) 0x24 = some (.credit slot j k, t)) : exec (.credit (.ls l) src) s = .next (t.pushStation l) := by
  change execCredit (.ls l) src s = _
  simp only [execCredit, h]

/-! ### Gazetteer contributions -/

section
variable {sl src : Fin 132} {c : Fin 64} {entry page tile y n slot i : Nat} {b : List (Nat × Nat)}
  (h : s.recvTxn (.slice src) (.slice sl) 0x06 = some (.summary c entry page tile y n b slot i, t))
include h

theorem exec_summary_merges (hm : (s.slice sl).merging = false) : exec (.summary sl src) s = .next
    (t.nRange sl false ((t.ctx c).gazAddr entry) (t.ctx c).gazStride []
      (.gaz .merge (.slice src) c { entry := entry, page := page, tile := tile, y := y, n := n, bounds := b } slot i)) := by
  change execSummary sl src s = _
  simp [execSummary, h, hm]

/-- The owner slice merges one contribution at a time (R325). -/
theorem exec_summary_waits (hm : (s.slice sl).merging = true) : exec (.summary sl src) s = .next s := by
  change execSummary sl src s = _
  simp [execSummary, h, hm]

end

/-- Settles O37: each row is what its receiver does with the body that `recvTxn` hands it. -/
theorem transactionsAtUnits : Obligations.TransactionsAtUnits := by
  refine ⟨fun _ _ _ _ _ _ _ _ => exec_stitch_taken, ?xlate, fun _ _ _ _ _ _ _ _ _ => exec_nacc_taken,
    fun _ _ _ _ _ _ _ _ => exec_ndata_station, ?ndata, fun _ _ _ _ _ _ => ⟨fun _ => exec_ack_slice, fun _ => exec_ack_link⟩,
    fun _ _ _ _ _ _ => exec_qpush_taken, fun _ _ _ _ _ _ _ => exec_credit_slice, fun _ _ _ _ _ _ _ => exec_credit_link,
    fun _ _ _ _ _ _ _ _ _ _ _ _ _ h => ⟨exec_summary_merges h, exec_summary_waits h⟩⟩
  case xlate => exact fun _ _ _ _ _ _ _ _ h => ⟨exec_xlate_read h, exec_xlate_write h⟩
  case ndata =>
    intro src step addr data bad s t h
    simpa only [Step.nearCame_eq] using exec_ndata_hub h

end Sys2Proof.Machine
end

section
/-! SUPPORT. The rows of a slice's datapaths: which share each takes up, and where a decoded contour tile goes (R100, R157, R161,
R168). -/
namespace Sys2Proof.Machine

variable {s t : State} {sl : Fin 132}

/-! ### The first share that can go on -/

theorem exec_expandStart_first (h : (s.slice sl).shares.findSome? (fun h => s.startShare sl h.slot) = some t) :
    exec (.expandStart sl) s = .next (t.modSlice sl Slice.touch) := by
  change execExpandStart sl s = _
  simp only [execExpandStart, h]

theorem exec_tileCompressed_first (h : (s.slice sl).shares.findSome? (fun h => s.codeShare sl h.slot) = some t) :
    exec (.tileCompressed sl) s = .next t := by
  change execTileCompressed sl s = _
  simp only [execTileCompressed, h]

section
variable {before after : List Share} {h : Share} {k : ShareKind} {x : Step} {g : Share}
  (hs : (s.slice sl).shares = before ++ [h] ++ after) (hb : ∀ b ∈ before, b.kind ≠ k) (hk : h.kind = k)
  (hl : s.liveShare sl h.slot = some (x, g))
include hs hb hk hl

/-- A search for the first share that is of kind `k`, bound and awake, and whose work can go on: the shares of other kinds
in front are passed over. -/
theorem State.findSome?_shares_of_kind {work : Step → Share → Option State} (hw : work x g = some t) :
    (s.slice sl).shares.findSome? (fun b => if b.kind == k then (s.liveShare sl b.slot).bind (fun p => work p.1 p.2) else none) =
      some t := by
  refine List.findSome?_eq_some_iff.2 ⟨before, h, after, by simpa using hs, ?here, fun b m => ?passed⟩
  case here => simp [hk, hl, hw]
  case passed => simp [hb b m]

end

section
variable {before after : List Share} {h : Share} {x : Step} {g : Share}
  (hs : (s.slice sl).shares = before ++ [h] ++ after) (hl : s.liveShare sl h.slot = some (x, g))
include hs hl

theorem exec_pairStart_first (hb : ∀ b ∈ before, b.kind ≠ .gatherMerge) (hk : h.kind = .gatherMerge)
    (hw : s.startPair sl x g = some t) : exec (.pairStart sl) s = .next (t.modSlice sl Slice.touch) := by
  change execPairStart sl s = _
  simp only [execPairStart, State.findSome?_shares_of_kind hs hb hk hl hw]

theorem exec_contourBlockCoded_first (hb : ∀ b ∈ before, b.kind ≠ .contour) (hk : h.kind = .contour)
    (hw : s.codeBlock sl x g = some t) : exec (.contourBlockCoded sl) s = .next t := by
  change execContourBlockCoded sl s = _
  simp only [execContourBlockCoded, State.findSome?_shares_of_kind hs hb hk hl hw]

end

/-! ### A decoded contour tile (R161, R168) -/

/-- The tile the contour decoder holds, whole: none of its failures is left to find. -/
def Decoding.expanded (d : Decoding) : Expanded :=
  { legend := d.legend, data := d.data, scale := d.scale, absent := false, zeros := false, poison := d.poison, found := 0 }

/-- The slice's contour decoder free again, the tile it decoded counted. -/
def State.freeDecoder (s : State) (sl : Fin 132) (d : Decoding) : State :=
  (s.modSlice sl (fun y => { y with decoding := none })).spendCodec false d.legend.fmt 1

section
variable {d : Decoding} {x : Step} {h : Share} {u : Use}
  (hd : (s.slice sl).decoding = some d) (hl : s.liveShare sl d.slot = some (x, h)) (hu : s.use x .src = some u)
include hd hl hu

theorem exec_contourTileDecoded_toDPort (hk : h.kind.toDPort = true) (hm : (s.slice sl).mayOffer = true) :
    exec (.contourTileDecoded sl) s = .next ((s.freeDecoder sl d).offerTile sl x h d.chainIdx d.pos u.fmt d.expanded) := by
  change execContourTileDecoded sl s = _
  simp [execContourTileDecoded, hd, hl, hu, hk, hm, State.freeDecoder, Decoding.expanded]

theorem exec_contourTileDecoded_toCompressor (hk : h.kind.toDPort = false) (ht : takesTile x h = true) :
    exec (.contourTileDecoded sl) s = .next
      ((((s.freeDecoder sl d).enqueue sl x (inputTile x d.chainIdx (s.isLoad x && d.legend.keyClass == 2)
        (s.inputScale x h u.fmt d.expanded) d.data false d.poison)).settlePass d.slot).settleShare sl d.slot) := by
  change execContourTileDecoded sl s = _
  simp [execContourTileDecoded, hd, hl, hu, hk, ht, State.freeDecoder, Decoding.expanded]

end

/-! ### The obligation -/

theorem datapathsTakeFirstShare : Claims.DatapathsTakeFirstShare :=
  ⟨fun _ _ _ => exec_expandStart_first,
    fun _ _ _ _ _ _ _ _ hs hb hk hl => exec_pairStart_first hs hl hb hk,
    fun _ _ _ => exec_tileCompressed_first,
    fun _ _ _ _ _ _ _ _ hs hb hk hl => exec_contourBlockCoded_first hs hl hb hk⟩

theorem contourDecoded : Claims.ContourDecoded := fun _ _ _ _ _ _ hd hl hu =>
  ⟨exec_contourTileDecoded_toDPort hd hl hu, exec_contourTileDecoded_toCompressor hd hl hu⟩

/-- Settles O33: each row runs the first share whose work can go on; the decoder's tile has one way out for each kind of share. -/
theorem datapaths : Obligations.Datapaths := ⟨datapathsTakeFirstShare, contourDecoded⟩

end Sys2Proof.Machine
end

section
/-! SUPPORT. The swatch test and the event log over the H-port: what a segment write of swatch_control starts, how a running test
ends, and when a read of event_next removes an entry (R176, R177, R449). -/
namespace Sys2Proof.Machine

/-! ### Segment frames (R436) -/

section
variable {s : State} {f : HReq} {rot : Bool}

theorem State.frameValue_of_writeSegment (hop : f.op = 4) : s.frameValue f = 0 := by
  unfold State.frameValue
  split <;> simp [hop]

/-- An accepted WRITE_SEG takes effect and answers 0. -/
theorem State.hFrame_of_writeSegment (hp : s.phase = .ready) (hj : s.judge f rot = 0x40) (hl : f.idx ≠ 0x9000)
    (hop : f.op = 4) : s.hFrame f rot = (s.writeSegment f).answered f 0x40 0 := by
  have hk : f.isKeyCommand = false := by simp [HReq.isKeyCommand, hop]
  rw [State.hFrame_of_accepted hp hj hl hk, State.frameValue_of_writeSegment hop]
  simp [HReq.writes, HReq.segmented, State.applyWrite, hop]

end

section
variable (s : State) (f : HReq) (code value : Nat)

@[simp] theorem State.answered_ctxs : (s.answered f code value).ctxs = s.ctxs := rfl
@[simp] theorem State.answered_slices : (s.answered f code value).slices = s.slices := rfl
@[simp] theorem State.answered_swatch : (s.answered f code value).hub.swatch = s.hub.swatch := rfl
@[simp] theorem State.answered_log : (s.answered f code value).hub.log = s.hub.log := rfl
@[simp] theorem State.answered_logPeeked : (s.answered f code value).hub.logPeeked = s.hub.logPeeked := rfl
@[simp] theorem State.answered_counters : (s.answered f code value).hub.counters = s.hub.counters := rfl
@[simp] theorem State.answered_response : (s.answered f code value).hub.response = some (f.response code value) := rfl

end

section
variable {s t : State}

theorem State.sameStores_refl : s.sameStores s := ⟨fun _ => rfl, fun _ _ => rfl⟩

theorem State.sameStores.modHub (h : s.sameStores t) (g : Hub → Hub) : s.sameStores (t.modHub g) := h

theorem State.sameStores.raise (h : s.sameStores t) (code : Nat) (ctx : Option (Fin 64)) (unit a0 a1 : Nat) :
    s.sameStores (t.raise code ctx unit a0 a1) := h

theorem State.sameStores.answered (h : s.sameStores t) (f : HReq) (code value : Nat) :
    s.sameStores (t.answered f code value) := h

end

/-! ### Starting the swatch test (R176, R177) -/

/-- What swatch_result shows of a logical slice once its test has been asked for: skipped at once when it has no physical slice
(assumption 32), else running. -/
def State.swatchAsked (s : State) (l : Fin 128) : Swatch :=
  match s.physOf l.1 with
  | none => { pass := 0, done := true, skipped := true, running := false }
  | some n => { pass := 0, done := false, skipped := !s.swatchRuns n, running := true }

theorem State.swatchAsked_of_unmapped {s : State} {l : Fin 128} (h : s.physOf l.1 = none) :
    s.swatchAsked l = { pass := 0, done := true, skipped := true, running := false } := by
  simp only [State.swatchAsked, h]

theorem State.swatchAsked_of_mapped {s : State} {l : Fin 128} {n : Fin 132} (h : s.physOf l.1 = some n) :
    s.swatchAsked l = { pass := 0, done := false, skipped := !s.swatchRuns n, running := true } := by
  simp only [State.swatchAsked, h]

/-- The elements at the indices of a list, each replaced by its own value. -/
def setEach {α : Type} {n : Nat} (g : Fin n → α) (is : List (Fin n)) (v : Vector α n) : Vector α n :=
  is.foldl (fun u i => vmod u i (fun _ => g i)) v

theorem setEach_getElem {α : Type} {n : Nat} (g : Fin n → α) (is : List (Fin n)) (v : Vector α n) (j : Fin n) :
    (setEach g is v)[j.1] = if j ∈ is then g j else v[j.1] := by
  unfold setEach
  induction is generalizing v with
  | nil => simp
  | cons i is ih =>
    rw [List.foldl_cons, ih, vmod_getElem]
    by_cases hm : j ∈ is
    · simp [hm]
    · by_cases hij : i = j
      · simp [hij]
      · have hji : j ≠ i := fun e => hij e.symm
        simp [hm, hji, Fin.val_inj, hij]

/-- No slice's test changes what another's is asked to do. -/
theorem State.startSwatch_eq (s : State) (ls : List (Fin 128)) :
    s.startSwatch ls = s.modHub (fun h => { h with swatch := setEach s.swatchAsked ls h.swatch }) := by
  unfold State.startSwatch State.each setEach
  induction ls generalizing s with
  | nil => rfl
  | cons l ls ih => exact ih _

section
variable (s : State) (ls : List (Fin 128))

theorem State.startSwatch_swatch (l : Fin 128) :
    (s.startSwatch ls).hub.swatch[l.1] = if l ∈ ls then s.swatchAsked l else s.hub.swatch[l.1] := by
  simp only [State.startSwatch_eq, State.modHub_hub, setEach_getElem]

theorem State.startSwatch_slices : (s.startSwatch ls).slices = s.slices := by
  rw [State.startSwatch_eq, State.modHub_slices]

theorem State.startSwatch_sameStores : s.sameStores (s.startSwatch ls) := by
  rw [State.startSwatch_eq]
  exact State.sameStores_refl.modHub _

end

/-- The segment write of swatch_control. -/
def swatchFrame (seg : BitVec 16) (v : BitVec 64) (len seq : BitVec 8) : HReq :=
  { op := 4, seq := seq.toNat, idx := 0x7000, sub := 0x20, seg := seg.toNat, len := len.toNat, value := v.toNat }

/-- Check 9 accepts every write to a health object but one of lifetime_restore (Table 12-11). -/
theorem State.stateOk_health {s : State} {f : HReq} (hi : f.idx = 0x7000) (hs : f.sub ≠ 8) : s.stateOk f = true := by
  have hctx : within 0x3300 64 0x7000 = none := within_of_ge (by decide)
  unfold State.stateOk
  simp [hi, hs, hctx]

/-- Of the checks of Table 12-4 the write passes all but BUSY: swatch_control is write-only, not measured, and has no value
rule, state or window. -/
theorem State.judge_swatchFrame {s : State} {seg : BitVec 16} {v : BitVec 64} {len seq : BitVec 8} {rot : Bool}
    (hp : s.phase = .ready) (hlo : 1 ≤ len.toNat) (hhi : len.toNat ≤ 8) :
    let f := swatchFrame seg v len seq
    s.judge f rot = if s.notBusy { f with value := f.value % 2 ^ (8 * f.len) } then 0x40 else 0x49 := by
  have hobj : objOf s.hub.mirrorRecord.length 0x7000 0x20 = some ⟨.blob 16, .wo⟩ := rfl
  simp [State.judge, swatchFrame, hp, hobj, typeOk, HReq.segmented, HReq.writes, Ty.segmented, measuredPairs, hlo, hhi,
    State.stateOk_health]
  split <;> simp [*]

theorem exec_swatchControl {s : State} {seg : BitVec 16} {v : BitVec 64} {len seq : BitVec 8} {rot : Bool}
    (hp : s.phase = .ready) (hlo : 1 ≤ len.toNat) (hhi : len.toNat ≤ 8)
    (hb : let f := swatchFrame seg v len seq
      s.notBusy { f with value := f.value % 2 ^ (8 * f.len) } = true) :
    exec (.swatchControl seg v len seq rot) s = .next
      ((s.startSwatch (swatchNamed (swatchFrame seg v len seq))).answered (swatchFrame seg v len seq) 0x40 0) := by
  have hj : s.judge (swatchFrame seg v len seq) rot = 0x40 := (State.judge_swatchFrame hp hlo hhi).trans (if_pos hb)
  exact congrArg _ (State.hFrame_of_writeSegment hp hj (by simp [swatchFrame]) rfl)

/-! ### The end of a test (R176, R177) -/

theorem sum_placed_bits (p : Nat → Bool) (n : Nat) :
    ((List.range n).map (fun e => place (b2n (p e)) e 1)).sum = Nat.ofBits (fun e : Fin n => p e.1) := by
  induction n generalizing p with
  | zero => rfl
  | succ n ih =>
    have hplace : ∀ e, place (b2n (p (e + 1))) (e + 1) 1 = 2 * place (b2n (p (e + 1))) e 1 := fun e => by
      simp only [place, Nat.shiftLeft_eq, pow_succ]
      ring
    have htail : Nat.ofBits ((fun e : Fin (n + 1) => p e.1) ∘ Fin.succ) = Nat.ofBits (fun e : Fin n => p (e.1 + 1)) := rfl
    have hhead : place (b2n (p 0)) 0 1 = (p 0).toNat := by cases p 0 <;> rfl
    rw [Nat.ofBits_succ, htail, ← ih (fun e => p (e + 1)), List.range_succ_eq_map]
    simp only [List.map_cons, List.map_map, List.sum_cons, Function.comp_def, Nat.succ_eq_add_one, hplace, List.sum_map_mul_left,
      hhead, Fin.val_zero]
    omega

/-- The eight pass bits of swatch_result, effort 0 lowest. -/
theorem swatchBits_eq : swatchBits = Nat.ofBits (fun e : Fin 8 => swatchPass e.1) := by
  rw [swatchBits, sumNat, ← List.sum_eq_foldl, sum_placed_bits]

theorem ofBits_eq_allOnes_iff {n : Nat} (p : Fin n → Bool) : Nat.ofBits p = 2 ^ n - 1 ↔ ∀ e, p e = true := by
  constructor
  · intro h e
    have hbit := Nat.testBit_ofBits_lt p e.1 e.2
    rwa [h, Nat.testBit_two_pow_sub_one, decide_eq_true e.2, eq_comm] at hbit
  · intro h
    refine Nat.eq_of_testBit_eq fun i => ?_
    by_cases hi : i < n <;> simp [Nat.testBit_ofBits, Nat.testBit_two_pow_sub_one, hi, h]

theorem swatchBits_eq_255_iff : swatchBits = 255 ↔ ∀ e : Fin 8, swatchPass e.1 = true := by
  rw [swatchBits_eq]
  exact ofBits_eq_allOnes_iff _

theorem swatchBits_getLsbD (e : Fin 8) : (BitVec.ofNat 8 swatchBits).getLsbD e.1 = swatchPass e.1 := by
  rw [swatchBits_eq, BitVec.getLsbD_ofNat, decide_eq_true e.2, Bool.true_and, Nat.testBit_ofBits_lt]

/-- The bits a test ends with: those of its efforts, none when it was skipped. -/
def Swatch.foundBits (w : Swatch) : Nat := if w.skipped then 0 else swatchBits

theorem Swatch.foundBits_getLsbD (w : Swatch) (e : Fin 8) :
    (BitVec.ofNat 8 w.foundBits).getLsbD e.1 = (!w.skipped && swatchPass e.1) := by
  unfold Swatch.foundBits
  cases w.skipped
  case true => simp
  case false => rw [if_neg Bool.false_ne_true, Bool.not_false, Bool.true_and, swatchBits_getLsbD]

/-- The hub with the test of a slice ended. -/
def State.endSwatch (s : State) (l : Fin 128) : State :=
  s.modHub (fun h => { h with swatch := vmod h.swatch l (fun k =>
    { k with pass := BitVec.ofNat 8 (s.hub.swatch[l.1]).foundBits, done := true, running := false }) })

theorem State.endSwatch_swatch (s : State) (l : Fin 128) : (s.endSwatch l).hub.swatch[l.1] =
    { s.hub.swatch[l.1] with pass := BitVec.ofNat 8 (s.hub.swatch[l.1]).foundBits, done := true, running := false } :=
  vmod_same _ l _

/-- A test that is running on a slice that is awake ends; its event is raised when it ran and an effort failed. -/
theorem exec_swatchDone {s : State} {l : Fin 128} {n : Fin 132} (hp : s.phase = .ready) (hn : s.physOf l.1 = some n)
    (hr : (s.hub.swatch[l.1]).running = true) (ha : (s.slice n).awake = true) :
    exec (.swatchDone l) s = .next (if (s.hub.swatch[l.1]).skipped ∨ swatchBits = 255 then s.endSwatch l
      else (s.endSwatch l).raise 0x9016 none n.1 l.1 swatchBits) := by
  change execSwatchDone l s = _
  simp only [execSwatchDone, hn, State.live, hp, hr, ha, State.endSwatch, Swatch.foundBits]
  generalize swatchBits = bits
  cases hs : (s.hub.swatch[l.1]).skipped <;> simp

theorem swatchDone_ends {s : State} {l : Fin 128} {n : Fin 132} (hp : s.phase = .ready) (hn : s.physOf l.1 = some n)
    (hr : (s.hub.swatch[l.1]).running = true) (ha : (s.slice n).awake = true) :
    ∃ t, exec (.swatchDone l) s = .next t ∧ t.hub.swatch = (s.endSwatch l).hub.swatch ∧
      t.hub.counters.events = (if (s.hub.swatch[l.1]).skipped ∨ ∀ e : Fin 8, swatchPass e.1 = true then s.hub.counters.events
        else bump 0x9016 1 s.hub.counters.events) ∧
      ((s.hub.swatch[l.1]).skipped = true → t.hub.log = s.hub.log) ∧
      t.slices = s.slices ∧ t.ctxs = s.ctxs ∧ s.sameStores t := by
  have hall := or_congr_right (a := (s.hub.swatch[l.1]).skipped = true) swatchBits_eq_255_iff
  have he := exec_swatchDone hp hn hr ha
  by_cases hq : (s.hub.swatch[l.1]).skipped = true ∨ swatchBits = 255
  · rw [if_pos hq] at he
    exact ⟨_, he, rfl, (if_pos (hall.mp hq)).symm, fun _ => rfl, rfl, rfl, State.sameStores_refl.modHub _⟩
  · rw [if_neg hq] at he
    exact ⟨_, he, rfl, (if_neg (mt hall.mpr hq)).symm, fun hs => absurd (.inl hs) hq, rfl, rfl,
      (State.sameStores_refl.modHub _).raise ..⟩

/-! ### Reading the event log (R449) -/

/-- The read of segment 1 of event_next. -/
def eventNextFrame (seq : BitVec 8) : HReq := { op := 3, seq := seq.toNat, idx := 0x9000, sub := 2, seg := 1, len := 0, value := 0 }

/-- The read's effect: behind a peek the oldest entry leaves the log, and the peek is over. -/
def State.takeEvent (s : State) : State :=
  s.modHub (fun h => { h with log := if h.logPeeked then h.log.drop 1 else h.log, logPeeked := false })

theorem State.readEffect_eventNext {s : State} {seq : BitVec 8} {rot : Bool} :
    s.readEffect (eventNextFrame seq) rot = s.takeEvent := by
  cases h : s.hub.logPeeked <;> simp [State.readEffect, eventNextFrame, State.takeEvent, State.modHub, h]

theorem exec_eventNext {s : State} (hp : s.phase = .ready) (seq : BitVec 8) (rot : Bool) :
    exec (.eventNext seq rot) s = .next
      (s.takeEvent.answered (eventNextFrame seq) 0x40 (leNat (s.readBlob 0x9000 2 8 8))) := by
  have hobj : objOf s.hub.mirrorRecord.length 0x9000 2 = some ⟨.blob 16, .ro⟩ := rfl
  have hj : s.judge (eventNextFrame seq) rot = 0x40 := by
    simp [State.judge, eventNextFrame, hp, hobj, typeOk, HReq.segmented, HReq.writes, Ty.segmented]
  have hv : s.frameValue (eventNextFrame seq) = leNat (s.readBlob 0x9000 2 8 8) := by
    simp [State.frameValue, eventNextFrame, hobj]
  change Host.Outcome.next (s.hFrame (eventNextFrame seq) rot) = _
  simp only [State.hFrame, hj, hv, State.readEffect_eventNext]
  simp [hp, eventNextFrame, HReq.writes, State.answered]

/-! ### The obligation -/

/-- Settles O53: the started tests are set one slice at a time, the pass bits are the binary digits of `swatchBits`, and
the log gives up its head only behind a peek. -/
theorem swatchAndEventLog : Obligations.SwatchAndEventLog := by
  refine ⟨?starts, ?ends, ?reads⟩
  case starts =>
    intro seg v len seq rot s hp hlo hhi f hb
    have hf : f = swatchFrame seg v len seq := rfl
    clear_value f
    subst hf
    refine ⟨_, exec_swatchControl hp hlo hhi hb, State.answered_response .., (State.startSwatch_sameStores ..).answered .., ?_⟩
    simp only [State.answered_slices, State.answered_swatch, State.startSwatch_slices, State.startSwatch_swatch]
    refine ⟨trivial, fun l hl hn => ?_, fun l hl n hn => ?_, fun l hl => if_neg hl⟩
    · rw [if_pos hl, State.swatchAsked_of_unmapped hn]
    · rw [if_pos hl, State.swatchAsked_of_mapped hn]
  case ends =>
    intro l n s hp hn hr ha
    obtain ⟨t, he, hw, hframe⟩ := swatchDone_ends hp hn hr ha
    refine ⟨t, he, ?_, fun e => ?_, hframe⟩
    · rw [hw, State.endSwatch_swatch]
    · rw [hw, State.endSwatch_swatch, Swatch.foundBits_getLsbD]
  case reads =>
    intro seq rot s hp
    refine ⟨_, exec_eventNext hp seq rot, ?_⟩
    simp only [State.answered_ctxs, State.answered_slices, State.answered_log, State.answered_logPeeked, State.answered_counters,
      State.answered_response]
    exact ⟨rfl, rfl, rfl, rfl, rfl, rfl, (State.sameStores_refl.modHub _).answered ..⟩

end Sys2Proof.Machine
end

section
/-! SUPPORT. Chains and grants: what DESCRIPTOR_BATCH does with a batch that is wanted, under way or there, and what SLOT_GRANT
does at the next tile of a share (R183, R227, R231, R243, R313, R327). -/
namespace Sys2Proof.Machine

variable {s : State} {x : Step}

/-! ### The next batch of a chain (R227, R231) -/

theorem State.slot_of_step? {slot : Nat} (h : s.step? slot = some x) : x.slot = slot := by
  simpa using List.find?_some h

theorem State.askBatch_of_readSlice {n : Fin 132} (base : Nat) (hn : s.readSlice x = some n) : s.askBatch x base =
    (s.post .hub (.slice n) (.nacc x.slot false base 4096 [])).modStep x.slot
      (fun y => { y with batches := (base, none) :: y.batches }) := by
  simp only [State.askBatch, hn]

/-- The chain with a batch walked through, its uncorrectable granules standing for descriptors that no check passes (R511). -/
def Chain.walkBatch (k : Chain) (base : Nat) (d : Bytes × List Nat) : Chain :=
  k.batch base (spoil d.1 (d.2.map (fun g => (g - base) / 64)))

/-- The hub's copy of a batch is given up once the chain has taken it. -/
def State.dropBatch (s : State) (x : Step) (base : Nat) : State :=
  s.modStep x.slot (fun y => { y with batches := y.batches.filter (fun b => b.1 != base) })

section
variable (role : Role) (k : Chain) (base : Nat) (d : Bytes × List Nat)

theorem State.takeBatch_of_dispatched (hp : x.phase = .dispatched) :
    s.takeBatch x role k base d = (s.dropBatch x base).growChain x role (k.walkBatch base d) := by
  simp [State.takeBatch, Step.running, hp, State.dropBatch, Chain.walkBatch]

theorem State.takeBatch_of_held (hp : x.phase = .held) :
    s.takeBatch x role k base d = (s.dropBatch x base).modStep x.slot (fun y => y.setChain role (k.walkBatch base d)) := by
  simp [State.takeBatch, Step.running, hp, State.dropBatch, Chain.walkBatch]

end

theorem Step.phase_wantsBatch (hx : x.phase = .held ∨ x.phase = .dispatched) : (x.phase == .held || x.running) = true := by
  simpa [Step.running] using hx

section
variable {slot at_ : Nat} {role : Role} {data : Bytes} {errs : List Nat} {k : Chain}
  (hp : s.phase = .ready) (hs : s.step? slot = some x) (hr : (s.roles x).contains role = true)
  (hk : s.chainOf x role = some k) (hb : s.batchAsked x role k = true) (hx : x.phase = .held ∨ x.phase = .dispatched)

include hs hk

theorem exec_descriptorBatch_waits {b : Nat}
    (hf : x.batches.find? (fun b => b.1 == k.next / 4096 * 4096) = some (b, none)) :
    exec (.descriptorBatch slot role at_ data errs) s = .next s := by
  change execDescriptorBatch slot role at_ data errs s = _
  simp only [execDescriptorBatch, hs, hk, hf, ite_self]

include hp hr hb hx

theorem exec_descriptorBatch_asks (hf : x.batches.find? (fun b => b.1 == k.next / 4096 * 4096) = none) :
    exec (.descriptorBatch slot role at_ data errs) s = .next (s.askBatch x (k.next / 4096 * 4096)) := by
  change execDescriptorBatch slot role at_ data errs s = _
  simp only [execDescriptorBatch, hs, hk, State.live, hp, Step.phase_wantsBatch hx, hr, hb, hf, beq_self_eq_true, Bool.not_true,
    Bool.or_self, Bool.false_eq_true, if_false]

theorem exec_descriptorBatch_takes {b : Nat} {d : Bytes × List Nat}
    (hf : x.batches.find? (fun b => b.1 == k.next / 4096 * 4096) = some (b, some d)) :
    exec (.descriptorBatch slot role at_ data errs) s = .next (s.takeBatch x role k (k.next / 4096 * 4096) d) := by
  change execDescriptorBatch slot role at_ data errs s = _
  simp only [execDescriptorBatch, hs, hk, State.live, hp, Step.phase_wantsBatch hx, hr, hb, hf, beq_self_eq_true, Bool.not_true,
    Bool.or_self, Bool.false_eq_true, if_false]

end

theorem descriptorBatches : Claims.DescriptorBatches := by
  intro slot role at_ data errs x k s hp hs hr hk hb
  refine ⟨fun n hx hf hn => ?asks, fun b => exec_descriptorBatch_waits hs hk, fun b d hx hf => ?grows, fun b d hx hf => ?held⟩
  case asks => rw [exec_descriptorBatch_asks hp hs hr hk hb hx hf, State.askBatch_of_readSlice _ hn]
  case grows => rw [exec_descriptorBatch_takes hp hs hr hk hb (.inr hx) hf, State.takeBatch_of_dispatched _ _ _ _ hx]; rfl
  case held =>
    obtain rfl := State.slot_of_step? hs
    rw [exec_descriptorBatch_takes hp hs hr hk hb (.inl hx) hf, State.takeBatch_of_held _ _ _ _ hx]
    rfl

/-! ### The walker at a tile (R183, R243) -/

theorem State.need_of_lacks {who : Asker} {ls : List Look} {l : Look} (c : Fin 64) (h : s.lacks who ls = some l) :
    s.need who c ls = some (s.seek who c l) := by
  simp only [State.need, h, Option.map_some]

section
variable {sl : Fin 132} {slot i n : Nat} {role : Role} {h : Share} {r : Round} {k : Chain}
  (hl : s.liveShare sl slot = some (x, h)) (hr : h.round role = some r)
  (hw : walkAt x h r = .tile i) (hk : x.chain role = some k) (hn : k.tileAt i = some n)
include hl hr hw hk hn

/-- At a tile that is wanted and whose row is on, the walker makes the next of the reads it needs first, or walks the tile. -/
theorem exec_slotGrant_reads_or_walks (hsrc : isSource role = true) (href : role = .ref → refWanted x h i = true)
    (hskip : role = .src → x.rowSkips i = false) :
    let s0 := s.modSlice sl Slice.touch
    exec (.slotGrant sl slot role) s = .next ((s0.need (.step slot) x.ctx (s0.tileLooks x role i n)).getD
      (((s0.walkTile sl x h r i n).settlePass slot).settleShare sl slot)) := by
  intro s0
  have hwanted : (role == .ref && !refWanted x h i) = false := by simpa using href
  have hon : (role == .src && x.rowSkips i) = false := by simpa using hskip
  change execSlotGrant sl slot role s = _
  simp only [execSlotGrant, hl, hsrc, hr, hw, hk, hn, hwanted, hon, if_true, Bool.false_eq_true, if_false]
  cases s0.need (.step slot) x.ctx (s0.tileLooks x role i n) <;> rfl

/-- A row that the bitmap leaves out is passed by before anything is read (R327). -/
theorem exec_slotGrant_skips (hrole : role = .src) (hskip : x.rowSkips i = true) :
    exec (.slotGrant sl slot role) s = .next
      (((((s.modSlice sl Slice.touch).advance sl slot role).progress sl slot
        (fun rep => { rep with skipped := some i, flags := { rowsSkipped := true } })).settlePass slot).settleShare sl slot) := by
  subst hrole
  change execSlotGrant sl slot .src s = _
  simp [execSlotGrant, hl, isSource, hr, hw, hk, hn, hskip]

end

theorem slotGrants : Claims.SlotGrants := by
  intro sl slot role x h r k i n s hl hsrc hr hw hk hn href
  refine ⟨fun hskip hneed => ?walks, fun l hskip hlacks => ?reads, exec_slotGrant_skips hl hr hw hk hn⟩
  case walks => rw [exec_slotGrant_reads_or_walks hl hr hw hk hn hsrc href hskip, hneed, Option.getD_none]
  case reads => rw [exec_slotGrant_reads_or_walks hl hr hw hk hn hsrc href hskip, State.need_of_lacks x.ctx hlacks, Option.getD_some]

/-- Settles O25: a wanted batch is asked for, waited for or taken; the walker reads what tells of the tile before it walks it. -/
theorem chainsAndGrants : Obligations.ChainsAndGrants := ⟨descriptorBatches, slotGrants⟩

end Sys2Proof.Machine
end

section
/-! SUPPORT. A-port input and the merge accumulator: what a beat does to the share that takes input, where a slice's oldest record
goes, and the parts of a merge-out round (R182, R206, R212, R213, R215, R218, R219, R403, R404). -/
namespace Sys2Proof.Machine

variable {s : State} {sl : Fin 132} {x : Step} {h : Share}

/-! ### A beat on the A-port (R403, R404) -/

/-- The slice awake and the beat's cycle counted. -/
def State.beatTaken (s : State) (sl : Fin 132) : State := (s.modSlice sl Slice.touch).spend 1 1

/-- The valid records of a scatter beat taken, in order (R212, R213). -/
def State.recordsTaken (s : State) (sl : Fin 132) (x : Step) (b : ABeat) : State :=
  (s.beatTaken sl).each (beatRecords b) (fun t r => t.takeRecord sl x.slot r)

/-- The beats held with a scatter beat that has given up its records. -/
def State.heldBeats (s : State) (sl : Fin 132) (b : ABeat) : List ABeat := (s.slice sl).aIn ++ [{ b with data := [], pos := [] }]

section
variable {b : ABeat} {h0 : Share} {s1 : State} (hin : s.inputShare sl = some (x, h0))
  (hpass : s1 = s.passAbsent sl x.slot (shareLength x (some h0))) (hh : (s1.slice sl).share x.slot = some h)
include hin hpass hh

/-- The beat finds the absent tiles before its own passed by, and the share as it then is. -/
theorem exec_aBeat_asks {a : Nat} (ha : x.beatAsks h b = some a) : exec (.aBeat sl b) s = .next (s1.ask x.slot a) := by
  change execABeat sl b s = _
  simp only [execABeat, hin, ← hpass, hh, Option.getD_some, ha]

theorem exec_aBeat_waits (ha : x.beatAsks h b = none) (hr : s1.aReady sl x h b = false) : exec (.aBeat sl b) s = .next s1 := by
  change execABeat sl b s = _
  simp only [execABeat, hin, ← hpass, hh, Option.getD_some, ha, hr, Bool.not_false, if_true]

/-- What a beat does that the slice is ready for, by the kind of its share and by whether it ends its tile or group. -/
theorem exec_aBeat_ready (ha : x.beatAsks h b = none) (hr : s1.aReady sl x h b = true) : exec (.aBeat sl b) s = .next
    (if h.kind = .scatter then
      if b.last then (s1.recordsTaken sl x b).pushDone sl x (s1.heldBeats sl b)
        (decide ((s1.recordsTaken sl x b).recordsIn x.slot ≥ recordsOf x.words))
      else (s1.recordsTaken sl x b).modSlice sl (fun y => { y with aIn := s1.heldBeats sl b })
    else
      if b.last then (s1.beatTaken sl).takeInput sl x ((s1.slice sl).aIn ++ [b])
      else (s1.beatTaken sl).modSlice sl (fun y => { y with aIn := (s1.slice sl).aIn ++ [b] })) := by
  change execABeat sl b s = _
  simp only [execABeat, hin, ← hpass, hh, Option.getD_some, ha, hr, Bool.not_true, Bool.false_eq_true, if_false, beq_iff_eq]
  split <;> split <;> rfl

end

theorem aBeats : Claims.ABeats := by
  intro sl b x h0 h s s1 hin hpass hh
  refine ⟨fun _ => exec_aBeat_asks hin hpass hh, exec_aBeat_waits hin hpass hh, fun ha hr => ?_⟩
  rw [exec_aBeat_ready hin hpass hh ha hr]
  refine ⟨fun hk hb => ?joins, fun hk hb => ?endsTile, fun hk hb => ?scatters, fun hk hb => ?endsGroup⟩
  case joins => rw [if_neg hk, if_neg (ne_true_of_eq_false hb)]; rfl
  case endsTile => rw [if_neg hk, if_pos hb]; rfl
  case scatters => rw [if_pos hk, if_neg (ne_true_of_eq_false hb)]; rfl
  case endsGroup => rw [if_pos hk, if_pos hb]; rfl

/-! ### The oldest record of a slice (R213, R218) -/

theorem exec_scatterRecord_of_nil (hr : (s.slice sl).records = []) : exec (.scatterRecord sl) s = .next (s.goSpilling sl) := by
  change execScatterRecord sl s = _
  simp only [execScatterRecord, hr]

section
variable {slot : Nat} {r : Nat × List Nat × Bool} {rest : List (Nat × Nat × List Nat × Bool)} {g : Share}
  (hr : (s.slice sl).records = (slot, r) :: rest)
include hr

/-- A record is hashed while the spill buffer has room for what it may push out. -/
theorem exec_scatterRecord_of_live (hl : s.liveShare sl slot = some (x, h)) (hg : (s.slice sl).share slot = some g) :
    exec (.scatterRecord sl) s = .next
      ((if (s.slice sl).spillsHeld < 64 then (s.modSlice sl (fun y => { y with records := rest })).hashRecord sl x r
        else s).goSpilling sl) := by
  change execScatterRecord sl s = _
  simp only [execScatterRecord, hr, hg, hl, Option.isNone_some, Bool.false_eq_true, if_false, ← Nat.not_lt, ite_not]

theorem exec_scatterRecord_of_share_none (hg : (s.slice sl).share slot = none) :
    exec (.scatterRecord sl) s = .next ((s.modSlice sl (fun y => { y with records := rest })).goSpilling sl) := by
  change execScatterRecord sl s = _
  simp only [execScatterRecord, hr, hg, Option.isNone_none, if_true]

end

theorem State.goSpilling_of_first {h g : Share}
    (hf : (s.slice sl).shares.find? (fun k => k.kind == .scatter && !k.reported && !k.inDone) = some h)
    (hl : s.liveShare sl h.slot = some (x, g)) :
    s.goSpilling sl = (s.spillNext sl h.slot false false).finishScatters h.slot := by
  simp only [State.goSpilling, Slice.spiller, hf, Option.map_some, hl]

/-! ### A merge-out round (R219 to R222) -/

theorem State.mergeMayBegin_of_allShares (hn : (s.sharesOf x.slot).length = x.slices.length) (hd : x.doneShares = [])
    (hg : ∀ g ∈ s.sharesOf x.slot,
      (if g.j < h.j then h.inPos + 1 else h.inPos) ≤ g.inPos ∧ g.out = [] ∧ g.spillHeld = []) :
    s.mergeMayBegin x h = true := by
  simpa [State.mergeMayBegin, hn, hd, and_assoc] using hg

section
variable {h0 : Share} {o : AccSet}
  (hf : (s.slice sl).shares.find? (fun k => k.kind == .mergeOut && !k.reported && !k.inDone) = some h0)
  (hl : s.liveShare sl h0.slot = some (x, h)) (hs : h.stop = none) (hm : x.miss = none) (ho : s.ownerOf sl x = some o)
include hf hl hs hm ho

theorem exec_mergeOutRound_begins (hw : h.merge = none) (hlost : x.setLost = true → h.inPos = 0)
    (hb : s.mergeMayBegin x h = true) : exec (.mergeOutRound sl) s = .next (s.modShare sl x.slot (fun g =>
      { g with merge := some { bank := s.bank sl x, pos := 0, refused := [], discarded := 0, tiles := none } })) := by
  have hset : (x.setLost && h.inPos != 0) = false := by simpa using hlost
  change execMergeOutRound sl s = _
  simp [execMergeOutRound, hf, hl, hs, hm, ho, hw, hset, hb]

section
variable {w : MergeWork} (hw : h.merge = some w)
include hw

theorem exec_mergeOutRound_reads (ht : w.tiles = none) : exec (.mergeOutRound sl) s = .next (s.mergeRead sl x h o w) := by
  change execMergeOutRound sl s = _
  simp [execMergeOutRound, hf, hl, hs, hm, ho, hw, ht]

/-- The refused records go to spill_b before any table tile is written. -/
theorem exec_mergeOutRound_spills (ht : w.tiles ≠ none) (hsp : h.spillHeld ≠ []) :
    exec (.mergeOutRound sl) s = .next (s.spillNext sl x.slot true true) := by
  obtain ⟨ks, ht⟩ := Option.ne_none_iff_exists'.1 ht
  change execMergeOutRound sl s = _
  simp [execMergeOutRound, hf, hl, hs, hm, ho, hw, ht, hsp]

theorem exec_mergeOutRound_writes {k : Nat} {ks : List Nat} (ht : w.tiles = some (k :: ks)) (hsp : h.spillHeld = []) :
    exec (.mergeOutRound sl) s = .next (s.mergeWrite sl x h k) := by
  change execMergeOutRound sl s = _
  simp [execMergeOutRound, hf, hl, hs, hm, ho, hw, ht, hsp]

theorem exec_mergeOutRound_ends (ht : w.tiles = some []) (hsp : h.spillHeld = []) :
    exec (.mergeOutRound sl) s = .next (s.mergeEnd sl x h o) := by
  change execMergeOutRound sl s = _
  simp [execMergeOutRound, hf, hl, hs, hm, ho, hw, ht, hsp]

end

end

theorem accumulation : Claims.Accumulation := by
  refine ⟨fun sl slot r rest s hr => ⟨fun x g hl hg => ⟨fun hroom => ?hashes, fun hfull => ?full⟩,
    exec_scatterRecord_of_share_none hr⟩, fun _ _ => exec_scatterRecord_of_nil, fun _ _ _ _ _ => State.goSpilling_of_first,
    fun sl h0 h x o s hf hl hs hm ho => ⟨fun hw hlost hn hd hg => ?begins, fun w hw => ?works⟩⟩
  case hashes => rw [exec_scatterRecord_of_live hr hl hg, if_pos hroom]
  case full => rw [exec_scatterRecord_of_live hr hl hg, if_neg (Nat.not_lt.2 hfull)]
  case begins => exact exec_mergeOutRound_begins hf hl hs hm ho hw hlost (State.mergeMayBegin_of_allShares hn hd hg)
  case works =>
    exact ⟨exec_mergeOutRound_reads hf hl hs hm ho hw, exec_mergeOutRound_spills hf hl hs hm ho hw,
      fun _ _ => exec_mergeOutRound_writes hf hl hs hm ho hw, exec_mergeOutRound_ends hf hl hs hm ho hw⟩

/-- Settles O36: a beat meets the share behind the absent tiles; a slice's record is hashed unless its spill buffer is full; a
round begins when no other slice's work on the step can still be missing, and has four parts. -/
theorem inputAndAccumulation : Obligations.InputAndAccumulation := ⟨aBeats, accumulation⟩

end Sys2Proof.Machine
end

section
/-! SUPPORT. The dispatch of a step row, and the persistent stream after CAST_ON, REBASE, RECHAIN and TEARDOWN (R236 to R240,
Table 07-2). -/
namespace Sys2Proof.Machine

/-! ### A step that is dispatched (R273, R278) -/

/-- A step that binds no slice is dispatched to none; any other to the slices it takes, when no step outranks it there. -/
def State.dispatchesTo (s : State) (x : Step) (ls : List Nat) : Prop :=
  if (x.op.getD .nop).noSlice then ls = [] else s.pickSlices x = some ls ∧ s.outranked x ls = false

theorem State.tryStep_of_dispatches {s : State} {x : Step} {slot : Nat} {mine : Step → Bool}
    {go : State → Step → List Nat → State} {ls : List Nat} (hs : s.step? slot = some x) (hm : mine x = true)
    (he : s.eligible x = true) (hb : s.behind x = false)
    (hv : s.verdict x = .go) (hd : s.dispatches x = true) (hls : s.dispatchesTo x ls) :
    s.tryStep slot mine go = go (s.makeReady x) x ls := by
  unfold State.dispatchesTo at hls
  split at hls
  next hn => simp [State.tryStep, hs, hm, he, hb, hv, hd, hn, hls]
  next hn =>
    obtain ⟨hpick, hrank⟩ := hls
    simp [State.tryStep, hs, hm, he, hb, hv, hd, hn, hpick, hrank]

/-- A row that tries its step dispatches it as the row says. -/
theorem dispatchesAs_of_tryStep {row : Nat → Instr} {mine : Step → Bool} {go : State → Step → List Nat → State}
    (h : ∀ slot s, exec (row slot) s = .next (s.tryStep slot mine go)) : DispatchesAs row mine go := by
  intro slot x ls s hs hm he hb hv hd hls
  rw [h, State.tryStep_of_dispatches hs hm he hb hv hd hls]

/-! ### The stream of a step -/

section
variable (s : State) (x : Step)

/-- A change of a step's stream is what the step then finds there. -/
@[simp] theorem State.modStream_stream (f : PStream → PStream) : (s.modStream x f).stream x = f (s.stream x) := by
  simp only [State.stream, State.modStream, State.modCtx_same, vmod_same]

@[simp] theorem State.modStep_stream (slot : Nat) (f : Step → Step) : (s.modStep slot f).stream x = s.stream x := rfl

@[simp] theorem State.markDispatched_stream (y : Step) (ls : List Nat) : (s.markDispatched y ls).stream x = s.stream x := rfl

theorem State.goCastOn_stream {s : State} {x : Step} {ch : Chain} (ls : List Nat) (hop : x.op = some .castOn)
    (hc : s.maskedChain x .src = some ch) : (s.goCastOn x ls).stream x =
      { state := .armed, compress := wordBit x.words 6 0, word := streamWord x.words 4, chain := ch, mask := maskWord x.words 5
        depth := roundDepth .castOn x.words, slices := ls, weightKey := x.head.weightKey, weightSlot := x.head.weightSlot
        passSlots := [] } := by
  simp only [State.goCastOn, hc, hop, State.modStep_stream, State.modStream_stream]

theorem State.goRebase_stream : (s.goRebase x []).stream x =
    PStream.remask { s.stream x with chain := ((s.stream x).chain.rebased (recastOffset x)).getD (s.stream x).chain } x := by
  simp only [State.goRebase, State.modStream_stream, State.markDispatched_stream]

theorem State.goRechain_stream : (s.goRechain x []).stream x =
    PStream.remask { s.stream x with chain := (s.chainOf x .src).getD (s.stream x).chain } x := by
  simp only [State.goRechain, State.modStream_stream, State.markDispatched_stream]

theorem State.goTeardown_stream : (s.goTeardown x []).stream x = PStream.free := by
  simp only [State.goTeardown, State.modStream_stream]

end

/-- Settles O23: the four rows try their step, and each changes the stream of its step last. -/
theorem streamStepsDispatch : Obligations.StreamStepsDispatch :=
  ⟨dispatchesAs_of_tryStep fun _ _ => rfl, dispatchesAs_of_tryStep fun _ _ => rfl, dispatchesAs_of_tryStep fun _ _ => rfl,
    dispatchesAs_of_tryStep fun _ _ => rfl, fun _ ls _ _ => State.goCastOn_stream ls, fun x s => s.goRebase_stream x,
    fun x s => s.goRechain_stream x, fun x s => s.goTeardown_stream x⟩

end Sys2Proof.Machine
end

section
/-! SUPPORT. FETCH, GRANT, WRITE and COPY_ON_WRITE_DONE at a memory station: the reads each makes first, and what it does once they
have come (R243, R299, R310, R314, R355, R356). -/
namespace Sys2Proof.Machine

variable {s t : State} {ms : Fin 12}

/-! ### A fetch (R299, R301) -/

/-- The state in which a station serves a fetch: what a peer's fetch has read is forgotten, a step's stays for the step. -/
def State.fetchReady (s t : State) (ms : Fin 12) (f : FetchRec) : State :=
  if f.remoteFor.isSome then t.forgetLooks f.asker (s.fetchLooks ms f) else t

section
variable {src : UnitId} {f : FetchRec} (h : s.recvTxn src (.ms ms) 0x01 = some (.fetch f, t))
include h

theorem exec_fetch_reads {l : Look} (hl : s.lacks f.asker (s.fetchLooks ms f) = some l) :
    exec (.fetch ms src) s = .next (s.seek f.asker f.ctx l) := by
  change execFetch ms src s = _
  simp only [execFetch, h, State.need_of_lacks f.ctx hl]

theorem exec_fetch_carried {l : Leaf} (hn : s.need f.asker f.ctx (s.fetchLooks ms f) = none) (hf : f.leaf = some l) :
    exec (.fetch ms src) s = .next ((s.fetchReady t ms f).serveTile ms f l) := by
  change execFetch ms src s = _
  simp only [execFetch, h, hn, hf, State.fetchReady]

theorem exec_fetch_walks {l : Leaf} {node addr : Nat} (hn : s.need f.asker f.ctx (s.fetchLooks ms f) = none) (hf : f.leaf = none)
    (hw : (s.fetchReady t ms f).walk f.ctx (f.tileNo / 16) = .leaf l node addr) :
    exec (.fetch ms src) s = .next ((s.fetchReady t ms f).resolved ms f l) := by
  rw [State.fetchReady] at hw
  change execFetch ms src s = _
  simp only [execFetch, h, hn, hf, State.walked, hw, State.fetchReady]

end

/-! ### A grant (R243) -/

section
variable {m : Fin 12} {src : Fin 132} {slot pos : Nat} {r : Role}
  (h : s.recvTxn (.slice src) (.ms m) 0x02 = some (.grant slot r pos, t))
include h

/-- A grant joins the station's, and the tiles the station holds whole go out. -/
theorem exec_grant_joins (hk : t.grantTarget m src slot r pos = none) : exec (.grant (.ms m) src) s = .next
    (let u := t.modStation m (fun x => { x with grants := x.grants ++ [(src, slot, r, pos)] })
     ((u.station m).jobs.filter (fun j => j.tile.isSome)).foldl (fun w j => w.forward m j.id) u) := by
  change execGrant (.ms m) src s = _
  simp only [execGrant, h, hk, State.each]

theorem exec_grant_follows {k : Fin 12} (hk : t.grantTarget m src slot r pos = some k) :
    exec (.grant (.ms m) src) s = .next (t.post (.slice src) (.ms k) (.grant slot r pos)) := by
  change execGrant (.ms m) src s = _
  simp only [execGrant, h, hk]

end

theorem fetchAndGrant : Claims.FetchAndGrant :=
  ⟨fun _ _ _ _ _ _ h => exec_fetch_carried h, fun _ _ _ _ _ _ _ _ h => exec_fetch_walks h,
    fun _ _ _ _ _ _ h => exec_fetch_reads h, fun _ _ _ _ _ _ _ h => ⟨exec_grant_joins h, fun _ => exec_grant_follows h⟩⟩

/-! ### A write (R310, R314, R355) -/

section
variable {src : UnitId} {w : WriteRec} (h : s.recvTxn src (.ms ms) 0x03 = some (.write w, t)) (hwait : t.writeWaits ms w = false)
include h hwait

theorem exec_write_home (hl : w.leaf = none) (hn : s.need (.step w.slot) w.ctx (s.homeLooks ms w) = none) :
    exec (.write ms src) s = .next (t.homeWrite ms w) := by
  change execWrite ms src s = _
  simp [execWrite, h, hl, hn, hwait]

theorem exec_write_accepts {l : Leaf} {lay : Layout} (hl : w.leaf = some l)
    (hn : s.need (.step w.slot) w.ctx (s.storeLooks ms w l) = none) (hlay : Layout.ofCode l.layout = some lay) :
    exec (.write ms src) s = .next (t.acceptWrite ms w l lay).wakeItems := by
  change execWrite ms src s = _
  simp [execWrite, h, hl, hn, hwait, hlay]

end

/-! ### The writes held for a page (R310, R311, R333) -/

section
variable {w : WriteRec} {ws : List WriteRec} {l : Leaf} {node addr : Nat} (hp : s.phase = .ready) (hup : s.stationUp ms = true)
  (hheld : (s.station ms).heldWrites = w :: ws)
  (hn : s.need (.step w.slot) w.ctx (s.copyLooks [] w.ctx (w.tileNo / 16)) = none)
  (hw : s.walk w.ctx (w.tileNo / 16) = .leaf l node addr)
include hp hup hheld hn hw

/-- A page that has become its writers' own has nothing left to be copied. -/
theorem exec_copyOnWriteDone_own (hl : l.mustChange = false) :
    exec (.copyOnWriteDone ms) s = .next (s.releaseHeld ms w.ctx (w.tileNo / 16)) := by
  change execCopyOnWriteDone ms s = _
  simp [execCopyOnWriteDone, State.live, hp, hup, hheld, hn, hw, hl]

theorem exec_copyOnWriteDone_copied {n : Opened} (hl : l.mustChange = true)
    (hc : (if l.demoted then s.promote [] w.ctx (w.tileNo / 16) l node addr
      else s.copyOnWrite [] w.ctx (w.tileNo / 16) l node addr) = .done t n) :
    exec (.copyOnWriteDone ms) s = .next (t.releaseHeld ms w.ctx (w.tileNo / 16)) := by
  change execCopyOnWriteDone ms s = _
  simp [execCopyOnWriteDone, State.live, hp, hup, hheld, hn, hw, hl, hc]

end

theorem tileWrites : Claims.TileWrites :=
  ⟨fun _ _ _ _ _ h hwait => ⟨exec_write_home h hwait, fun _ _ hl hn => exec_write_accepts h hwait hl hn⟩,
    fun _ _ _ _ _ _ _ hp hup hheld hn hw =>
      ⟨exec_copyOnWriteDone_own hp hup hheld hn hw, fun _ _ => exec_copyOnWriteDone_copied hp hup hheld hn hw⟩⟩

/-- Settles O26: each row makes the reads it lacks, one by one, and has its effect once none is lacking. -/
theorem stationTransactions : Obligations.StationTransactions := ⟨fetchAndGrant, tileWrites⟩

end Sys2Proof.Machine
end

section
/-! SUPPORT. M_REQUEST_ISSUE and MERGE_CLOSE_TIMEOUT: which request of a class is next, what it needs, and what its issue does
(R234, R235, R285, R286, R359, R385). -/
namespace Sys2Proof.Machine

/-! ### The order of the requests of a class (R235, R285, R359) -/

section
variable {others : List MReq} {b q : MReq} (h : MReq.before others b q = false)
include h

/-- Of one class and alike in whether they yield, the older one goes first. -/
theorem MReq.order_le_of_same_class (hc : b.cls = q.cls) (hy : b.yields others = q.yields others) : q.order ≤ b.order := by
  simp only [MReq.before, hc, hy, Bool.or_eq_false_iff] at h
  simpa using h.2

/-- Requests for the same bytes, one of them a write, go in the order of their acceptance. -/
theorem MReq.order_le_of_overlaps (hwr : b.wr = true ∨ q.wr = true) (ho : b.overlaps q = true) : q.order ≤ b.order := by
  have hwr' : (b.wr || q.wr) = true := by simpa using hwr
  by_contra hlt
  have hne : b.order ≠ q.order := by omega
  simp [MReq.before, MReq.conflicts, hwr', ho, hne, Nat.lt_of_not_le hlt] at h

/-- A request that yields is behind one of its class that does not. -/
theorem MReq.not_yields_of_same_class (hc : b.cls = q.cls) (hb : b.yields others = false) : q.yields others = false := by
  by_contra hy
  simp [MReq.before, hc, hb, hy] at h

end

theorem MReq.not_yields_of_not_sweep {q : MReq} (others : List MReq) (h : q.sweep = false) : q.yields others = false := by
  simp [MReq.yields, h]

/-- The next request of a class is a closed one of the class that no request of the station goes before. -/
theorem Station.nextIssue_some {x : Station} {cls : ReqClass} {q : MReq} (h : x.nextIssue cls = some q) :
    q ∈ x.closed ∧ q.cls = cls ∧ ∀ b ∈ x.opens ++ x.closed, MReq.before (x.opens ++ x.closed) b q = false := by
  have hfirst := List.find?_some h
  simp only [Bool.and_eq_true, beq_iff_eq, Bool.not_eq_true', List.any_eq_false, Bool.not_eq_true] at hfirst
  exact ⟨List.mem_of_find?_eq_some h, hfirst⟩

/-! ### The issue of a request (R285, R286, R385, R387) -/

/-- The request leaves the closed ones of its station, pays its bytes and takes a window entry. -/
def Station.issue (y : Station) (cls : ReqClass) (q : MReq) (id : Nat) : Station :=
  { (y.pay cls (Int.ofNat (q.bytes * 15360))) with
    closed := y.closed.erase q, window := y.window ++ [{ id := id, req := q, got := 0, data := [], bad := [] }] }

/-- Window entries of a class that its requests hold, scrub units apart. -/
def Station.windowUsed (x : Station) (cls : ReqClass) : Nat :=
  (x.window.filter (fun o => o.req.cls == cls && !o.req.scrub)).length

section
variable {s : State} {ms : Fin 12} {cls : ReqClass} {wr : Bool} {q : MReq}

/-- A write whose granules are being read waits until they have come (R385). -/
theorem exec_mRequestIssue_filling (hq : (s.station ms).nextIssue cls = some q) (hf : q.fill ≠ none) :
    exec (.mRequestIssue ms cls wr) s = .next s := by
  have hfill : q.fill.isSome = true := Option.isSome_iff_ne_none.2 hf
  change execMRequestIssue ms cls wr s = _
  simp only [execMRequestIssue, hq]
  cases freeId 512 ((s.station ms).window.map (·.id)) <;>
    simp only [hfill, Bool.or_true, Bool.true_or, if_true, ite_self]

section
variable {id : Nat} (hp : s.phase = .ready) (hup : s.stationUp ms = true) (ho : (s.station ms).mVer.isOpen = true)
  (hq : (s.station ms).nextIssue cls = some q) (hwr : q.wr = wr) (hf : q.fill = none)
  (hid : freeId 512 ((s.station ms).window.map (·.id)) = some id)
  (hcredit : Int.ofNat (q.bytes * 15360) ≤ (s.station ms).credit cls) (hroom : (s.station ms).windowUsed cls < s.windowOf ms cls)
include hp hup ho hq hwr hf hid hcredit hroom

/-- A request with credit and a window entry is issued, unless it is a write that has granules read first. -/
theorem exec_mRequestIssue_ready : exec (.mRequestIssue ms cls wr) s = .next
    (if q.wr && (s.station ms).mVer == .agreed 2 && !q.partials.isEmpty then s.fillWrite ms q
      else (s.modStation ms (fun y => y.issue cls q id)).mSent ms q) := by
  have hpays : ¬ (s.station ms).credit cls < Int.ofNat (q.bytes * 15360) := Int.not_lt.2 hcredit
  have hfits : ¬ s.windowOf ms cls ≤ (s.station ms).windowUsed cls := Nat.not_le.2 hroom
  simp only [Station.windowUsed] at hfits
  change execMRequestIssue ms cls wr s = _
  simp only [execMRequestIssue, State.live, hp, hup, ho, hq, hid, hwr, hf, MOut.isScrub, hpays, hfits, beq_self_eq_true,
    bne_self_eq_false, Bool.not_true, Option.isSome_none, decide_false, Bool.or_self, Bool.false_eq_true, if_false]
  split <;> rfl

theorem exec_mRequestIssue_fills (hw : wr = true) (hv : (s.station ms).mVer = .agreed 2) (hpart : q.partials ≠ []) :
    exec (.mRequestIssue ms cls wr) s = .next (s.fillWrite ms q) := by
  have hfills : (q.wr && (s.station ms).mVer == .agreed 2 && !q.partials.isEmpty) = true := by simp [hwr, hw, hv, hpart]
  rw [exec_mRequestIssue_ready hp hup ho hq hwr hf hid hcredit hroom, if_pos hfills]

/-- The issued request's data beats follow when it is a write. -/
theorem exec_mRequestIssue_issues (hw : wr = false ∨ (s.station ms).mVer ≠ .agreed 2 ∨ q.partials = []) :
    let t := s.modStation ms (fun y => y.issue cls q id)
    exec (.mRequestIssue ms cls wr) s = .next
      (if wr then (t.modStation ms (fun x => { x with mWd := q.beats })).spend 2 q.beats.length else t) := by
  have hwhole : ¬ (q.wr && (s.station ms).mVer == .agreed 2 && !q.partials.isEmpty) = true := by
    simpa [hwr, or_iff_not_imp_left] using hw
  rw [exec_mRequestIssue_ready hp hup ho hq hwr hf hid hcredit hroom, if_neg hwhole, State.mSent, hwr]

end

end

theorem exec_mergeCloseTimeout_closes {s : State} {ms : Fin 12} {cls : ReqClass} {wr : Bool} (hp : s.phase = .ready)
    (hup : s.stationUp ms = true) : exec (.mergeCloseTimeout ms cls wr) s = .next
      (s.modStation ms (fun x => x.closeOpens (fun q => q.cls == cls && q.wr == wr))) := by
  change execMergeCloseTimeout ms cls wr s = _
  simp [execMergeCloseTimeout, State.live, hp, hup]

/-- Settles O28: the next request is one that no other goes before, and with credit and a window entry it is filled or issued. -/
theorem requestIssue : Obligations.RequestIssue := by
  refine ⟨fun ms cls wr q id s hp hup ho hq hwr => ⟨?filling, fun hf hid hcredit hroom => ⟨?fills, ?issues⟩⟩,
    fun x cls q hq => ?order, fun _ _ _ _ => exec_mergeCloseTimeout_closes⟩
  case filling => exact exec_mRequestIssue_filling hq
  case fills => exact exec_mRequestIssue_fills hp hup ho hq hwr hf hid hcredit hroom
  case issues => exact exec_mRequestIssue_issues hp hup ho hq hwr hf hid hcredit hroom
  case order =>
    obtain ⟨hmem, rfl, hfirst⟩ := Station.nextIssue_some hq
    refine ⟨hmem, rfl, fun b hb => ⟨fun hs hc hbs => ?older, MReq.order_le_of_overlaps (hfirst b hb),
      fun hc hbs => ?notYielding⟩⟩
    case older =>
      refine MReq.order_le_of_same_class (hfirst b hb) hc ?_
      rw [MReq.not_yields_of_not_sweep _ hs, MReq.not_yields_of_not_sweep _ hbs]
    case notYielding => exact MReq.not_yields_of_same_class (hfirst b hb) hc (MReq.not_yields_of_not_sweep _ hbs)

end Sys2Proof.Machine
end

section
/-! SUPPORT. The D-port of an awake slice: the beats of its tile, the holder queues and the frogged markers (R252, R255, R313, R397,
R399, R401, R404). -/
namespace Sys2Proof.Machine

section
variable {s : State} {sl : Fin 132} (hp : s.phase = .ready) (ha : (s.slice sl).awake = true)
include hp ha

/-! ### The tile on the D-port (R397, R401) -/

section
variable {d : DTile} (hd : (s.slice sl).sending = some d)
include hd

theorem exec_dBeat_transfers (hmore : d.sent + 1 < d.beats.length) : exec (.dBeat sl) s = .next
    ((s.modSlice sl (fun y => { y with sending := some { d with sent := d.sent + 1 } })).spend 0 1) := by
  change execDBeat sl s = _
  simp [execDBeat, hd, State.live, hp, ha, hmore]

theorem exec_dBeat_delivers (hlast : d.beats.length ≤ d.sent + 1) (hroom : (s.slice sl).dFull.length < 16) :
    exec (.dBeat sl) s = .next ((s.finishTile sl d).spend 0 1) := by
  change execDBeat sl s = _
  simp [execDBeat, hd, State.live, hp, ha, Nat.not_lt.2 hlast, holderDepth, Nat.not_le.2 hroom]

/-- The last beat waits for a place in D-full (assumption 62). -/
theorem exec_dBeat_waits (hlast : d.beats.length ≤ d.sent + 1) (hfull : 16 ≤ (s.slice sl).dFull.length) :
    exec (.dBeat sl) s = .next s := by
  change execDBeat sl s = _
  simp [execDBeat, hd, State.live, hp, ha, Nat.not_lt.2 hlast, holderDepth, hfull]

end

/-! ### The holder queues (R252, R255, R404) -/

theorem exec_dFreePush_enters (e : BitVec 64) (hroom : (s.slice sl).dFree.length < 16) : exec (.dFreePush sl e) s = .next
    (s.modSlice sl (fun y => { y with dFree := y.dFree ++ [QEntry.ofWord e.toNat] })) := by
  change execDFreePush sl e s = _
  simp [execDFreePush, State.live, hp, ha, holderDepth, hroom]

theorem exec_dFreePush_refused (e : BitVec 64) (hfull : 16 ≤ (s.slice sl).dFree.length) :
    exec (.dFreePush sl e) s = .next s := by
  change execDFreePush sl e s = _
  simp [execDFreePush, State.live, hp, ha, holderDepth, Nat.not_lt.2 hfull]

theorem exec_dFullPop : exec (.dFullPop sl) s = .next (s.modSlice sl (fun y => { y with dFull := y.dFull.drop 1 })) := by
  change execDFullPop sl s = _
  simp [execDFullPop, State.live, hp, ha]

theorem exec_aDonePop : exec (.aDonePop sl) s = .next (s.modSlice sl (fun y => { y with aDone := y.aDone.drop 1 })) := by
  change execADonePop sl s = _
  simp [execADonePop, State.live, hp, ha]

/-! ### Frogged markers (R313, R399) -/

theorem exec_frogMarker_oldest {f : FrogMark} {fs : List FrogMark} (hf : (s.slice sl).frogQ = f :: fs) :
    exec (.frogMarker sl) s = .next ((s.modSlice sl (fun y => { y with frogQ := fs })).settleShare sl f.slot) := by
  change execFrogMarker sl s = _
  simp [execFrogMarker, hf, State.live, hp, ha]

end

theorem dBeats : Claims.DBeats := fun _ _ _ hp ha hd =>
  ⟨exec_dBeat_transfers hp ha hd, exec_dBeat_delivers hp ha hd, exec_dBeat_waits hp ha hd⟩

theorem holderQueues : Claims.HolderQueues := fun _ _ hp ha =>
  ⟨exec_dFreePush_enters hp ha, exec_dFreePush_refused hp ha, exec_dFullPop hp ha, exec_aDonePop hp ha,
    fun _ _ => exec_frogMarker_oldest hp ha⟩

/-- Settles O34: the last beat and the push turn on a queue of 16 having a place; the pops and the marker take the oldest. -/
theorem dPortBeatsAndQueues : Obligations.DPortBeatsAndQueues := ⟨dBeats, holderQueues⟩

end Sys2Proof.Machine
end

section
/-! SUPPORT. The rewind marks: the two lanes of one cycle, the order of their operations and the effect of each on the share that
holds the D-port (R245, R246, R248, R249, R400). -/
namespace Sys2Proof.Machine

variable {s : State} {sl : Fin 132}

/-! ### One cycle of both lanes (R400) -/

/-- The row of an operation on lane 0. -/
def markRow (sl : Fin 132) (lanes : MarkLanes) : MarkKind → Instr
  | .setHard => .setHard sl lanes
  | .setSoft => .setSoft sl lanes
  | .rewind => .rewind sl lanes
  | .release => .release sl lanes

/-- The four rows are one cycle of both lanes. -/
theorem exec_markRow (lanes : MarkLanes) (k : MarkKind) :
    exec (markRow sl lanes k) s = .next (s.markCycle sl { kind := k, id := lanes.id } lanes.lane1) := by
  cases k <;> rfl

/-- The operations of the cycle act in order on the share that holds the D-port, which may end on them. -/
theorem exec_markRow_of_share {h : Share} (lanes : MarkLanes) (k : MarkKind) (hh : s.markShare sl = some h) :
    exec (markRow sl lanes k) s = .next (((markOrder { kind := k, id := lanes.id } lanes.lane1).foldl
      (fun t o => t.markOp sl h.slot o) s).settleShare sl h.slot) := by
  simp only [exec_markRow, State.markCycle, hh, State.each]

theorem exec_markRow_of_no_share (lanes : MarkLanes) (k : MarkKind) (hh : s.markShare sl = none) :
    exec (markRow sl lanes k) s = .next s := by
  simp only [exec_markRow, State.markCycle, hh]

/-- The place of an operation in its cycle: releases first, then rewinds, then sets. -/
def markRank (o : MarkOp) : Nat :=
  match o.kind with
  | .release => 0
  | .rewind => 1
  | .setHard | .setSoft => 2

theorem markOrder_single (a : MarkOp) : markOrder a none = [a] := by
  obtain ⟨kind, id⟩ := a
  cases kind <;> rfl

/-- Of two operations lane 1's comes first only when its place is earlier. -/
theorem markOrder_pair (a b : MarkOp) : markOrder a (some b) = if markRank b < markRank a then [b, a] else [a, b] := by
  obtain ⟨ka, ia⟩ := a
  obtain ⟨kb, ib⟩ := b
  cases ka <;> cases kb <;> rfl

/-! ### The operations (R245, R246, R248, R249) -/

section
variable {slot : Nat} {id : Fin 2} {h : Share} (hh : (s.slice sl).share slot = some h)
include hh

theorem State.markOp_rewind_of_mark {m : Mark} (hm : h.marks.find? (fun k => k.id == id) = some m) :
    s.markOp sl slot { kind := .rewind, id := id } = s.goBack sl slot m.pos := by
  simp only [State.markOp, State.rewindTo, hh, Option.bind_some, hm]

/-- A rewind to a mark that is not set is refused, and the step will complete MARK_LOST. -/
theorem State.markOp_rewind_of_no_mark (hm : h.marks.find? (fun k => k.id == id) = none) :
    s.markOp sl slot { kind := .rewind, id := id } =
      (s.modSlice sl (fun y => { y with markRefused := some id })).progress sl slot (fun r =>
        { r with conds := [{ status := 0x24, cause := 0, tile := none }], flags := { markLost := true } }) := by
  simp only [State.markOp, State.rewindTo, hh, Option.bind_some, hm]

end

/-- Settles O35: the four rows are one cycle of the lanes, whose order sorts by `markRank`; a rewind turns on its mark
being set. -/
theorem rewindMarks : Obligations.RewindMarks := by
  intro sl id lane1 s lanes
  refine ⟨fun h hh => ?cycle, fun hh => ?ignored, fun a b => ⟨markOrder_single a, markOrder_pair a b⟩,
    fun slot => ?operations⟩
  case cycle =>
    exact ⟨exec_markRow_of_share lanes .setHard hh, exec_markRow_of_share lanes .setSoft hh,
      exec_markRow_of_share lanes .rewind hh, exec_markRow_of_share lanes .release hh⟩
  case ignored =>
    exact ⟨exec_markRow_of_no_share lanes .setHard hh, exec_markRow_of_no_share lanes .setSoft hh,
      exec_markRow_of_no_share lanes .rewind hh, exec_markRow_of_no_share lanes .release hh⟩
  case operations =>
    exact ⟨rfl, rfl, rfl, fun h hh => ⟨fun m => State.markOp_rewind_of_mark hh, State.markOp_rewind_of_no_mark hh⟩⟩

end Sys2Proof.Machine
end

section
/-! SUPPORT. ATLAS, CTL, STATUS, LSEND, VERDICT and RESERVED_TRANSACTION at their receivers (R260, R300, R304, R315, R407, R413,
R421, R484). -/
namespace Sys2Proof.Machine

variable {s t : State}

/-! ### A leaf change at the leaf's home (R300, R304, R305) -/

/-- For whom the reads of a leaf change are made: its step, or once that is over the context's home station. -/
def State.leafAsker (s : State) (c : Fin 64) (slot : Nat) : Asker := if (s.step? slot).isSome then .step slot else .own c

/-- What the home must have read before the leaf changes. -/
def State.setLeafLooks (s : State) (ms : Fin 12) (c : Fin 64) (p slot : Nat) : List Look :=
  s.leafLooks (((s.step? slot).map (·.opened)).getD []) c p (s.dropLooks c ms)

section
variable {ms src : Fin 12} {c : Fin 64} {p slot : Nat} {l : Leaf}
  (h : s.recvTxn (.ms src) (.ms ms) 0x09 = some (.atlas (.setLeaf c p l slot), t))
include h

theorem exec_atlas_reads {k : Look} (hk : s.lacks (s.leafAsker c slot) (s.setLeafLooks ms c p slot) = some k) :
    exec (.atlas ms src) s = .next (s.seek (s.leafAsker c slot) c k) := by
  have hn := State.need_of_lacks c hk
  simp only [State.leafAsker, State.setLeafLooks] at hn
  change execAtlas ms src s = _
  simp only [execAtlas, h, hn, State.leafAsker]

/-- The change comes after the writes accepted before it; without any it is made. -/
theorem exec_atlas_changes (hn : s.need (s.leafAsker c slot) c (s.setLeafLooks ms c p slot) = none) :
    exec (.atlas ms src) s = .next (if s.pageHeld c p then s else (t.leafCame c p l slot).wakeItems) := by
  simp only [State.leafAsker, State.setLeafLooks] at hn
  change execAtlas ms src s = _
  simp only [execAtlas, h, hn]
  split <;> rfl

end

theorem State.leafCame_of_replaced {c : Fin 64} {p slot node addr : Nat} {old l : Leaf} {o : Opened} {b : Bool}
    (hw : s.walk c p = .leaf old node addr)
    (hr : s.replaceLeaf (((s.step? slot).map (·.opened)).getD []) c p old l node addr false = (t, o, b, true)) :
    s.leafCame c p l slot = (t.addCounts slot 1 0 0).modStep slot (fun x =>
      { x with pos := x.pos + 1, tilesDone := x.tilesDone + 1, opened := o }) := by
  simp only [State.leafCame, hw, hr, Bool.not_true, Bool.false_eq_true, if_false]

/-! ### A forwarded walk (R299, R315) -/

section
variable {ms src : Fin 12} {f : FetchRec} (h : s.recvTxn (.ms src) (.ms ms) 0x09 = some (.atlas (.walk f), t))
include h

/-- The home takes a forwarded walk as its own: it serves the fetch, or the fetch misses or fails. -/
theorem exec_atlas_walk : exec (.atlas ms src) s = .next (t.walked ms f) := by
  change execAtlas ms src s = _
  simp only [execAtlas, h, State.walked]
  cases t.walk f.ctx (f.tileNo / 16) <;> rfl

end

/-! ### Control and reports (R481, R484) -/

theorem exec_ctl_taken {dst : UnitId} {c : Control} (h : s.recvTxn .hub dst 0x08 = some (.ctl c, t)) :
    exec (.ctl dst) s = .next (t.control dst c) := by
  change execCtl dst s = _
  simp only [execCtl, h]

section
variable {src : UnitId} {r : Report} (h : s.recvTxn src .hub 0x26 = some (.status r, t))
include h

theorem exec_status_probe (hr : r.probeAnswer = true) :
    exec (.status src) s = .next (t.modHub (fun y => { y with probed := y.probed.filter (· != src) })) := by
  change execStatus src s = _
  simp only [execStatus, h, hr, if_true]

theorem exec_status_report (hr : r.probeAnswer = false) : exec (.status src) s = .next (t.takeReport r) := by
  change execStatus src s = _
  simp only [execStatus, h, hr, Bool.false_eq_true, if_false]

end

section
variable {r : Report}

theorem State.takeReport_of_progress (hl : r.lost = none) (hm : r.miss = none) :
    s.takeReport r = (s.modStep r.slot (fun x => x.take r)).settlePass r.slot := by
  simp only [State.takeReport, hl, hm]

theorem State.takeReport_of_lost {st cause i : Nat} (hl : r.lost = some (st, cause, i)) (hm : r.miss = none) :
    s.takeReport r =
      (((s.modStep r.slot (fun x => x.take r)).failTile r.slot st cause i).settleShares r.slot).settlePass r.slot := by
  simp only [State.takeReport, hl, hm]

theorem State.takeReport_of_miss {m : Miss} (hl : r.lost = none) (hm : r.miss = some m) :
    s.takeReport r = (((s.modStep r.slot (fun x => x.take r)).missTile r.slot m).settleShares r.slot).settlePass r.slot := by
  simp only [State.takeReport, hl, hm]

end

/-! ### Records for a link station's receivers (R413, R421) -/

/-- A link station gives a record to its receivers of the step. -/
def State.giveRecord (t : State) (ls : Fin 16) (slot : Nat) (r : TxRecord) : State :=
  t.modLink ls (fun x => { x with receivers := x.receivers.map (fun v => if v.slot == slot then v.accept r else v) })

/-- The other link stations that a step's receivers name. -/
def State.otherLinks (s : State) (ls : Fin 16) : Option Step → List (Fin 16)
  | some x => ((s.receiversOf x).map (·.2.1)).eraseDups.filter (· != ls)
  | none => []

section
variable {ls : Fin 16} {slot hop : Nat} {r : TxRecord} {last : Bool}

theorem exec_lsend_fromStation {src : UnitId} (h : s.recvTxn src (.ls ls) 0x04 = some (.lsend slot hop r last, t))
    (hsrc : ∀ n, src ≠ .slice n) : exec (.lsend ls src) s = .next (t.giveRecord ls slot r) := by
  change execLsend ls src s = _
  cases src with
  | slice n => exact absurd rfl (hsrc n)
  | ms | ls | hub => simp only [execLsend, h, State.giveRecord]

/-- The station that a slice's record comes to passes it on to the others and acknowledges it. -/
theorem exec_lsend_fromSlice {n : Fin 132} (h : s.recvTxn (.slice n) (.ls ls) 0x04 = some (.lsend slot hop r last, t)) :
    exec (.lsend ls (.slice n)) s = .next
      ((((t.giveRecord ls slot r).otherLinks ls (t.step? slot)).foldl
        (fun w l => w.post (.ls ls) (.ls l) (.lsend slot (hop + 1) r last)) (t.giveRecord ls slot r)).post (.ls ls) (.slice n)
        (.ack slot .dst r.chainIdx)) := by
  change execLsend ls (.slice n) s = _
  have hstep : (t.giveRecord ls slot r).step? slot = t.step? slot := rfl
  simp only [State.giveRecord] at hstep ⊢
  simp only [execLsend, h, hstep, State.each]
  cases t.step? slot <;> rfl

end

/-! ### Verdicts and reserved types (R260, R407) -/

theorem exec_verdict_slice {n : Fin 132} {src : Fin 16} {frame : Nat} {bad : Bool}
    (h : s.recvTxn (.ls src) (.slice n) 0x25 = some (.verdict frame bad, t)) :
    exec (.verdict (.slice n) src) s = .next (t.takeVerdict n src frame bad) := by
  change execVerdict (.slice n) src s = _
  simp only [execVerdict, h]

theorem exec_reservedTransaction_discards {dst : UnitId} {rx : Bool} {hdr : BitVec 128} (hp : s.phase = .ready)
    (hup : s.unitUp dst = true) (ho : (s.fVer dst).isOpen = true) (hr : typeLegal (field hdr.toNat 0 8) rx = false) :
    exec (.reservedTransaction dst rx hdr) s = .next
      (s.raise 0x900A none (unitNo dst) (field hdr.toNat 0 8) (field hdr.toNat 16 8)) := by
  change execReservedTransaction dst rx hdr s = _
  simp [execReservedTransaction, State.live, hp, hup, ho, hr]

/-- Settles O38: each row is what its receiver does with the body that `recvTxn` hands it; a leaf change first makes the reads it
lacks and lets the page's held writes by. -/
theorem controlTransactions : Obligations.ControlTransactions := by
  refine ⟨fun ms src c p slot l s t h => ⟨fun _ => exec_atlas_reads h, fun hn hheld => ?waits, fun hn hfree => ?changes⟩,
    fun _ _ _ _ _ _ _ _ _ _ _ => State.leafCame_of_replaced, fun ms src f s t h => ?walk, fun _ _ _ _ => exec_ctl_taken,
    fun src r s t h => ⟨exec_status_probe h, fun hr => ?report⟩, fun _ _ _ _ _ _ _ _ => exec_lsend_fromStation,
    fun ls n slot hop r last s t h => ?record, fun _ _ _ _ _ _ => exec_verdict_slice,
    fun _ _ _ _ => exec_reservedTransaction_discards⟩
  case waits => exact (exec_atlas_changes h hn).trans (by rw [if_pos hheld])
  case changes => exact (exec_atlas_changes h hn).trans (by rw [if_neg (Bool.eq_false_iff.1 hfree)])
  case walk =>
    rw [exec_atlas_walk h, State.walked]
    exact ⟨fun l a b hw => by rw [hw], fun level hw => by rw [hw], fun cause hw => by rw [hw], fun hw => by rw [hw]⟩
  case report =>
    rw [exec_status_report h hr]
    exact ⟨fun hl hm => by rw [State.takeReport_of_progress hl hm], fun _ _ _ hl hm => by rw [State.takeReport_of_lost hl hm],
      fun _ hl hm => by rw [State.takeReport_of_miss hl hm]⟩
  case record =>
    refine (exec_lsend_fromSlice h).trans ?_
    cases hx : t.step? slot <;> rfl

end Sys2Proof.Machine
end

section
/-! SUPPORT. The ingress FIFO of a link station: its beats into frames and the words read of them (R256 to R259, R410). -/
namespace Sys2Proof.Machine

/-! ### A received beat (R256 to R258, R410) -/

section
variable {s : State} {ls : Fin 16} (hp : s.phase = .ready) (hup : s.linkUp ls = true)
include hp hup

section
variable (ho : (s.link ls).lVer.isOpen = true) (b : LBeat)
include ho

/-- A beat goes into the open frame, whatever its first mark says; one behind which the frame is cut begins the discarding. -/
theorem exec_lRxBeat_joins {f : RxFrame} (hf : (s.link ls).openFrame = some f) : exec (.lRxBeat ls b) s = .next
    ((s.modLink ls (fun y =>
      { y with
        rx := y.rx.map (fun k => if k.number == f.number then f.take b else k)
        dropping := (f.take b).whole && !b.last })).spend 5 1) := by
  change execLRxBeat ls b s = _
  simp [execLRxBeat, State.live, hp, hup, ho, hf]

section
variable (hf : (s.link ls).openFrame = none)
include hf

/-- A beat outside any frame is discarded, and the last one ends the discarding behind a cut (assumption 12). -/
theorem exec_lRxBeat_discarded (hb : b.first = false) :
    exec (.lRxBeat ls b) s = .next (s.modLink ls (fun y => { y with dropping := y.dropping && !b.last })) := by
  change execLRxBeat ls b s = _
  simp [execLRxBeat, State.live, hp, hup, ho, hf, hb]

theorem exec_lRxBeat_opens (hb : b.first = true) (hbank : (s.link ls).bankFree (s.link ls).nextBank = true) :
    exec (.lRxBeat ls b) s = .next ((s.modLink ls (fun y =>
      { y with nextFrame := y.nextFrame + 1, dropping := false, rx := y.rx ++ [(y.newFrame b.src).take b] })).spend 5 1) := by
  change execLRxBeat ls b s = _
  simp [execLRxBeat, State.live, hp, hup, ho, hf, hb, hbank]

theorem exec_lRxBeat_notAccepted (hb : b.first = true) (hbank : (s.link ls).bankFree (s.link ls).nextBank = false) :
    exec (.lRxBeat ls b) s = .next s := by
  change execLRxBeat ls b s = _
  simp [execLRxBeat, State.live, hp, hup, ho, hf, hb, hbank]

end

end

/-! ### A word read (R257, R259) -/

theorem exec_ingressWordRead_reads {f : RxFrame} (hf : (s.link ls).rx.find? (fun k => !k.released) = some f)
    (hr : f.readable s.hub.dict.cutThrough.toNat = true) : exec (.ingressWordRead ls) s = .next
      ((s.modFrame ls f.number (fun k =>
        { k with
          wordsRead := k.wordsRead + 1
          released := (k.words.getD k.wordsRead { data := [], valid := 0, last := false }).last })).dropFrames ls) := by
  change execIngressWordRead ls s = _
  simp [execIngressWordRead, State.live, hp, hup, hf, hr]

end

/-! ### The end of a frame (R257, R258) -/

/-- A frame ends at its last beat or at the beat that fills 65,536 B. -/
theorem RxFrame.take_whole (f : RxFrame) (b : LBeat) :
    (f.take b).whole = (b.last || decide (65536 ≤ 128 * (f.beats + 1))) := by
  simp only [RxFrame.take, frameLimit, ge_iff_le]
  cases b.last <;> rfl

theorem RxFrame.take_cutShort (f : RxFrame) (b : LBeat) :
    (f.take b).cutShort = (f.cutShort || (!b.last && decide (65536 ≤ 128 * (f.beats + 1)))) := by
  simp only [RxFrame.take, frameLimit, ge_iff_le]

/-- Settles O39: a beat turns on the open frame, its first mark and the next bank; a frame is whole at its last or 512th beat. -/
theorem ingressFifo : Obligations.IngressFifo :=
  ⟨fun _ b _ hp hup ho => ⟨fun _ => exec_lRxBeat_joins hp hup ho b, exec_lRxBeat_discarded hp hup ho b,
      exec_lRxBeat_opens hp hup ho b, exec_lRxBeat_notAccepted hp hup ho b⟩,
    fun _ _ _ hp hup => exec_ingressWordRead_reads hp hup, fun f b => ⟨f.take_whole b, f.take_cutShort b⟩⟩

end Sys2Proof.Machine
end

section
/-! SUPPORT. Frames that a link station has received: the controller's verdict, DATA frames, and the requests and answers of remote
reads (R260, R329, R330, R411, R414 to R416, R420). -/
namespace Sys2Proof.Machine

variable {s : State} {ls : Fin 16} {f : RxFrame}

/-! ### The verdict and DATA frames (R260, R411, R414, R415) -/

theorem exec_frameVerdict_taken (bad : Bool) (hp : s.phase = .ready) (hup : s.linkUp ls = true)
    (ho : (s.link ls).lVer.isOpen = true) (hf : (s.link ls).rx.find? (fun k => k.verdict.isNone) = some f)
    (hw : f.whole = true) : exec (.frameVerdict ls bad) s = .next
      ((s.modFrame ls f.number (fun k => { k with verdict := some bad })).settleFrame ls f.number) := by
  change execFrameVerdict ls bad s = _
  simp [execFrameVerdict, State.live, hp, hup, ho, hf, hw]

section
variable (hf : s.frameNow ls isDataKind = some f)
include hf

theorem exec_dataFrame_taken {x : Step} (hx : s.recvFor f.header = some x) (hh : x.phase ≠ .held) :
    exec (.dataFrame ls) s = .next ((s.takeData ls f x).settleFrame ls f.number) := by
  change execDataFrame ls s = _
  simp [execDataFrame, hf, hx, hh]

/-- A frame that names no RECV is discarded once it has been read and its verdict is known (assumption 69). -/
theorem exec_dataFrame_discarded {bad : Bool} (hx : s.recvFor f.header = none) (ho : f.outcome = some bad)
    (hr : f.released = true) : exec (.dataFrame ls) s = .next (s.discardFrame ls f (bad || f.matched)) := by
  change execDataFrame ls s = _
  simp only [execDataFrame, hf, hx, ho, hr, if_true]

end

theorem dataFrames : Claims.DataFrames :=
  ⟨fun _ bad _ _ => exec_frameVerdict_taken bad,
    fun _ _ _ hf => ⟨fun _ => exec_dataFrame_taken hf, fun _ => exec_dataFrame_discarded hf⟩⟩

/-! ### Remote reads (R329, R330, R420) -/

theorem exec_rread_served (hf : s.frameAt ls (· == 2) = some f) (ho : f.outcome = some false)
    (hparse : (f.parse (s.link ls).version).2 = none) (he : f.header.dstEngine = s.ident.engineId.toNat) :
    exec (.rread ls) s = .next ((s.serveRequest ls f.header).frameDone ls f.number) := by
  change execRread ls s = _
  simp [execRread, hf, ho, hparse, he]

theorem exec_rdata_taken {r : RemoteRead} (hf : s.frameNow ls (· == 3) = some f) (hr : s.requestOf ls f.header = some r) :
    exec (.rdata ls) s = .next ((s.takeAnswer ls f r).settleFrame ls f.number) := by
  change execRdata ls s = _
  simp only [execRdata, hf, hr]

/-- The step misses with kind PEER_ABSENT at the page it asked its peer for. -/
theorem exec_absentFrame_misses {r : RemoteRead} (hf : s.frameAt ls (· == 4) = some f) (ho : f.outcome = some false)
    (hr : s.requestOf ls f.header = some r) (hparse : (f.parse (s.link ls).version).2 = none) :
    exec (.absentFrame ls) s = .next (((s.endRequest ls r).frameDone ls f.number).missFetch (.ls ls) r.fetch
      { tile := r.fetch.chainIdx, kind := 4, station := (homeOf r.fetch.ctx (r.fetch.tileNo / 16)).1, level := 0
        page := r.fetch.tileNo / 16 }) := by
  change execAbsentFrame ls s = _
  simp [execAbsentFrame, hf, ho, hr, hparse]

theorem remoteReads : Claims.RemoteReads :=
  ⟨fun _ _ _ => exec_rread_served, fun _ _ _ _ => exec_rdata_taken, fun _ _ _ _ => exec_absentFrame_misses⟩

/-- Settles O40: each row takes up the frame the station is at, by the step or request that the frame's header names. -/
theorem receivedFrames : Obligations.ReceivedFrames := ⟨dataFrames, remoteReads⟩

end Sys2Proof.Machine
end

section
/-! SUPPORT. Doorbells: the condition under which each is accepted, and what an accepted and a refused one does (R263, R336). -/
namespace Sys2Proof.Machine

section
variable {s : State} {c : Fin 64} {ring : Fin 4}

/-- R263's condition on a submission doorbell, for an OPEN context. -/
def State.AcceptsSubmission (s : State) (c : Fin 64) (ring : Fin 4) (count : BitVec 32) : Prop :=
  let k := s.ring c ring
  k.enabled = true ∧ (s.ctx c).state = .opened ∧ (count - k.tail).toNat < 2 ^ 31 ∧
    (count - k.sqHead).toNat ≤ 2 ^ k.liveSqLog2.toNat

/-- R263's condition on a completion doorbell, for an OPEN or CLOSING context. -/
def State.AcceptsCompletion (s : State) (c : Fin 64) (ring : Fin 4) (count : BitVec 32) : Prop :=
  let k := s.ring c ring
  s.cqInUse c ring = true ∧ ((s.ctx c).state = .opened ∨ (s.ctx c).state = .closing) ∧
    (count - k.consumed).toNat < 2 ^ 31 ∧ (k.cqTail - count).toNat ≤ k.cqEntries

variable (count : BitVec 32) (ho : s.cOpen = true)
include ho

theorem exec_submissionDoorbell_accepted (h : s.AcceptsSubmission c ring count) :
    exec (.submissionDoorbell c ring count) s = .next (s.modRing c ring (fun q => { q with tail := count })) := by
  change execSubmissionDoorbell c ring count s = _
  unfold execSubmissionDoorbell
  rw [ho, if_neg (by decide)]
  exact if_pos (by simpa [State.AcceptsSubmission, and_assoc] using h)

theorem exec_submissionDoorbell_refused (h : ¬ s.AcceptsSubmission c ring count) :
    exec (.submissionDoorbell c ring count) s = .next (s.raise 0x9003 (some c) 0xC0 count.toNat ring.1) := by
  change execSubmissionDoorbell c ring count s = _
  unfold execSubmissionDoorbell
  rw [ho, if_neg (by decide)]
  exact if_neg fun hc => h (by simpa [State.AcceptsSubmission, and_assoc] using hc)

theorem exec_completionDoorbell_accepted (h : s.AcceptsCompletion c ring count) :
    exec (.completionDoorbell c ring count) s = .next (s.modRing c ring (fun q => { q with consumed := count })) := by
  change execCompletionDoorbell c ring count s = _
  unfold execCompletionDoorbell
  rw [ho, if_neg (by decide)]
  exact if_pos (by simpa [State.AcceptsCompletion, and_assoc] using h)

theorem exec_completionDoorbell_refused (h : ¬ s.AcceptsCompletion c ring count) :
    exec (.completionDoorbell c ring count) s = .next (s.raise 0x9003 (some c) 0xC0 count.toNat (ring.1 + 4)) := by
  change execCompletionDoorbell c ring count s = _
  unfold execCompletionDoorbell
  rw [ho, if_neg (by decide)]
  exact if_neg fun hc => h (by simpa [State.AcceptsCompletion, and_assoc] using hc)

end

/-- Settles O17: with the C-port open each row is one test, the conjunction of R263's conditions. -/
theorem doorbells : Obligations.Doorbells := fun _ _ count _ ho =>
  ⟨exec_submissionDoorbell_accepted count ho, exec_submissionDoorbell_refused count ho,
    exec_completionDoorbell_accepted count ho, exec_completionDoorbell_refused count ho⟩

end Sys2Proof.Machine
end

section
/-! SUPPORT. The dispatch of a step: what it writes in the step table, and what it leaves of the steps, the contexts' keys and the
stores (R278, R309). -/
namespace Sys2Proof.Machine

/-- What every operation of a list keeps, all of them keep. -/
theorem State.each_related {α : Type} {R : State → State → Prop} {f : State → α → State} (hrefl : ∀ s, R s s)
    (htrans : ∀ s t u, R s t → R t u → R s u) (hf : ∀ s x, R s (f s x)) (xs : List α) (s : State) : R s (s.each xs f) := by
  unfold State.each
  induction xs generalizing s with
  | nil => exact hrefl s
  | cons x xs ih => exact htrans _ _ _ (hf s x) (ih (f s x))

/-! ### Changes of a step -/

section
variable (s : State) {slot : Nat} {f : Step → Step} (hf : ∀ x, (f x).slot = x.slot)
include hf

/-- After a change of the step in a slot every slot holds the step it held, changed when it is that one. -/
theorem State.modStep_step? (k : Nat) :
    (s.modStep slot f).step? k = (s.step? k).map (fun x => if x.slot == slot then f x else x) := by
  have hslot : ((fun x : Step => x.slot == k) ∘ fun x => if x.slot == slot then f x else x) = fun x => x.slot == k := by
    funext x
    dsimp only [Function.comp]
    split <;> simp [hf]
  simp only [State.step?, State.modStep, State.modHub_hub, List.find?_map, hslot]

theorem State.modStep_step?_same : (s.modStep slot f).step? slot = (s.step? slot).map f := by
  rw [State.modStep_step? s hf]
  cases h : s.step? slot with
  | none => rfl
  | some x => simp [State.slot_of_step? h]

/-- What a change of a step leaves of steps, it leaves of the step in every slot. -/
theorem State.modStep_step?_view {α : Type} {view : Step → α} (hv : ∀ x, view (f x) = view x) (k : Nat) :
    ((s.modStep slot f).step? k).map view = (s.step? k).map view := by
  rw [State.modStep_step? s hf, Option.map_map]
  congr 1
  funext x
  dsimp only [Function.comp]
  split <;> simp [hv]

end

/-! ### What the work of a dispatch keeps -/

/-- What a dispatch writes of a step: its phase, its slices, its read epoch and the time it became ready. -/
def Step.dispatchMark (x : Step) : StepPhase × List Nat × Option Nat × Option Nat := (x.phase, x.slices, x.epoch, x.readyAt)

/-- The steps' dispatch marks, the contexts' key slots and the stores are as they were. -/
structure KeepsMarks (s t : State) : Prop where
  marks : ∀ k, (t.step? k).map Step.dispatchMark = (s.step? k).map Step.dispatchMark
  cur : ∀ c, (t.ctx c).cur = (s.ctx c).cur
  prev : ∀ c, (t.ctx c).prev = (s.ctx c).prev
  stores : s.sameStores t

theorem KeepsMarks.refl (s : State) : KeepsMarks s s := ⟨fun _ => rfl, fun _ => rfl, fun _ => rfl, State.sameStores_refl⟩

theorem State.sameStores.trans {s t u : State} (h : s.sameStores t) (k : t.sameStores u) : s.sameStores u :=
  ⟨fun a => (k.1 a).trans (h.1 a), fun m a => (k.2 m a).trans (h.2 m a)⟩

theorem KeepsMarks.trans {s t u : State} (h : KeepsMarks s t) (k : KeepsMarks t u) : KeepsMarks s u :=
  ⟨fun n => (k.marks n).trans (h.marks n), fun c => (k.cur c).trans (h.cur c), fun c => (k.prev c).trans (h.prev c),
    h.stores.trans k.stores⟩

theorem KeepsMarks.each {α : Type} {f : State → α → State} (hf : ∀ t x, KeepsMarks t (f t x)) (xs : List α) (s : State) :
    KeepsMarks s (s.each xs f) := State.each_related KeepsMarks.refl (fun _ _ _ => KeepsMarks.trans) hf xs s

section
variable (s : State)

/-- A change of a step that leaves its mark. -/
theorem KeepsMarks.modStep {slot : Nat} {f : Step → Step} (hf : ∀ x, (f x).slot = x.slot)
    (hm : ∀ x, (f x).dispatchMark = x.dispatchMark) : KeepsMarks s (s.modStep slot f) :=
  ⟨State.modStep_step?_view s hf hm, fun _ => rfl, fun _ => rfl, State.sameStores_refl⟩

theorem KeepsMarks.modSlice (n : Fin 132) (f : Slice → Slice) : KeepsMarks s (s.modSlice n f) := { KeepsMarks.refl s with }

theorem KeepsMarks.modShares (slot : Nat) (f : Share → Share) : KeepsMarks s (s.modShares slot f) := { KeepsMarks.refl s with }

theorem KeepsMarks.post (src dst : UnitId) (b : Body) : KeepsMarks s (s.post src dst b) := by
  unfold State.post
  split
  · exact { KeepsMarks.refl s with }
  · exact KeepsMarks.refl s

theorem KeepsMarks.bindSlices (c : Fin 64) (ls : List Nat) : KeepsMarks s (s.bindSlices c ls) := by
  refine KeepsMarks.each (fun t n => KeepsMarks.trans ?_ (KeepsMarks.modSlice ..)) _ s
  split
  · exact KeepsMarks.post ..
  · exact KeepsMarks.refl t

theorem KeepsMarks.openSets (x : Step) (ls : List Nat) : KeepsMarks s (s.openSets x ls) := by
  unfold State.openSets
  split
  · exact KeepsMarks.refl s
  split
  · exact KeepsMarks.refl s
  extract_lets
  split
  · exact KeepsMarks.refl s
  · exact (KeepsMarks.each (fun t _ => KeepsMarks.modSlice t ..) _ s).trans
      (KeepsMarks.each (fun t _ => KeepsMarks.modSlice t ..) _ _)

theorem KeepsMarks.sendShares (x : Step) (ls : List Nat) : KeepsMarks s (s.sendShares x ls) := by
  refine KeepsMarks.each (fun t p => ?_) _ s
  split
  · exact KeepsMarks.post ..
  · exact KeepsMarks.refl t

theorem KeepsMarks.failTile (slot status cause n : Nat) : KeepsMarks s (s.failTile slot status cause n) := by
  have hcond : KeepsMarks s (s.addCond slot status cause (some n)) := KeepsMarks.modStep s (fun _ => rfl) (fun _ => rfl)
  exact (hcond.trans (KeepsMarks.modShares ..)).trans (KeepsMarks.modShares ..)

end

/-! ### The dispatch -/

/-- The step as its dispatch marks it. -/
def State.marked (s : State) (x : Step) (ls : List Nat) (y : Step) : Step :=
  { y with phase := .dispatched, readyAt := some (y.readyAt.getD s.now), epoch := some s.hub.readEpoch.toNat, slices := ls
           chains := s.takeChains x, masks := s.takeMasks x }

section
variable (s : State) (x : Step) (ls : List Nat)

theorem State.markDispatched_step?_same :
    (s.markDispatched x ls).step? x.slot = (s.step? x.slot).map (s.marked x ls) :=
  s.modStep_step?_same (f := s.marked x ls) (fun _ => rfl)

theorem State.markDispatched_step?_other {k : Nat} (hk : k ≠ x.slot) : (s.markDispatched x ls).step? k = s.step? k :=
  s.modStep_other x.slot k (s.marked x ls) (fun _ => rfl) hk

/-- A step is marked, and what follows of its dispatch leaves every mark. -/
theorem State.dispatch_keepsMarks (hx : s.step? x.slot = some x) : KeepsMarks (s.markDispatched x ls) (s.dispatch x ls) := by
  have hbind := KeepsMarks.bindSlices (s.markDispatched x ls) x.ctx ls
  have hmark : (s.markDispatched x ls).step? x.slot = some (s.marked x ls x) := by
    rw [State.markDispatched_step?_same, hx, Option.map_some]
  have hstep := hbind.marks x.slot
  unfold State.dispatch
  dsimp only
  split
  next hnone => simp [hnone, hmark] at hstep
  next y _ =>
    have hsent := (hbind.trans (KeepsMarks.openSets _ y ls)).trans (KeepsMarks.sendShares _ y ls)
    split
    · exact hsent
    · exact hsent.trans (KeepsMarks.each (fun t _ => KeepsMarks.failTile t ..) _ _)

end

/-- Settles O22: `markDispatched` changes the one step, and the rest of the dispatch keeps every step's mark. -/
theorem dispatchMarksStep : Obligations.DispatchMarksStep := by
  intro x ls s hx
  have h := State.dispatch_keepsMarks s x ls hx
  refine ⟨?marked, fun k hk => ?others, fun c => ⟨h.cur c, h.prev c⟩, h.stores⟩
  case marked =>
    have hstep := h.marks x.slot
    rw [State.markDispatched_step?_same, hx] at hstep
    obtain ⟨y, hy, hmark⟩ := Option.map_eq_some_iff.1 hstep
    simp only [Step.dispatchMark, State.marked, Prod.mk.injEq] at hmark
    exact ⟨y, hy, hmark⟩
  case others =>
    have hstep := congrArg (Option.map Prod.fst) (h.marks k)
    rw [State.markDispatched_step?_other s x ls hk, Option.map_map, Option.map_map] at hstep
    exact hstep

end Sys2Proof.Machine
end

section
/-! SUPPORT. The cycle without a command: the steps that become ready in it, and the credits every station gains (R273, R280, R284,
R285; assumption 2). -/
namespace Sys2Proof.Machine

/-! ### The steps that become ready (R273, R280) -/

/-- A step but for the time it became ready. -/
def Step.unreadied (x : Step) : Step := { x with readyAt := none }

/-- `t` is `s` with some steps noted as ready: of the step table only those times differ, and else at most the contexts. -/
def State.Readied (s t : State) : Prop :=
  (∃ steps ctxs, t = { s with ctxs := ctxs, hub := { s.hub with steps := steps } }) ∧
    ∀ k, (t.step? k).map Step.unreadied = (s.step? k).map Step.unreadied

theorem State.Readied.refl (s : State) : s.Readied s := ⟨⟨_, _, rfl⟩, fun _ => rfl⟩

theorem State.Readied.trans {s t u : State} (h : s.Readied t) (k : t.Readied u) : s.Readied u := by
  obtain ⟨⟨_, _, rfl⟩, hsteps⟩ := h
  obtain ⟨⟨steps, ctxs, rfl⟩, ksteps⟩ := k
  exact ⟨⟨steps, ctxs, rfl⟩, fun n => (ksteps n).trans (hsteps n)⟩

theorem State.readied_modStream (s : State) (x : Step) (f : PStream → PStream) : s.Readied (s.modStream x f) :=
  ⟨⟨_, _, rfl⟩, fun _ => rfl⟩

theorem State.readied_makeReady (s : State) (x : Step) : s.Readied (s.makeReady x) := by
  have hstep : s.Readied (s.modStep x.slot (fun y => { y with readyAt := some (y.readyAt.getD s.now) })) :=
    ⟨⟨_, _, rfl⟩, State.modStep_step?_view s (fun _ => by rfl) (fun _ => by rfl)⟩
  unfold State.makeReady
  extract_lets
  split
  · exact hstep.trans (State.readied_modStream ..)
  · exact hstep

theorem State.readied_findReady (s : State) : s.Readied s.findReady := by
  refine State.each_related State.Readied.refl (fun _ _ _ => State.Readied.trans) (fun t x => ?_) _ s
  split
  · split
    · exact State.readied_makeReady ..
    · exact State.Readied.refl t
  · exact State.Readied.refl t

/-- A block that does not serve finds no step ready (R384). -/
theorem State.isReady_of_not_ready {s : State} (hp : s.phase ≠ .ready) (x : Step) : s.isReady x = false := by
  simp [State.isReady, State.eligible, State.cOpen, State.live, hp]

theorem State.findReady_of_not_ready {s : State} (hp : s.phase ≠ .ready) : s.findReady = s := by
  refine State.each_related (R := fun s t => s.phase ≠ .ready → t = s) (fun _ _ => rfl)
    (fun s t u h k hs => (k (h hs ▸ hs)).trans (h hs)) (fun t x ht => ?_) _ s hp
  split <;> simp [State.isReady_of_not_ready ht]

/-! ### The cycle (R285; assumption 2) -/

theorem State.tick_of_not_ready {s : State} (hp : s.phase ≠ .ready) : s.tick = s := by
  simp [State.tick, State.live, hp]

theorem State.tick_of_ready {s : State} (hp : s.phase = .ready) : s.tick = { s with
    now := s.now + 1
    hub := { s.hub with energy := s.hub.energy + s.cycleEnergy }
    stations := s.stations.map (fun m => m.gain s.hub.dict.tensionSplit.toNat s.pins.opGrant.toNat) } := by
  simp [State.tick, State.live, hp]

theorem step_of_empty {s : State} (hq : s.pending = []) : step s = .next s.findReady.tick := by
  simp only [step, hq]

theorem idleCycle_frame : Claims.IdleCycle := by
  refine ⟨fun s hq hp => ?waits, fun s hq hp => ?cycles, fun s => ?readied⟩
  case waits => rw [step_of_empty hq, State.findReady_of_not_ready hp, State.tick_of_not_ready hp]
  case cycles =>
    obtain ⟨⟨steps, ctxs, heq⟩, -⟩ := s.readied_findReady
    rw [step_of_empty hq, State.tick_of_ready (by rw [heq]; exact hp)]
    exact ⟨_, by rw [heq]⟩
  case readied =>
    obtain ⟨⟨steps, ctxs, heq⟩, hsteps⟩ := s.readied_findReady
    exact ⟨by rw [heq], by rw [heq], by rw [heq], by rw [heq], by rw [heq], by rw [heq], by rw [heq]; exact State.sameStores_refl,
      by rw [heq], hsteps⟩

/-! ### Credits (R284, R285) -/

/-- Without bit 31 the ROM's split stands. -/
theorem shares_of_rom {split : Nat} (h : split < 2 ^ 31) : shares split = (192, 80, 48) := by
  have hbits : split >>> 31 = 0 := Nat.shiftRight_eq_zero _ _ h
  simp [shares, bitAt, hbits]

theorem serviceRate48_le (rate grant : Nat) : serviceRate48 rate grant ≤ 48 * 1280 := Nat.min_le_right _ _

theorem creditGain : Claims.CreditGain := fun _ _ _ => ⟨rfl, rfl, rfl, shares_of_rom, serviceRate48_le _ _, rfl⟩

/-- Settles O2: the cycle notes ready steps and then counts; a block that does not serve finds none and counts nothing. -/
theorem idleCycle : Obligations.IdleCycle := ⟨idleCycle_frame, creditGain⟩

end Sys2Proof.Machine
end

section
/-! SUPPORT. RING_ENABLE and RING_DISABLE: the write of a ring's sq_log2, by the value and by the register as it stands (R509). -/
namespace Sys2Proof.Machine

section
variable {s : State} {c : Fin 64} {ring : Fin 4}

/-- The write of a ring's sq_log2. -/
def ringFrame (seq : BitVec 8) (c : Fin 64) (ring : Fin 4) (v : Nat) : HReq := writeFrame seq (0x3100 + c.1) (5 + ring.1) 1 v

/-- No ring object is measured (R377). -/
theorem ring_not_measured (c : Fin 64) (sub : Nat) : (0x3100 + c.1, sub) ∉ measuredPairs := fun h => by
  have hidx : ∀ p ∈ measuredPairs, p.1 < 0x3100 ∨ 0x3140 ≤ p.1 := by decide
  have := hidx _ h
  omega

/-- The four sq_log2 registers of a context stand at 5 to 8 (Table 08-1). -/
theorem State.writeRing_size (s : State) (c : Fin 64) (ring : Fin 4) (v : Nat) : s.writeRing c (5 + ring.1) v =
    if v = 0 then s.disableRing c ring
    else if (s.ring c ring).sqLog2 = 0 then s.enableRing c ring (BitVec.ofNat 8 v)
    else s.modRing c ring (fun k => { k with sqLog2 := BitVec.ofNat 8 v }) := by
  have hring : (⟨(5 + ring.1 - 1) % 4, Nat.mod_lt _ (by decide)⟩ : Fin 4) = ring := Fin.ext (by simp only; omega)
  have hkind : (5 + ring.1 - 1) / 4 = 1 := by omega
  simp only [State.writeRing, hring, hkind, beq_iff_eq]

theorem State.applyWrite_ringFrame (seq : BitVec 8) {v : Nat} (hv : v < 256) :
    s.applyWrite (ringFrame seq c ring v) = s.writeRing c (5 + ring.1) v := by
  have hmod : v % 256 = v := Nat.mod_eq_of_lt hv
  simp [State.applyWrite, ringFrame, writeFrame, HReq.segmented, hmod, State.writeScalar, ring_not_measured, within_add]

theorem State.hFrame_ringFrame {seq : BitVec 8} {rot : Bool} {v : Nat} (hp : s.phase = .ready)
    (hj : s.judge (ringFrame seq c ring v) rot = 0x40) (hv : v < 256) :
    s.hFrame (ringFrame seq c ring v) rot = (s.writeRing c (5 + ring.1) v).answered (ringFrame seq c ring v) 0x40 0 := by
  have hlog : (ringFrame seq c ring v).idx ≠ 0x9000 := show 0x3100 + c.1 ≠ 0x9000 by omega
  have hkey : (ringFrame seq c ring v).isKeyCommand = false :=
    HReq.not_isKeyCommand (.inl (show 0x3100 + c.1 ≠ 0x6000 by omega))
  rw [State.hFrame_of_write hp hj hlog rfl hkey, State.applyWrite_ringFrame seq hv]

/-! ### The effect of the write -/

section
variable {log2 seq : BitVec 8} {rot : Bool} (hp : s.phase = .ready)
include hp

section
variable (hj : s.judge (ringFrame seq c ring log2.toNat) rot = 0x40) (hv : log2 ≠ 0)
include hj hv

theorem exec_ringEnable_enables (hoff : (s.ring c ring).sqLog2 = 0) : exec (.ringEnable c ring log2 seq rot) s = .next
    ((s.enableRing c ring log2).answered (ringFrame seq c ring log2.toNat) 0x40 0) := by
  have hne : log2.toNat ≠ 0 := fun h => hv (BitVec.eq_of_toNat_eq h)
  change Host.Outcome.next (s.hFrame (ringFrame seq c ring log2.toNat) rot) = _
  rw [State.hFrame_ringFrame hp hj log2.isLt, State.writeRing_size, if_neg hne, if_pos hoff, BitVec.ofNat_toNat,
    BitVec.setWidth_eq]

theorem exec_ringEnable_resizes (hon : (s.ring c ring).sqLog2 ≠ 0) : exec (.ringEnable c ring log2 seq rot) s = .next
    ((s.modRing c ring (fun q => { q with sqLog2 := log2 })).answered (ringFrame seq c ring log2.toNat) 0x40 0) := by
  have hne : log2.toNat ≠ 0 := fun h => hv (BitVec.eq_of_toNat_eq h)
  change Host.Outcome.next (s.hFrame (ringFrame seq c ring log2.toNat) rot) = _
  rw [State.hFrame_ringFrame hp hj log2.isLt, State.writeRing_size, if_neg hne, if_neg hon, BitVec.ofNat_toNat,
    BitVec.setWidth_eq]

end

theorem exec_ringDisable_disables (hj : s.judge (ringFrame seq c ring 0) rot = 0x40) :
    exec (.ringDisable c ring seq rot) s = .next ((s.disableRing c ring).answered (ringFrame seq c ring 0) 0x40 0) := by
  change Host.Outcome.next (s.hFrame (ringFrame seq c ring 0) rot) = _
  rw [State.hFrame_ringFrame hp hj (by decide), State.writeRing_size, if_pos rfl]

end

end

/-! ### A ring that is enabled, a burst that is dropped -/

/-- A ring pair enabled: its registers are taken as they stand, its counts are 0. -/
def RingPair.enable (k : RingPair) (log2 : BitVec 8) : RingPair :=
  { k with
    sqLog2 := log2, liveSqBase := k.sqBase, liveSqLog2 := log2, liveCqBase := k.cqBase, liveCqLog2 := k.cqLog2, sqHead := 0
    cqTail := 0, tail := 0, consumed := 0, patterns := 0, enabled := true, inUse := true
    expect := { left := 0, index := 0, seqNo := 0, serial := false } }

section
variable (s : State) (c : Fin 64) (ring : Fin 4)

theorem State.enableRing_ring (log2 : BitVec 8) : (s.enableRing c ring log2).ring c ring = (s.ring c ring).enable log2 := by
  change ((s.modRing c ring _).modCtx c _).ring c ring = _
  simp only [State.ring, State.modCtx_same]
  exact State.modRing_same s c ring _

theorem State.enableRing_other (log2 : BitVec 8) {d : Fin 64} (h : d ≠ c) : (s.enableRing c ring log2).ctx d = s.ctx d := by
  change ((s.modRing c ring _).modCtx c _).ctx d = _
  rw [State.modCtx_other _ _ _ _ h, State.modRing_other _ _ _ _ _ h]

theorem State.dropBurst_ring : (s.dropBurst c ring).ring c ring = { s.ring c ring with burst := none } :=
  State.modRing_same s c ring _

theorem State.dropBurst_purpose : ∀ q ∈ (s.dropBurst c ring).hub.cOut, q.purpose ≠ .entries c ring := by
  simp only [State.dropBurst, State.modHub_hub, List.mem_map]
  rintro q ⟨p, -, rfl⟩
  split
  · simp
  · simp_all

theorem State.dropBurst_length : (s.dropBurst c ring).hub.cOut.length = s.hub.cOut.length := List.length_map ..

end

/-- Settles O18: a ring's sq_log2 is written by value and by register: enabled, resized or disabled. -/
theorem ringEnabling : Obligations.RingEnabling := by
  intro c ring log2 seq rot s hp on off k
  refine ⟨fun hj hv hoff => ?enables, fun hj hv hon => exec_ringEnable_resizes hp hj hv hon,
    fun hj => exec_ringDisable_disables hp hj, s.dropBurst_ring c ring, s.dropBurst_purpose c ring, s.dropBurst_length c ring⟩
  case enables =>
    exact ⟨_, exec_ringEnable_enables hp hj hv hoff, s.enableRing_ring c ring log2, rfl, fun d => s.enableRing_other c ring log2,
      rfl, State.sameStores_refl⟩

end Sys2Proof.Machine
end

section
/-! SUPPORT. ENTRY_READ: the C-port read of a burst, its entries, and what a pattern header begins (R264, R266, R267, R394). -/
namespace Sys2Proof.Machine

/-! ### Requests of the C-port (R394) -/

/-- `t` is `s` with requests of one kind added to the C-port's, the contexts, the steps and the stores as they were. -/
structure State.Requested (wr : Bool) (p : NPurpose) (s t : State) : Prop where
  ctxs : t.ctxs = s.ctxs
  steps : t.hub.steps = s.hub.steps
  near : t.near = s.near
  stackMem : t.stackMem = s.stackMem
  queue : ∃ new, t.hub.cOut = s.hub.cOut ++ new ∧ ∀ q ∈ new, q.wr = wr ∧ q.purpose = p

section
variable {wr : Bool} {p : NPurpose} {s t u : State}

theorem State.Requested.refl (s : State) : State.Requested wr p s s := ⟨rfl, rfl, rfl, rfl, [], by simp⟩

theorem State.Requested.trans (h : State.Requested wr p s t) (k : State.Requested wr p t u) : State.Requested wr p s u := by
  obtain ⟨new, hqueue, hnew⟩ := h.queue
  obtain ⟨later, kqueue, klater⟩ := k.queue
  refine ⟨k.ctxs.trans h.ctxs, k.steps.trans h.steps, k.near.trans h.near, k.stackMem.trans h.stackMem, new ++ later, ?_, ?_⟩
  · rw [kqueue, hqueue, List.append_assoc]
  · exact List.forall_mem_append.2 ⟨hnew, klater⟩

theorem State.requested_cQueue (s : State) (wr : Bool) (a len : Nat) (data : Bytes) (p : NPurpose) :
    State.Requested wr p s (s.cQueue wr a len data p) := by
  have hsent : ∀ (t : State) (q : NReq), State.Requested wr p t (t.cSent q) := fun t q => by
    unfold State.cSent
    split
    · exact { State.Requested.refl t with }
    · exact State.Requested.refl t
  unfold State.cQueue
  extract_lets q s1
  have hqueued : State.Requested wr p s s1 := ⟨rfl, rfl, rfl, rfl, [q], rfl, by simp [q, NReq.of]⟩
  split
  · exact hqueued.trans (hsent ..)
  · exact hqueued

/-- A read of the hub. -/
theorem State.requested_cRequest_read (s : State) (a len : Nat) (data : Bytes) (p : NPurpose) :
    State.Requested false p s (s.cRequest false a len data p) :=
  State.each_related State.Requested.refl (fun _ _ _ => State.Requested.trans) (fun t _ => t.requested_cQueue ..) _ s

theorem State.Requested.sameStores (h : State.Requested wr p s t) : s.sameStores t :=
  ⟨fun _ => by rw [h.near], fun _ _ => by simp only [State.stack, h.stackMem]⟩

theorem State.Requested.ctx (h : State.Requested wr p s t) (c : Fin 64) : t.ctx c = s.ctx c := by
  simp only [State.ctx, h.ctxs]

theorem State.Requested.ring (h : State.Requested wr p s t) (c : Fin 64) (r : Fin 4) : t.ring c r = s.ring c r := by
  simp only [State.ring, h.ctx]

/-- The requests that were there stay in front. -/
theorem State.Requested.take (h : State.Requested wr p s t) : t.hub.cOut.take s.hub.cOut.length = s.hub.cOut := by
  obtain ⟨new, hqueue, -⟩ := h.queue
  simp [hqueue]

theorem State.Requested.drop (h : State.Requested wr p s t) :
    ∀ q ∈ t.hub.cOut.drop s.hub.cOut.length, q.wr = wr ∧ q.purpose = p := by
  obtain ⟨new, hqueue, hnew⟩ := h.queue
  simpa [hqueue] using hnew

end

/-! ### A burst (R264) -/

section
variable {s : State} {c : Fin 64} {ring : Fin 4} {n : Nat}

/-- The burst noted at its ring, whose turn is over. -/
def State.burstNoted (s : State) (c : Fin 64) (ring : Fin 4) (n : Nat) : State :=
  (s.modRing c ring (fun k => { k with burst := some { count := n, data := none } })).modCtx c (fun x => { x with turn := ring + 1 })

theorem State.burstNoted_ring :
    (s.burstNoted c ring n).ring c ring = { s.ring c ring with burst := some { count := n, data := none } } := by
  simp only [State.burstNoted, State.ring, State.modCtx_same]
  exact State.modRing_same s c ring _

theorem State.burstNoted_turn : ((s.burstNoted c ring n).ctx c).turn = ring + 1 := by
  simp only [State.burstNoted, State.modCtx_same]

theorem State.requested_beginBurst :
    State.Requested false (.entries c ring) (s.burstNoted c ring n) (s.beginBurst c ring n) :=
  State.requested_cRequest_read ..

variable (data : Bytes) (errs : List Nat)

theorem exec_entryRead_of_no_burst (hb : (s.ring c ring).burst = none) : exec (.entryRead c ring n data errs) s = .next
    (if s.mayRead c ring n then s.beginBurst c ring n else s) := by
  change execEntryRead c ring n data errs s = _
  simp only [execEntryRead, hb]
  split <;> rfl

theorem exec_entryRead_of_unread {b : Burst} (hb : (s.ring c ring).burst = some b) (hd : b.data = none) :
    exec (.entryRead c ring n data errs) s = .next s := by
  change execEntryRead c ring n data errs s = _
  simp only [execEntryRead, hb, hd]

theorem exec_entryRead_of_read {b : Burst} {d : Bytes × List Nat} (hb : (s.ring c ring).burst = some b) (hd : b.data = some d)
    (hn : b.count = n) (ho : s.cOpen = true) (hc : (s.ctx c).state = .opened) :
    exec (.entryRead c ring n data errs) s = .next (s.takeBurst c ring n d) := by
  change execEntryRead c ring n data errs s = _
  simp [execEntryRead, hb, hd, hn, ho, hc]

end

theorem entryBurst : Claims.EntryBurst := by
  refine ⟨fun c ring n data errs s hb => ⟨fun hm => ?begins, fun hm => ?waits⟩,
    fun c ring n data errs b s hb => ⟨fun d hd hn ho hc => exec_entryRead_of_read data errs hb hd hn ho hc,
      exec_entryRead_of_unread data errs hb⟩⟩
  case begins =>
    have h : State.Requested false (.entries c ring) (s.burstNoted c ring n) (s.beginBurst c ring n) := State.requested_beginBurst
    refine ⟨s.beginBurst c ring n, ?_, ?_, ?_, h.drop, h.take, h.steps, h.sameStores⟩
    · rw [exec_entryRead_of_no_burst data errs hb, if_pos hm]
    · rw [h.ring, State.burstNoted_ring]
    · rw [h.ctx, State.burstNoted_turn]
  case waits => rw [exec_entryRead_of_no_burst data errs hb, if_neg (by simp [hm])]

/-! ### A pattern header (R266, R267) -/

@[simp] theorem vmod_vmod {α : Type} {n : Nat} (v : Vector α n) (i : Fin n) (f g : α → α) :
    vmod (vmod v i f) i g = vmod v i (fun x => g (f x)) := by
  simp [vmod]

@[simp] theorem State.modCtx_modCtx (s : State) (c : Fin 64) (f g : Context → Context) :
    (s.modCtx c f).modCtx c g = s.modCtx c (fun x => g (f x)) := by
  simp only [State.modCtx, vmod_vmod]

@[simp] theorem State.modRing_modRing (s : State) (c : Fin 64) (r : Fin 4) (f g : RingPair → RingPair) :
    (s.modRing c r f).modRing c r g = s.modRing c r (fun k => g (f k)) := by
  simp only [State.modRing, State.modCtx_modCtx, vmod_vmod]

theorem patternHeader : Claims.PatternHeader := by
  intro c ring bs s hleft hheader
  simp [State.readEntryAt, hleft, hheader]

/-- Settles O19: a burst is asked for by reads that leave contexts and steps, and taken entry by entry; a header only changes
its ring. -/
theorem entriesAreRead : Obligations.EntriesAreRead := ⟨entryBurst, patternHeader⟩

end Sys2Proof.Machine
end

section
/-! SUPPORT. The end of a step: its completion record, its completion with what it writes before, and its suspension (R265, R276,
R282, R287, R288, R316 to R318). -/
namespace Sys2Proof.Machine

/-! ### What the closing of a step's sessions leaves of the hub (R355, R356) -/

/-- The hub of `t` is that of `s` but for its event log, its counters and the energy estimate. -/
def State.HubCounted (s t : State) : Prop := ∃ energy seq log counters,
  t.hub = { s.hub with energy := energy, eventSeq := seq, log := log, counters := counters }

section
variable {s t u : State}

theorem State.HubCounted.of_hub_eq (h : t.hub = s.hub) : s.HubCounted t := ⟨_, _, _, _, h⟩

theorem State.HubCounted.refl (s : State) : s.HubCounted s := .of_hub_eq rfl

theorem State.HubCounted.trans (h : s.HubCounted t) (k : t.HubCounted u) : s.HubCounted u := by
  obtain ⟨_, _, _, _, ht⟩ := h
  obtain ⟨energy, seq, log, counters, hu⟩ := k
  exact ⟨energy, seq, log, counters, by rw [hu, ht]⟩

theorem State.HubCounted.each {α : Type} {f : State → α → State} (hf : ∀ t x, State.HubCounted t (f t x)) (xs : List α)
    (s : State) : s.HubCounted (s.each xs f) :=
  State.each_related State.HubCounted.refl (fun _ _ _ => State.HubCounted.trans) hf xs s

theorem State.HubCounted.suspensions (h : s.HubCounted t) : t.hub.suspensions = s.hub.suspensions := by
  obtain ⟨_, _, _, _, ht⟩ := h
  rw [ht]

end

section
variable (s : State)

theorem State.hubCounted_raise (code : Nat) (ctx : Option (Fin 64)) (unit a0 a1 : Nat) :
    s.HubCounted (s.raise code ctx unit a0 a1) := ⟨_, _, _, _, rfl⟩

theorem State.hubCounted_count (f : Counters → Counters) : s.HubCounted (s.count f) := ⟨_, _, _, _, rfl⟩

theorem State.hubCounted_spend (k n : Nat) : s.HubCounted (s.spend k n) := ⟨_, _, _, _, rfl⟩

theorem State.hubCounted_countTile (m : Fin 12) (c : Fin 64) (l : Legend) (n : Nat) : s.HubCounted (s.countTile m c l n) := by
  have hwire : ∀ (src : UnitId) (quantity amount : Nat), s.HubCounted (s.tallyAdd src c quantity amount) := fun _ _ _ => by
    unfold State.tallyAdd
    split
    · exact State.HubCounted.refl s
    · exact .of_hub_eq rfl
  unfold State.countTile State.spendAes
  split
  · exact (hwire ..).trans (State.hubCounted_spend ..)
  · exact hwire ..

theorem State.post_hub (src dst : UnitId) (b : Body) : (s.post src dst b).hub = s.hub := by
  unfold State.post
  split <;> rfl

theorem State.putStack_hub (m : Fin 12) (c : Fin 64) (k : RangeKind) (a : Nat) (bs : Bytes) :
    (s.putStack m c k a bs).hub = s.hub := by
  unfold State.putStack
  split <;> rfl

theorem State.seek_hub (who : Asker) (c : Fin 64) (l : Look) : (s.seek who c l).hub = s.hub := by
  unfold State.seek
  split
  · rfl
  extract_lets
  split
  · split
    · exact State.post_hub ..
    · rfl
  · rfl

theorem State.hubCounted_putRefreshed (x : Session) (m : Fin 12) (t : Nat) (r : Refreshed) :
    s.HubCounted (s.putRefreshed x m t r) := by
  cases r with
  | keep => exact State.HubCounted.refl s
  | lost => exact State.hubCounted_raise ..
  | put addr slot a legend good was now =>
    have hput : s.HubCounted ((((s.countTile m x.ctx was slot.length).countTile m x.ctx now slot.length).putStack m x.ctx .stitch
        addr slot).putStack m x.ctx .legend a legend) :=
      ((State.hubCounted_countTile ..).trans (State.hubCounted_countTile ..)).trans
        (.of_hub_eq ((State.putStack_hub ..).trans (State.putStack_hub ..)))
    unfold State.putRefreshed
    dsimp only
    split
    · exact hput
    · exact (hput.trans (State.hubCounted_raise ..)).trans (State.hubCounted_count ..)

theorem State.hubCounted_refreshStep (m : Fin 12) (x : Session) : s.HubCounted (s.refreshStep m x) := by
  unfold State.refreshStep
  split
  next t ht =>
    obtain ⟨l, -, rfl⟩ := Option.map_eq_some_iff.1 ht
    exact .of_hub_eq (State.seek_hub ..)
  split
  · exact State.HubCounted.refl s
  · refine State.HubCounted.trans ?_ (.of_hub_eq rfl)
    split
    · exact State.HubCounted.refl s
    · exact State.HubCounted.each (fun u _ => u.hubCounted_putRefreshed ..) _ s

theorem State.hubCounted_closeSession (m : Fin 12) (x : Session) : s.HubCounted (s.closeSession m x) := by
  have hstep : ∀ t : State, s.HubCounted t → s.HubCounted (t.refreshSession m { x with closing := true }) := fun t ht => by
    unfold State.refreshSession State.asSweep
    split
    · exact (ht.trans (t.hubCounted_refreshStep ..)).trans (.of_hub_eq rfl)
    · exact ht.trans (t.hubCounted_refreshStep ..)
  exact hstep _ (.of_hub_eq rfl)

theorem State.hubCounted_closeSessionsOf (slot : Nat) : s.HubCounted (s.closeSessionsOf slot) := by
  have hforget : s.HubCounted (s.forget (fun e => e.1 == .step slot)) := .of_hub_eq rfl
  exact hforget.trans
    (State.HubCounted.each (fun t _ => State.HubCounted.each (fun u _ => u.hubCounted_closeSession ..) _ t) _ _)

theorem State.hubCounted_parkShares (x : Step) : s.HubCounted (s.parkShares x) := by
  unfold State.parkShares
  extract_lets s1
  have hpaused : s.HubCounted (s1.dropFetches x.slot) := .of_hub_eq rfl
  exact hpaused.trans (State.hubCounted_closeSessionsOf ..)

theorem State.hubCounted_countLatency (x : Step) : s.HubCounted (s.countLatency x) := by
  unfold State.countLatency
  split
  · split
    · exact State.hubCounted_count ..
    · exact State.HubCounted.refl s
  · exact State.HubCounted.refl s

end

/-! ### The last reports of a step (R290) -/

theorem Step.countRow_eq (x : Step) (i : Nat) :
    x.countRow i = { x with countB := (x.countRow i).countB, rowMark := (x.countRow i).rowMark } := by
  unfold Step.countRow
  split <;> rfl

theorem Step.take_slot (x : Step) (r : Report) : (x.take r).slot = x.slot := by
  unfold Step.take
  extract_lets
  split
  · rw [Step.countRow_eq]
  · rfl

theorem Step.take_resumedBy (x : Step) (r : Report) : (x.take r).resumedBy = x.resumedBy := by
  unfold Step.take
  extract_lets
  split
  · rw [Step.countRow_eq]
  · rfl

/-- Reports that count at a step's end leave the RESUME that continues each step, and the count of suspensions. -/
theorem State.lastReports_keeps (s : State) (slot : Nat) :
    (∀ k, ((s.lastReports slot).step? k).map (·.resumedBy) = (s.step? k).map (·.resumedBy)) ∧
      (s.lastReports slot).hub.suspensions = s.hub.suspensions := by
  have htake : ∀ (t : State) (r : Report),
      (∀ k, ((t.modStep slot (fun x => x.take r)).step? k).map (·.resumedBy) = (t.step? k).map (·.resumedBy)) ∧
        (t.modStep slot (fun x => x.take r)).hub.suspensions = t.hub.suspensions :=
    fun t r => ⟨State.modStep_step?_view t (fun x => x.take_slot r) (fun x => x.take_resumedBy r), rfl⟩
  exact State.each_related
    (R := fun s t => (∀ k, (t.step? k).map (·.resumedBy) = (s.step? k).map (·.resumedBy)) ∧ t.hub.suspensions = s.hub.suspensions)
    (fun _ => ⟨fun _ => rfl, rfl⟩) (fun _ _ _ h k => ⟨fun n => (k.1 n).trans (h.1 n), k.2.trans h.2⟩) htake _ _

/-- A suspension counts, when no RESUME's record ends the step instead (R316). -/
theorem State.suspendStep_suspensions {s : State} {x : Step} (m : Miss) (hx : s.step? x.slot = some x) (hr : x.resumedBy = none) :
    (s.suspendStep x m).hub.suspensions = s.hub.suspensions + 1 := by
  obtain ⟨hresumed, hcount⟩ := s.lastReports_keeps x.slot
  have hstep := hresumed x.slot
  rw [hx] at hstep
  obtain ⟨y, hy, hyr⟩ := Option.map_eq_some_iff.1 hstep
  unfold State.suspendStep
  extract_lets s1 z serial s2 s3 s4 w c
  have hz : z.resumedBy = none := by simp only [z, s1, hy, Option.getD_some, hyr, hr]
  simp only [hz, Option.bind_none]
  have hlast : (s4.countLatency z).hub.suspensions = s3.hub.suspensions :=
    ((s3.hubCounted_parkShares z).trans (s4.hubCounted_countLatency z)).suspensions
  have hs3 : s3.hub.suspensions = s1.hub.suspensions + 1 := rfl
  rw [State.modRing_hub, hlast, hs3, hcount]

/-! ### The rows -/

theorem exec_completionRecordWrite_writes {s : State} {c : Fin 64} {ring : Fin 4} {w : CompRecord} {ws : List CompRecord}
    (ho : s.cOpen = true) (hw : (s.ring c ring).writable = some (w, ws)) :
    exec (.completionRecordWrite c ring) s = .next ((s.putRecord c ring w ws).settleClosing c) := by
  change execCompletionRecordWrite c ring s = _
  simp [execCompletionRecordWrite, ho, hw]

/-- A step that lost no slice of its accumulation set closes none. -/
theorem State.closeLost_of_not_setLost (s : State) {x : Step} (h : x.setLost = false) : s.closeLost x = s := by
  simp [State.closeLost, h]

section
variable {s : State} {slot : Nat} {x : Step} (hp : s.phase = .ready) (hs : s.step? slot = some x) (hf : x.finished = true)
include hp hs hf

section
variable (hn : x.suspends = false) (ht : x.target = none)
include hn ht

theorem exec_stepCompletion_writes (ho : x.resultsOut = false) (hw : x.gatherResults ≠ [] ∨ s.skipRecord x ≠ []) :
    exec (.stepCompletion slot) s = .next (s.putResults x) := by
  have hleft : (x.gatherResults.isEmpty && (s.skipRecord x).isEmpty) = false := by
    rcases hw with hw | hw <;> simp [hw]
  change execStepCompletion slot s = _
  simp [execStepCompletion, hs, State.live, hp, hf, hn, ht, ho, hleft]

theorem exec_stepCompletion_completes (ho : x.resultsOut = true ∨ (x.gatherResults = [] ∧ s.skipRecord x = [])) :
    exec (.stepCompletion slot) s = .next ((s.closeLost x).complete (x.resumedBy.getD slot) (bestCond x.allConds).status
      (bestCond x.allConds).cause (bestCond x.allConds).tile) := by
  have hout : (!x.resultsOut && !(x.gatherResults.isEmpty && (s.skipRecord x).isEmpty)) = false := by
    rcases ho with ho | ⟨hg, hr⟩
    · simp [ho]
    · simp [hg, hr]
  change execStepCompletion slot s = _
  simp only [execStepCompletion, hs, State.live, hp, hf, hn, ht, hout]
  rfl

end

theorem exec_stepSuspend_suspends {m : Miss} (hm : x.miss = some m) (hn : x.suspends = true) (hc : x.parent = none) :
    exec (.stepSuspend slot) s = .next (s.suspendStep x m) := by
  change execStepSuspend slot s = _
  simp [execStepSuspend, hs, hm, State.live, hp, hf, hn, hc]

end

/-- Settles O20: each row tests what it names; a suspension adds one to the count, and what it parks and closes keeps the count. -/
theorem stepEnds : Obligations.StepEnds := by
  refine ⟨fun _ _ _ _ _ => exec_completionRecordWrite_writes,
    fun _ x s hp hs hf hn ht => ⟨exec_stepCompletion_completes hp hs hf hn ht, s.closeLost_of_not_setLost,
      exec_stepCompletion_writes hp hs hf hn ht⟩,
    fun slot x m s hp hs hm hf hn hc => ⟨exec_stepSuspend_suspends hp hs hf hm hn hc, fun hr => ?counts⟩⟩
  obtain rfl := State.slot_of_step? hs
  exact State.suspendStep_suspensions m hs hr

end Sys2Proof.Machine
end

section
/-! SUPPORT. The dispatch of the step rows with shares of their own, and of the atlas and page steps, which run their items in order
(R273, R278, R302 to R306, R319 to R322, R327, R331 to R333, R513). -/
namespace Sys2Proof.Machine

theorem shareStepsDispatch : Claims.ShareStepsDispatch := by
  unfold Claims.ShareStepsDispatch
  and_intros <;> exact dispatchesAs_of_tryStep fun _ _ => rfl

/-- A GATHER whose lengths sum to 0 completes DONE_EMPTY (R321). -/
theorem State.goGather_of_empty {s : State} {x : Step} (ls : List Nat)
    (hc : (s.gatherChain x).1.failed = false ∨ (s.gatherChain x).1.extents ≠ []) (hn : s.gatherNeed x = none)
    (hz : sumNat (s.gatherChain x).2 = 0) : s.goGather x ls = s.complete x.slot 0x01 0 none := by
  have hgood : ((s.gatherChain x).1.failed && (s.gatherChain x).1.extents.isEmpty) = false := by
    rcases hc with hc | hc <;> simp [hc]
  simp [State.goGather, hn, hgood, hz]

theorem preparedStepsDispatch : Claims.PreparedStepsDispatch :=
  ⟨dispatchesAs_of_tryStep fun _ _ => rfl, dispatchesAs_of_tryStep fun _ _ => rfl, dispatchesAs_of_tryStep fun _ _ => rfl,
    dispatchesAs_of_tryStep fun _ _ => rfl, fun _ ls _ => State.goGather_of_empty ls⟩

/-! ### Steps that run over items (R302, R513) -/

section
variable {s : State} {x : Step}

/-- A step that starts its items has one thing to do and runs them from where it stands. -/
theorem State.startItems_of_step {slot : Nat} {y : Step} (hy : s.step? slot = some y) : s.startItems slot =
    (s.modStep slot (fun z => { z with toDo := 1 })).runAtlas { y with toDo := 1 } := by
  have hstep := s.modStep_step?_same (slot := slot) (f := fun z => { z with toDo := 1 }) (fun _ => rfl)
  rw [hy, Option.map_some] at hstep
  simp only [State.startItems, hstep]

theorem State.goAtlas_of_step (hx : s.step? x.slot = some x) : ∃ y, (s.markDispatched x []).step? x.slot = some y ∧
    s.goAtlas x [] = ((s.markDispatched x []).modStep x.slot (fun z => { z with toDo := 1 })).runAtlas { y with toDo := 1 } := by
  have hy : (s.markDispatched x []).step? x.slot = some (s.marked x [] x) := by
    rw [State.markDispatched_step?_same, hx, Option.map_some]
  exact ⟨_, hy, State.startItems_of_step hy⟩

/-- Each opcode over items runs its own from the position reached: images, shares and pages. -/
theorem State.runAtlas_eq (s : State) (x : Step) :
    (x.op = some .atlasWrite → s.runAtlas x = s.runFrom x (wordField x.words 5 0 32) (State.atlasImage x)) ∧
    (x.op = some .share → s.runAtlas x = s.runFrom x (wordField x.words 6 0 32) (State.sharePage x)) ∧
    (x.op = some .free → s.runAtlas x = s.runFrom x (wordField x.words 5 0 32) (State.freePage x)) ∧
    (x.op = some .frog → s.runAtlas x = s.runFrom x (wordField x.words 5 0 32) (State.frogPage x)) ∧
    (x.op = some .demote → s.runAtlas x = s.runFrom x (wordField x.words 5 0 32) (State.demotePage x)) ∧
    (x.op = some .promote → s.runAtlas x = s.runFrom x (wordField x.words 5 0 32) (State.promotePage x)) := by
  unfold State.runAtlas
  exact ⟨fun h => by rw [h], fun h => by rw [h], fun h => by rw [h], fun h => by rw [h], fun h => by rw [h], fun h => by rw [h]⟩

end

theorem atlasStepsDispatch : Claims.AtlasStepsDispatch :=
  ⟨dispatchesAs_of_tryStep fun _ _ => rfl, dispatchesAs_of_tryStep fun _ _ => rfl, dispatchesAs_of_tryStep fun _ _ => rfl,
    dispatchesAs_of_tryStep fun _ _ => rfl, dispatchesAs_of_tryStep fun _ _ => rfl, dispatchesAs_of_tryStep fun _ _ => rfl,
    dispatchesAs_of_tryStep fun _ _ => rfl, dispatchesAs_of_tryStep fun _ _ => rfl, dispatchesAs_of_tryStep fun _ _ => rfl,
    fun _ _ hx _ => State.goAtlas_of_step hx, fun x s => s.runAtlas_eq x⟩

/-- Settles O21: every row tries its step with the work of its opcode. -/
theorem stepsDispatch : Obligations.StepsDispatch := ⟨shareStepsDispatch, preparedStepsDispatch, atlasStepsDispatch⟩

end Sys2Proof.Machine
end

section
/-! SUPPORT. SWITCH_IDLE_TIMEOUT, QUANTUM_EXPIRY and SLICE_CONTEXT_MOVE: when a slice becomes due to move, and the move at its boundary
(R281, R338; assumptions 16, 68, 97). -/
namespace Sys2Proof.Machine

section
variable {s : State} {sl : Fin 132} {d : Fin 64} (hp : s.phase = .ready)
include hp

section
variable (ha : (s.slice sl).alive = true) (hd : s.nextContext sl = some d)
include ha hd

/-- A slice bound to no context, or to one without unfinished work on it, is due to move (assumption 68). -/
theorem exec_switchIdleTimeout_due (hidle : ∀ c, (s.slice sl).bound = some c → (s.slice sl).busyFor c = false) :
    exec (.switchIdleTimeout sl) s = .next (s.modSlice sl (fun y => { y with moveDue := some d })) := by
  change execSwitchIdleTimeout sl s = _
  cases hb : (s.slice sl).bound with
  | none => simp [execSwitchIdleTimeout, State.live, hp, ha, hb, State.makeDue, hd]
  | some c => simp [execSwitchIdleTimeout, State.live, hp, ha, hb, hidle c hb, State.makeDue, hd]

theorem exec_quantumExpiry_due (hb : (s.slice sl).bound ≠ none) :
    exec (.quantumExpiry sl) s = .next (s.modSlice sl (fun y => { y with moveDue := some d })) := by
  have hbound : (s.slice sl).bound.isSome = true := Option.isSome_iff_ne_none.2 hb
  change execQuantumExpiry sl s = _
  simp [execQuantumExpiry, State.live, hp, ha, hbound, State.makeDue, hd]

end

/-- At its boundary a slice whose old context has no unfinished work there leaves nothing in the hub; nor does it read the new
context's state when the hub holds none. -/
theorem exec_sliceContextMove_moves (hm : (s.slice sl).moveDue = some d) (hw : (s.slice sl).awake = true)
    (hb : ∀ c, (s.slice sl).bound = some c → (s.slice sl).atBoundary c = true ∧ (s.slice sl).busyFor c = false)
    (hl : s.left sl d = false) :
    exec (.sliceContextMove sl) s = .next (s.modSlice sl (fun y => { y with bound := some d, moveDue := none })) := by
  have hleft : ∀ f, (s.modSlice sl f).left sl d = false := fun _ => hl
  change execSliceContextMove sl s = _
  cases hbound : (s.slice sl).bound with
  | none => simp [execSliceContextMove, hm, State.live, hp, hw, hbound, hleft]
  | some c =>
    obtain ⟨hboundary, hbusy⟩ := hb c hbound
    simp [execSliceContextMove, hm, State.live, hp, hw, hbound, hboundary, hbusy, hleft]

end

/-- Settles O42: the timer rows mark the slice due when it is idle or bound, and the move binds it at its boundary. -/
theorem sliceMoves : Obligations.SliceMoves := fun _ _ _ hp =>
  ⟨fun ha hd => ⟨exec_switchIdleTimeout_due hp ha hd, exec_quantumExpiry_due hp ha hd⟩, exec_sliceContextMove_moves hp⟩

end Sys2Proof.Machine
end

section
/-! SUPPORT. SCRUB_UNIT: the unit's keystream on a station's stack, through its slice's N-port, or over the hub's C-port (R285, R373,
R374; assumptions 17, 122). -/
namespace Sys2Proof.Machine

section
variable {s : State} {c : Fin 64} {k : Scrub} {a : Nat} (hp : s.phase = .ready) (h2 : k.phase2 = true)
include hp h2

theorem scrubUnit_goes : (!s.live || !k.phase2) = false := by simp [State.live, hp, h2]

section
variable (hk : (s.ctx c).scrub = some k)
include hk

/-- A unit of the station's own memory takes a window entry and 2,048 B of the write class's credit, whatever there is (R285). -/
theorem exec_scrubUnit_stack {m : Fin 12} {id : Nat} (hup : s.stationUp m = true)
    (hu : k.unitOf m (k.written m.1) = some (true, a)) (hid : freeId 512 ((s.station m).window.map (·.id)) = some id) :
    let data := scrubUnitBytes (keyBytes k.key) m.1 (a / 16) k.serial.toNat
    let q : MReq :=
      { cls := .write, wr := true, ctx := c, kind := .stitch, first := a, granules := 32
        ranges := [{ addr := a, len := 2048, data := data, job := 0, off := 0, order := (s.station m).accepted, sweep := false }]
        scrub := true, fill := none }
    exec (.scrubUnit c (.ms m)) s = .next ((unitTaken (((s.writeStack m a data).modStation m (fun x =>
      { x with
        window := x.window ++ [{ id := id, req := q, got := 0, data := [], bad := [] }]
        creditWrite := x.creditWrite - 2048 * 15360 })).mSent m q) c k m.1).tallyAdd (.ms m) c 2 2048) := by
  change execScrubUnit c (.ms m) s = _
  simp only [execScrubUnit, hk, scrubUnit_goes hp h2, hup, hu, hid]
  rfl

theorem exec_scrubUnit_near {m : Fin 12} {n : Fin 132} (hup : s.stationUp m = true)
    (hu : k.unitOf m (k.written m.1) = some (false, a)) (hn : s.nearSliceOf m = some n) :
    exec (.scrubUnit c (.ms m)) s = .next ((unitTaken (s.naccWrite (.ms m) n 16384 a
      (scrubUnitBytes (keyBytes k.key) m.1 (a / 16) k.serial.toNat)) c k m.1).tallyAdd (.ms m) c 2 2048) := by
  change execScrubUnit c (.ms m) s = _
  simp only [execScrubUnit, hk, scrubUnit_goes hp h2, hup, hu, hn]
  rfl

/-- With no station working the hub writes, as station 15 in the counter block (assumption 122). -/
theorem exec_scrubUnit_hub (hw : k.working = [])
    (hu : unitAt (k.extents.filter (fun e => e.station.isNone)) (k.written 12) = some a) :
    exec (.scrubUnit c .hub) s = .next ((unitTaken (s.cRequest true a 2048
      (scrubUnitBytes (keyBytes k.key) 15 (a / 16) k.serial.toNat) .other) c k 12).tallyAdd .hub c 2 2048) := by
  change execScrubUnit c .hub s = _
  have hnone : (!k.working.isEmpty) = false := by simp [hw]
  simp only [execScrubUnit, hk, scrubUnit_goes hp h2, hnone, hu]
  rfl

end

end

/-- Settles O46: the row by its unit and by where the unit's next address lies. -/
theorem scrubUnits : Obligations.ScrubUnits := fun _ _ _ _ hp hk h2 =>
  ⟨fun _ _ => exec_scrubUnit_stack hp h2 hk, fun _ _ => exec_scrubUnit_near hp h2 hk, exec_scrubUnit_hub hp h2 hk⟩

end Sys2Proof.Machine
end

section
/-! SUPPORT. quiesce_command: DRAIN, RESUME and HALT, and what HALT leaves of a dispatched step (R288, R491, R492, Table 12-9). -/
namespace Sys2Proof.Machine

/-! ### The write of quiesce_command -/

section
variable {s : State} {v : Nat} {rot : Bool}

/-- The write of quiesce_command. -/
def quiesceFrame (seq : BitVec 8) (v : Nat) : HReq := writeFrame seq 0x2000 1 1 v

/-- Every check takes the three commands of Table 12-9, with h_rot high or low. -/
theorem State.judge_quiesceFrame (hp : s.phase = .ready) (seq : BitVec 8) (hv : 1 ≤ v) (hv3 : v ≤ 3) :
    s.judge (quiesceFrame seq v) rot = 0x40 := by
  have hmod : v % 256 = v := Nat.mod_eq_of_lt (by omega)
  have hobj : objOf s.hub.mirrorRecord.length 0x2000 1 = some ⟨.u8, .wo⟩ := rfl
  have hvalue : s.valueOk ⟨.u8, .wo⟩ 0x2000 1 v = true := by
    unfold State.valueOk
    simp [within, hv, hv3]
  have hstate : s.stateOk { quiesceFrame seq v with value := v } = true := by
    unfold State.stateOk
    simp [quiesceFrame, writeFrame, within]
  simp only [quiesceFrame, writeFrame] at hstate
  simp [State.judge, quiesceFrame, writeFrame, hp, hobj, typeOk, HReq.segmented, HReq.writes, Ty.segmented, Ty.width, hmod,
    measuredPairs, hvalue, hstate, State.notBusy]

theorem State.hFrame_quiesceFrame (hp : s.phase = .ready) (seq : BitVec 8) (hv : 1 ≤ v) (hv3 : v ≤ 3) :
    s.hFrame (quiesceFrame seq v) rot = (s.quiesceCmd v).answered (quiesceFrame seq v) 0x40 0 := by
  have hmod : v % 256 = v := Nat.mod_eq_of_lt (by omega)
  have hkey : (quiesceFrame seq v).isKeyCommand = false := HReq.not_isKeyCommand (.inl (by simp [quiesceFrame, writeFrame]))
  rw [State.hFrame_of_write hp (State.judge_quiesceFrame hp seq hv hv3) (by simp [quiesceFrame, writeFrame]) rfl hkey]
  simp [State.applyWrite, quiesceFrame, writeFrame, HReq.segmented, hmod, State.writeScalar, within, measuredPairs]

end

/-! ### Draining (Table 12-9) -/

/-- The block drains: QUIESCED when no step is dispatched and unfinished, or already, else DRAINING. -/
def State.drain (s : State) : State :=
  s.modHub (fun h => { h with quiesce := if s.quiescent then .quiesced else .draining })

theorem State.drain_eq (s : State) :
    (s.modHub (fun h => { h with quiesce := if h.quiesce == .running then .draining else h.quiesce })).settleQuiesce = s.drain := by
  unfold State.settleQuiesce State.drain State.quiescent
  cases hq : s.hub.quiesce <;> cases ha : s.hub.steps.all (fun x => !x.unfinished) <;> simp [State.modHub, hq, ha]

theorem State.quiescent_iff (s : State) :
    s.quiescent = true ↔ s.hub.quiesce = .quiesced ∨ s.hub.steps.all (fun x => !x.unfinished) = true := by
  simp only [State.quiescent, Bool.or_eq_true, beq_iff_eq]

theorem State.drain_quiesced {s : State} (h : s.quiescent = true) : s.drain.hub.quiesce = .quiesced := if_pos h

theorem State.drain_draining {s : State} (h : ¬ s.quiescent = true) : s.drain.hub.quiesce = .draining := if_neg h

/-! ### The condition ABORTED, cause LAST_WORD (R288, R492) -/

/-- The condition of a halted step. -/
def lastWordCond : Cond := { status := 0x3F, cause := 0x03, tile := none }

theorem enterCond_lastWord_idem (cs : List Cond) : enterCond lastWordCond (enterCond lastWordCond cs) = enterCond lastWordCond cs := by
  induction cs with
  | nil => rfl
  | cons d ds ih =>
    by_cases hd : d.status = 0x3F
    · simp [enterCond, lastWordCond, hd]
    · have hne : (d.status == lastWordCond.status) = false := by simpa [lastWordCond] using hd
      simp [enterCond, hne, ih]

/-- A condition of a status not met before goes to the end. -/
theorem enterCond_of_new {c : Cond} {cs : List Cond} (h : ∀ d ∈ cs, d.status ≠ c.status) : enterCond c cs = cs ++ [c] := by
  induction cs with
  | nil => rfl
  | cons d ds ih =>
    obtain ⟨hd, hds⟩ := List.forall_mem_cons.1 h
    simp [enterCond, hd, ih hds]

theorem statusRank_of_ne_aborted {a : Nat} (h : a ≠ 0x3F) : 1 < statusRank a := by
  unfold statusRank
  split <;> omega

theorem outranks_aborted {a : Nat} (h : a ≠ 0x3F) : outranks 0x3F a = true := by
  have hrank : statusRank 0x3F < statusRank a := statusRank_of_ne_aborted h
  simp [outranks, hrank]

theorem not_outranks_aborted (a : Nat) : outranks a 0x3F = false := by
  by_cases h : a = 0x3F
  · subst h; rfl
  · have hrank : 1 < statusRank a := statusRank_of_ne_aborted h
    have h1 : statusRank 0x3F = 1 := rfl
    simp only [outranks, h1, Bool.or_eq_false_iff, Bool.and_eq_false_iff, decide_eq_false_iff_not, beq_eq_false_iff_ne]
    omega

/-- The better status of the best so far and a condition's. -/
def betterStatus (acc : Nat) (c : Cond) : Nat := if outranks c.status acc then c.status else acc

theorem bestStatus_of_aborted {cs : List Cond} (h : ∃ c ∈ cs, c.status = 0x3F) : bestStatus cs = 0x3F := by
  have hstays : ∀ ds : List Cond, ds.foldl betterStatus 0x3F = 0x3F := fun ds => by
    induction ds with
    | nil => rfl
    | cons d ds ih => rw [List.foldl_cons, betterStatus, not_outranks_aborted, if_neg (by decide), ih]
  have hreached : ∀ acc, (∃ c ∈ cs, c.status = 0x3F) → cs.foldl betterStatus acc = 0x3F := by
    induction cs with
    | nil => simp
    | cons d ds ih =>
      intro acc hex
      obtain ⟨c, hc, hst⟩ := hex
      rw [List.foldl_cons]
      rcases List.mem_cons.1 hc with rfl | hmem
      · have hnow : betterStatus acc c = 0x3F := by
          by_cases hacc : acc = 0x3F
          · simp [betterStatus, hst, hacc]
          · simp [betterStatus, hst, outranks_aborted hacc]
        rw [hnow, hstays]
      · exact ih ⟨c, hmem, hst⟩ _ ⟨c, hmem, hst⟩
  exact hreached 0 h

/-- One ABORTED condition among others is the one reported (R288). -/
theorem bestCond_of_one_aborted {cs : List Cond} (h : cs.filter (fun c => c.status == 0x3F) = [lastWordCond]) :
    bestCond cs = lastWordCond := by
  have hmem : lastWordCond ∈ cs.filter (fun c => c.status == 0x3F) := h ▸ List.mem_singleton_self _
  have hbest : bestStatus cs = 0x3F := bestStatus_of_aborted ⟨_, (List.mem_filter.1 hmem).1, rfl⟩
  unfold bestCond
  rw [hbest, h]
  rfl

theorem Flags.conds_not_aborted (f : Flags) : ∀ c ∈ f.conds, c.status ≠ 0x3F := by
  unfold Flags.conds
  cases f.clipped <;> cases f.poisoned <;> cases f.frogged <;> cases f.markLost <;> simp

/-- A step that met no ABORTED condition before reports LAST_WORD, whatever its flags stand for. -/
theorem Step.bestCond_of_lastWord {x : Step} {cs : List Cond} (hx : x.conds = enterCond lastWordCond cs)
    (hcs : ∀ c ∈ cs, c.status ≠ 0x3F) : bestCond x.allConds = lastWordCond := by
  have hfold : ∀ (fs l : List Cond), (∀ c ∈ fs, c.status ≠ 0x3F) → l.filter (fun c => c.status == 0x3F) = [lastWordCond] →
      (fs.foldl (fun l c => if l.any (fun d => d.status == c.status) then l else l ++ [c]) l).filter (fun c => c.status == 0x3F)
        = [lastWordCond] := fun fs => by
    induction fs with
    | nil => exact fun _ _ h => h
    | cons c fs ih =>
      intro l hfs hl
      obtain ⟨hc, hrest⟩ := List.forall_mem_cons.1 hfs
      refine ih _ hrest ?_
      dsimp only
      split
      · exact hl
      · simp [List.filter_append, hl, hc]
  refine bestCond_of_one_aborted (hfold _ _ x.flags.conds_not_aborted ?_)
  have hnone : cs.filter (fun c => c.status == 0x3F) = [] := by simpa using hcs
  rw [hx, enterCond_of_new (c := lastWordCond) hcs, List.filter_append, hnone]
  rfl

/-! ### HALT of one step (R491, R492) -/

/-- A share ended where it stands. -/
def Share.halted (h : Share) : Share :=
  { h with stop := some 0, inDone := true, queue := [], block := none, recvHeld := [], out := [], coded := [], linkOut := [], spillHeld := [], merge := none }

/-- What ends a share where it stands: nothing more of it is granted, coded or sent. -/
def Share.IsHalted (h : Share) : Prop :=
  h.stop = some 0 ∧ h.inDone = true ∧ h.queue = [] ∧ h.coded = [] ∧ h.out = [] ∧ h.merge = none

theorem Share.isHalted_halted (h : Share) : h.halted.IsHalted := ⟨rfl, rfl, rfl, rfl, rfl, rfl⟩

section
variable (s : State) (x : Step)

theorem State.haltStep_step?_other {k : Nat} (hk : k ≠ x.slot) : (s.haltStep x).step? k = s.step? k := by
  unfold State.haltStep
  extract_lets s1 s2 sending done s3
  rw [State.modStep_other _ _ _ _ (fun _ => by rfl) hk]
  exact State.modStep_other s _ _ _ (fun _ => rfl) hk

/-- The halted step keeps its phase and flags, has the condition, and has nothing left to do, to miss or to wait for. -/
theorem State.haltStep_step?_same {y : Step} (hy : s.step? x.slot = some y) : ∃ z, (s.haltStep x).step? x.slot = some z ∧
    z.phase = y.phase ∧ z.flags = y.flags ∧ z.conds = enterCond lastWordCond y.conds ∧ z.toDo = 0 ∧ z.miss = none ∧ z.asked = [] := by
  unfold State.haltStep
  extract_lets s1 s2 sending done s3
  have hs3 : s3.step? x.slot = some (y.addCond lastWordCond) := by
    have h := State.modStep_step?_same s (slot := x.slot) (f := fun z => z.addCond lastWordCond) (fun _ => rfl)
    rwa [hy, Option.map_some] at h
  rw [State.modStep_step?_same _ (fun _ => by rfl), hs3, Option.map_some]
  exact ⟨_, rfl, rfl, rfl, rfl, rfl, rfl, rfl⟩

/-- Every share there is after the halt was there before: a halted one of the step, any other as it was. -/
theorem State.haltStep_shares (n : Fin 132) : ∀ h ∈ ((s.haltStep x).slice n).shares,
    ∃ g ∈ (s.slice n).shares, h = if g.slot == x.slot then g.halted else g := by
  unfold State.haltStep
  extract_lets s1 s2 sending done s3
  intro h hh
  have hmem : h ∈ (s1.slice n).shares := by
    have hs3 : h ∈ (s3.slices[n.1]).shares := hh
    simp only [s3, Vector.getElem_map] at hs3
    exact (List.mem_filter.1 hs3).1
  simp only [s1, State.haltShares, State.modShares, State.slice, Vector.getElem_map, List.mem_map] at hmem
  obtain ⟨g, hg, rfl⟩ := hmem
  exact ⟨g, hg, rfl⟩

theorem State.haltStep_unfinished :
    (s.haltStep x).hub.steps.map Step.unfinished = s.hub.steps.map Step.unfinished := by
  have hmod : ∀ (t : State) (f : Step → Step), (∀ y, (f y).unfinished = y.unfinished) →
      (t.modStep x.slot f).hub.steps.map Step.unfinished = t.hub.steps.map Step.unfinished := fun t f hf => by
    simp only [State.modStep, State.modHub_hub, List.map_map]
    refine List.map_congr_left fun y _ => ?_
    dsimp only [Function.comp]
    split
    · exact hf y
    · rfl
  unfold State.haltStep
  extract_lets s1 s2 sending done s3
  rw [hmod _ _ (fun _ => by rfl)]
  exact hmod s (fun y => y.addCond lastWordCond) (fun _ => rfl)

end

end Sys2Proof.Machine
end

section
/-! SUPPORT. quiesce_command: HALT of every dispatched step, and O51's first half (R288, R491, R492, Table 12-9). -/
namespace Sys2Proof.Machine

/-! ### HALT of all steps -/

/-- What a fold that treats one item does: an invariant until the item's turn, the result from there on. -/
theorem State.each_reaches {α : Type} {I H : State → Prop} {f : State → α → State} {x : α} (hbefore : ∀ t y, I t → I (f t y))
    (hat : ∀ t, I t → H (f t x)) (hafter : ∀ t y, H t → H (f t y)) {xs : List α} (hx : x ∈ xs) {s : State} (hs : I s) :
    H (s.each xs f) := by
  have hkeeps : ∀ (ys : List α) (t : State), H t → H (t.each ys f) := fun ys => by
    induction ys with
    | nil => exact fun _ h => h
    | cons y ys ih => exact fun t h => ih _ (hafter t y h)
  induction xs generalizing s with
  | nil => simp at hx
  | cons y ys ih =>
    rcases List.mem_cons.1 hx with rfl | hmem
    · exact hkeeps ys _ (hat s hs)
    · exact ih hmem (hbefore s y hs)

/-- What no HALT of a step touches. -/
structure KeepsQuiesce (s t : State) : Prop where
  ctxs : t.ctxs = s.ctxs
  stores : s.sameStores t
  quiesce : t.hub.quiesce = s.hub.quiesce
  unfinished : t.hub.steps.map Step.unfinished = s.hub.steps.map Step.unfinished

theorem KeepsQuiesce.refl (s : State) : KeepsQuiesce s s := ⟨rfl, State.sameStores_refl, rfl, rfl⟩

theorem KeepsQuiesce.trans {s t u : State} (h : KeepsQuiesce s t) (k : KeepsQuiesce t u) : KeepsQuiesce s u :=
  ⟨k.ctxs.trans h.ctxs, h.stores.trans k.stores, k.quiesce.trans h.quiesce, k.unfinished.trans h.unfinished⟩

theorem KeepsQuiesce.haltStep (s : State) (x : Step) : KeepsQuiesce s (s.haltStep x) :=
  ⟨rfl, State.sameStores_refl, rfl, s.haltStep_unfinished x⟩

theorem KeepsQuiesce.quiescent {s t : State} (h : KeepsQuiesce s t) : t.quiescent = s.quiescent := by
  have hall : ∀ u : State, u.hub.steps.all (fun x => !x.unfinished) = (u.hub.steps.map Step.unfinished).all (!·) := fun u => by
    rw [List.all_map]; rfl
  rw [State.quiescent, State.quiescent, h.quiesce, hall, hall, h.unfinished]

/-- Every step the hub dispatched, but a RESUME, is halted. -/
def State.haltAll (s : State) : State :=
  s.each (s.hub.steps.filter (fun x => x.running && x.target.isNone)) (fun t x => t.haltStep x)

theorem State.haltAll_keeps (s : State) : KeepsQuiesce s s.haltAll :=
  State.each_related KeepsQuiesce.refl (fun _ _ _ => KeepsQuiesce.trans) KeepsQuiesce.haltStep _ s

/-- The step as it was dispatched, halted already or not. -/
def State.Halting (x : Step) (t : State) : Prop :=
  ∃ y, t.step? x.slot = some y ∧ y.phase = x.phase ∧ y.flags = x.flags ∧
    (y.conds = x.conds ∨ y.conds = enterCond lastWordCond x.conds)

/-- The step is halted, and so are its shares. -/
def State.Halted (x : Step) (t : State) : Prop :=
  (∃ y, t.step? x.slot = some y ∧ y.phase = x.phase ∧ y.flags = x.flags ∧ y.conds = enterCond lastWordCond x.conds ∧
    y.toDo = 0 ∧ y.miss = none ∧ y.asked = []) ∧
  ∀ (n : Fin 132), ∀ h ∈ (t.slice n).shares, h.slot = x.slot → h.IsHalted

section
variable {x : Step} {t : State}

/-- HALT of a step of this slot number halts it, again or for the first time. -/
theorem State.Halting.haltStep_halted (h : t.Halting x) {y : Step} (hy : y.slot = x.slot) : (t.haltStep y).Halted x := by
  obtain ⟨z, hz, hphase, hflags, hconds⟩ := h
  obtain ⟨w, hw, hp, hf, hc, htodo, hmiss, hasked⟩ := t.haltStep_step?_same y (hy ▸ hz)
  have hlast : w.conds = enterCond lastWordCond x.conds := by
    rcases hconds with h | h
    · rw [hc, h]
    · rw [hc, h, enterCond_lastWord_idem]
  refine ⟨⟨w, hy ▸ hw, hp.trans hphase, hf.trans hflags, hlast, htodo, hmiss, hasked⟩, fun n h hh hslot => ?_⟩
  obtain ⟨g, -, rfl⟩ := t.haltStep_shares y n h hh
  by_cases hg : g.slot = y.slot
  · simpa [hg] using g.isHalted_halted
  · simp only [beq_iff_eq, if_neg hg] at hslot
    exact absurd (hslot.trans hy.symm) hg

theorem State.Halted.halting (h : t.Halted x) : t.Halting x := by
  obtain ⟨⟨y, hy, hphase, hflags, hconds, -⟩, -⟩ := h
  exact ⟨y, hy, hphase, hflags, .inr hconds⟩

theorem State.Halting.haltStep (h : t.Halting x) (y : Step) : (t.haltStep y).Halting x := by
  by_cases hy : y.slot = x.slot
  · exact (h.haltStep_halted hy).halting
  · obtain ⟨z, hz, hrest⟩ := h
    exact ⟨z, (t.haltStep_step?_other y (Ne.symm hy)).trans hz, hrest⟩

theorem State.Halted.haltStep (h : t.Halted x) (y : Step) : (t.haltStep y).Halted x := by
  by_cases hy : y.slot = x.slot
  · exact h.halting.haltStep_halted hy
  · obtain ⟨⟨z, hz, hrest⟩, hshares⟩ := h
    refine ⟨⟨z, (t.haltStep_step?_other y (Ne.symm hy)).trans hz, hrest⟩, fun n h hh hslot => ?_⟩
    obtain ⟨g, hg, rfl⟩ := t.haltStep_shares y n h hh
    by_cases hgy : g.slot = y.slot
    · simpa [hgy] using g.isHalted_halted
    · simp only [beq_iff_eq, if_neg hgy] at hslot ⊢
      exact hshares n g hg hslot

end

/-- HALT reaches every dispatched step (R491). -/
theorem State.haltAll_halted {s : State} {slot : Nat} {x : Step} (hx : s.step? slot = some x) (hrun : x.running = true)
    (htarget : x.target = none) : s.haltAll.Halted x ∧ x.slot = slot := by
  have hmem : x ∈ s.hub.steps := List.mem_of_find?_eq_some hx
  have hslot : x.slot = slot := by simpa using List.find?_some hx
  have hhalting : s.Halting x := ⟨x, hslot ▸ hx, rfl, rfl, .inl rfl⟩
  refine ⟨?_, hslot⟩
  exact State.each_reaches (I := State.Halting x) (fun _ y h => h.haltStep y) (fun _ h => h.haltStep_halted rfl)
    (fun _ y h => h.haltStep y) (List.mem_filter.2 ⟨hmem, by simp [hrun, htarget]⟩) hhalting

/-! ### The three commands -/

section
variable {s : State} (hp : s.phase = .ready) (seq : BitVec 8) (rot : Bool)
include hp

theorem exec_drain : exec (.drain seq rot) s = .next (s.drain.answered (quiesceFrame seq 1) 0x40 0) := by
  change Host.Outcome.next (s.hFrame (quiesceFrame seq 1) rot) = _
  rw [State.hFrame_quiesceFrame hp seq (by omega) (by omega), ← State.drain_eq]
  rfl

theorem exec_quiesceResume : exec (.quiesceResume seq rot) s =
    .next ((s.modHub (fun h => { h with quiesce := .running })).answered (quiesceFrame seq 2) 0x40 0) := by
  change Host.Outcome.next (s.hFrame (quiesceFrame seq 2) rot) = _
  rw [State.hFrame_quiesceFrame hp seq (by omega) (by omega)]
  rfl

theorem exec_halt : exec (.halt seq rot) s = .next (s.haltAll.drain.answered (quiesceFrame seq 3) 0x40 0) := by
  change Host.Outcome.next (s.hFrame (quiesceFrame seq 3) rot) = _
  rw [State.hFrame_quiesceFrame hp seq (by omega) (by omega), ← State.drain_eq]
  rfl

/-- DRAIN: QUIESCED when nothing is dispatched and unfinished, DRAINING otherwise. -/
theorem drain_drains : ∃ t, exec (.drain seq rot) s = .next t ∧ t.hub.response = some ((quiesceFrame seq 1).response 0x40 0) ∧
    (s.quiescent = true → t.hub.quiesce = .quiesced) ∧ (¬ s.quiescent = true → t.hub.quiesce = .draining) ∧
    t.hub.steps = s.hub.steps ∧ t.ctxs = s.ctxs ∧ t.slices = s.slices ∧ s.sameStores t :=
  ⟨_, exec_drain hp seq rot, rfl, State.drain_quiesced, State.drain_draining, rfl, rfl, rfl, State.sameStores_refl⟩

/-- HALT: every dispatched step ends ABORTED, its shares where they stand, and the block drains. -/
theorem halt_halts : ∃ t, exec (.halt seq rot) s = .next t ∧ t.hub.response = some ((quiesceFrame seq 3).response 0x40 0) ∧
    (s.quiescent = true → t.hub.quiesce = .quiesced) ∧ (¬ s.quiescent = true → t.hub.quiesce = .draining) ∧
    t.ctxs = s.ctxs ∧ s.sameStores t ∧
    ∀ (slot : Nat) (x : Step), s.step? slot = some x → x.running = true → x.target = none → ∃ y, t.step? slot = some y ∧
      y.running = true ∧ y.toDo = 0 ∧ y.miss = none ∧ y.asked = [] ∧ y.conds = enterCond lastWordCond x.conds ∧
      ((∀ c ∈ x.conds, c.status ≠ 0x3F) → (bestCond y.allConds).status = 0x3F ∧ (bestCond y.allConds).cause = 0x03) ∧
      ∀ (n : Fin 132), ∀ h ∈ (t.slice n).shares, h.slot = slot → h.IsHalted := by
  have hkeeps : KeepsQuiesce s s.haltAll := s.haltAll_keeps
  have hq : s.haltAll.quiescent = s.quiescent := hkeeps.quiescent
  refine ⟨_, exec_halt hp seq rot, rfl, fun h => State.drain_quiesced (hq.trans h),
    fun h => State.drain_draining (fun k => h (hq.symm.trans k)), hkeeps.ctxs, hkeeps.stores, fun slot x hx hrun htarget => ?_⟩
  obtain ⟨⟨⟨y, hy, hphase, -, hconds, htodo, hmiss, hasked⟩, hshares⟩, hslot⟩ := State.haltAll_halted hx hrun htarget
  rw [hslot] at hy hshares
  have hrunning : y.running = true := by rw [Step.running, hphase]; exact hrun
  refine ⟨y, hy, hrunning, htodo, hmiss, hasked, hconds, fun hnew => ?_, hshares⟩
  rw [Step.bestCond_of_lastWord hconds hnew]
  exact ⟨rfl, rfl⟩

end

/-- The quiesce commands (R491, R492, Table 12-9). -/
theorem quiesceCommands : Claims.QuiesceCommands := by
  intro seq rot s hp
  simp only [← State.quiescent_iff]
  exact ⟨drain_drains hp seq rot, exec_quiesceResume hp seq rot, halt_halts hp seq rot⟩

end Sys2Proof.Machine
end

section
/-! SUPPORT. station_enable and link_enable, and O51 (R378, R443, Table 12-9). -/
namespace Sys2Proof.Machine

/-! ### The accepted write of an enable register -/

section
variable {s : State} {sub : Nat} (v : BitVec 16)

/-- The write of station_enable (subindex 0x10) or link_enable (0x11). -/
def enableFrame (seq : BitVec 8) (sub : Nat) (v : BitVec 16) : HReq := writeFrame seq 0x2000 sub 2 v.toNat

/-- The block in the window of RWB, h_rot high: only the value can be refused. -/
theorem State.judge_enableFrame (hp : s.phase = .ready) (hq : s.quiescent = true) (seq : BitVec 8)
    (hsub : sub = 0x10 ∨ sub = 0x11) (hv : s.valueOk ⟨.bits16, .rwb⟩ 0x2000 sub v.toNat = true) :
    s.judge (enableFrame seq sub v) true = 0x40 := by
  have hmod : v.toNat % 65536 = v.toNat := Nat.mod_eq_of_lt v.isLt
  have hobj : objOf s.hub.mirrorRecord.length 0x2000 sub = some ⟨.bits16, .rwb⟩ := by rcases hsub with rfl | rfl <;> rfl
  have hwindow : s.inWindow 0x2000 sub = true := by
    unfold State.inWindow
    simp [within, hq]
  have hstate : s.stateOk { enableFrame seq sub v with value := v.toNat } = true := by
    unfold State.stateOk
    rcases hsub with rfl | rfl <;> simp [enableFrame, writeFrame, within]
  simp only [enableFrame, writeFrame] at hstate
  simp [State.judge, enableFrame, writeFrame, hp, hobj, typeOk, HReq.segmented, HReq.writes, Ty.segmented, Ty.width, hmod,
    hwindow, hv, hstate, State.notBusy]

/-- The value taken, and the measurement stale when it is another one than before. -/
theorem State.applyWrite_enableFrame (seq : BitVec 8) (hsub : sub = 0x10 ∨ sub = 0x11) :
    s.applyWrite (enableFrame seq sub v) =
      if (s.writeScalar 0x2000 sub v.toNat).readScalar 0x2000 sub = s.readScalar 0x2000 sub then s.writeScalar 0x2000 sub v.toNat
      else (s.writeScalar 0x2000 sub v.toNat).modHub (fun h => { h with stale := true }) := by
  have hmod : v.toNat % 65536 = v.toNat := Nat.mod_eq_of_lt v.isLt
  have hmeasured : measuredPairs.contains (0x2000, sub) = true := by rcases hsub with rfl | rfl <;> rfl
  simp only [State.applyWrite, enableFrame, writeFrame, HReq.segmented, hmeasured]
  simp [hmod]

theorem State.hFrame_enableFrame (hp : s.phase = .ready) (hq : s.quiescent = true) (seq : BitVec 8)
    (hsub : sub = 0x10 ∨ sub = 0x11) (hv : s.valueOk ⟨.bits16, .rwb⟩ 0x2000 sub v.toNat = true) :
    s.hFrame (enableFrame seq sub v) true = (s.applyWrite (enableFrame seq sub v)).answered (enableFrame seq sub v) 0x40 0 :=
  State.hFrame_of_write hp (State.judge_enableFrame v hp hq seq hsub hv) (by simp [enableFrame, writeFrame]) rfl
    (HReq.not_isKeyCommand (.inl (by simp [enableFrame, writeFrame])))

end

/-! ### What the two registers read, and how each takes a value -/

section
variable (s : State)

theorem State.readScalar_stationEnable : s.readScalar 0x2000 0x10 = s.hub.dict.stationEnable.toNat := by
  unfold State.readScalar
  rfl

theorem State.readScalar_linkEnable : s.readScalar 0x2000 0x11 = s.hub.dict.linkEnable.toNat := by
  unfold State.readScalar
  rfl

end

/-- A station back in service, unless a port of it is disabled (R443). -/
def State.stationOn (s : State) (m : Fin 12) : State :=
  s.modStation m (fun x => { x with failed := x.mVer == .disabled || x.fVer == .disabled })

/-- A link station back in service, unless a port of it is disabled (R443). -/
def State.linkOn (s : State) (l : Fin 16) : State :=
  s.modLink l (fun x => { x with failed := x.lVer == .disabled || x.fVer == .disabled })

/-- The units of the bits that `v` has and `old` has not. -/
def newlySet (n old v : Nat) : List (Fin n) := (allFin n).filter (fun i => !bitAt old i.1 && bitAt v i.1)

/-- The units of the bits that `old` has and `v` has not. -/
def newlyClear (n old v : Nat) : List (Fin n) := (allFin n).filter (fun i => bitAt old i.1 && !bitAt v i.1)

/-- The stations as station_enable `v` leaves them. -/
def State.switchStations (s : State) (v : Nat) : State :=
  (s.each (newlyClear 12 s.hub.dict.stationEnable.toNat v) State.failStation).each
    (newlySet 12 s.hub.dict.stationEnable.toNat v) State.stationOn

/-- The link stations as link_enable `v` leaves them. -/
def State.switchLinks (s : State) (v : Nat) : State :=
  (s.each (newlyClear 16 s.hub.dict.linkEnable.toNat v) State.failLink).each
    (newlySet 16 s.hub.dict.linkEnable.toNat v) State.linkOn

theorem State.writeScalar_stationEnable (s : State) (v : Nat) : s.writeScalar 0x2000 0x10 v = (s.switchStations v).modHub
    (fun h => { h with dict := { h.dict with stationEnable := BitVec.ofNat 16 (v % 2 ^ 12) } }) := by
  unfold State.writeScalar
  rfl

theorem State.writeScalar_linkEnable (s : State) (v : Nat) : s.writeScalar 0x2000 0x11 v = (s.switchLinks v).modHub
    (fun h => { h with dict := { h.dict with linkEnable := BitVec.ofNat 16 v } }) := by
  unfold State.writeScalar
  rfl

theorem State.valueOk_stationEnable (s : State) (v : Nat) : s.valueOk ⟨.bits16, .rwb⟩ 0x2000 0x10 v = s.stationsOk v := by
  unfold State.valueOk
  simp [within]

theorem State.valueOk_linkEnable (s : State) (v : Nat) : s.valueOk ⟨.bits16, .rwb⟩ 0x2000 0x11 v = s.linksOk v := by
  unfold State.valueOk
  simp [within]

/-- A write that makes the measurement stale when the value changes, as one change of the hub. -/
theorem State.modHub_stale (t : State) (f : Hub → Hub) (a b : BitVec 16) :
    (if a = b then t.modHub f else (t.modHub f).modHub (fun h => { h with stale := true })) =
      t.modHub (fun h => { f h with stale := (f h).stale || a != b }) := by
  split
  next h => simp [h]
  next h =>
    have hne : (a != b) = true := by simpa using h
    simp [hne, State.modHub]

theorem State.applyWrite_stationEnable (s : State) (v : BitVec 16) (seq : BitVec 8) :
    s.applyWrite (enableFrame seq 0x10 v) = (s.switchStations v.toNat).modHub (fun h =>
      { h with dict := { h.dict with stationEnable := BitVec.ofNat 16 (v.toNat % 2 ^ 12) }
               stale := h.stale || BitVec.ofNat 16 (v.toNat % 2 ^ 12) != s.hub.dict.stationEnable }) := by
  rw [State.applyWrite_enableFrame v seq (.inl rfl)]
  simp only [State.readScalar_stationEnable, State.writeScalar_stationEnable, State.modHub_hub, BitVec.toNat_inj]
  exact State.modHub_stale ..

theorem State.applyWrite_linkEnable (s : State) (v : BitVec 16) (seq : BitVec 8) :
    s.applyWrite (enableFrame seq 0x11 v) = (s.switchLinks v.toNat).modHub (fun h =>
      { h with dict := { h.dict with linkEnable := BitVec.ofNat 16 v.toNat }
               stale := h.stale || BitVec.ofNat 16 v.toNat != s.hub.dict.linkEnable }) := by
  rw [State.applyWrite_enableFrame v seq (.inr rfl)]
  simp only [State.readScalar_linkEnable, State.writeScalar_linkEnable, State.modHub_hub, BitVec.toNat_inj]
  exact State.modHub_stale ..

/-! ### A unit back in service -/

/-- A station is failed exactly when a port of it is disabled. -/
def State.ServesStation (m : Fin 12) (t : State) : Prop :=
  (t.station m).failed = ((t.station m).mVer == .disabled || (t.station m).fVer == .disabled)

/-- A link station is failed exactly when a port of it is disabled. -/
def State.ServesLink (l : Fin 16) (t : State) : Prop :=
  (t.link l).failed = ((t.link l).lVer == .disabled || (t.link l).fVer == .disabled)

theorem State.stationOn_serves (t : State) (m : Fin 12) : (t.stationOn m).ServesStation m := by
  simp [State.ServesStation, State.stationOn]

theorem State.linkOn_serves (t : State) (l : Fin 16) : (t.linkOn l).ServesLink l := by
  simp [State.ServesLink, State.linkOn]

theorem State.ServesStation.stationOn {t : State} {m : Fin 12} (h : t.ServesStation m) (i : Fin 12) :
    (t.stationOn i).ServesStation m := by
  by_cases hi : m = i
  · exact hi ▸ t.stationOn_serves m
  · rw [State.ServesStation, State.stationOn, State.modStation_other _ _ _ _ hi]
    exact h

theorem State.ServesLink.linkOn {t : State} {l : Fin 16} (h : t.ServesLink l) (i : Fin 16) :
    (t.linkOn i).ServesLink l := by
  by_cases hi : l = i
  · exact hi ▸ t.linkOn_serves l
  · rw [State.ServesLink, State.linkOn, State.modLink_other _ _ _ _ hi]
    exact h

/-- Every station newly set serves again, whatever came before. -/
theorem State.each_stationOn_serves {ms : List (Fin 12)} (s : State) : ∀ m ∈ ms, (s.each ms State.stationOn).ServesStation m :=
  fun m hm => State.each_reaches (I := fun _ => True) (fun _ _ _ => trivial) (fun t _ => t.stationOn_serves m)
    (fun _ i h => h.stationOn i) hm trivial

/-- Every link station newly set serves again, whatever came before. -/
theorem State.each_linkOn_serves {ls : List (Fin 16)} (s : State) : ∀ l ∈ ls, (s.each ls State.linkOn).ServesLink l :=
  fun l hl => State.each_reaches (I := fun _ => True) (fun _ _ _ => trivial) (fun t _ => t.linkOn_serves l)
    (fun _ i h => h.linkOn i) hl trivial

/-! ### The two commands -/

section
variable {s : State} (v : BitVec 16) (seq : BitVec 8)

theorem exec_stationEnableWrite (hp : s.phase = .ready) (hq : s.quiescent = true) (hv : s.stationsOk v.toNat = true) :
    exec (.stationEnableWrite v seq true) s = .next (((s.switchStations v.toNat).modHub (fun h =>
      { h with dict := { h.dict with stationEnable := BitVec.ofNat 16 (v.toNat % 2 ^ 12) }
               stale := h.stale || BitVec.ofNat 16 (v.toNat % 2 ^ 12) != s.hub.dict.stationEnable })).answered
      (enableFrame seq 0x10 v) 0x40 0) := by
  change Host.Outcome.next (s.hFrame (enableFrame seq 0x10 v) true) = _
  rw [State.hFrame_enableFrame v hp hq seq (.inl rfl) ((s.valueOk_stationEnable _).trans hv), State.applyWrite_stationEnable]

theorem exec_linkEnableWrite (hp : s.phase = .ready) (hq : s.quiescent = true) (hv : s.linksOk v.toNat = true) :
    exec (.linkEnableWrite v seq true) s = .next (((s.switchLinks v.toNat).modHub (fun h =>
      { h with dict := { h.dict with linkEnable := BitVec.ofNat 16 v.toNat }
               stale := h.stale || BitVec.ofNat 16 v.toNat != s.hub.dict.linkEnable })).answered
      (enableFrame seq 0x11 v) 0x40 0) := by
  change Host.Outcome.next (s.hFrame (enableFrame seq 0x11 v) true) = _
  rw [State.hFrame_enableFrame v hp hq seq (.inr rfl) ((s.valueOk_linkEnable _).trans hv), State.applyWrite_linkEnable]

end

/-- station_enable and link_enable (R378, R443, Table 12-9). -/
theorem unitEnables : Claims.UnitEnables := by
  intro v seq s hp hq
  constructor
  · intro hv
    exact ⟨exec_stationEnableWrite v seq hp hq hv, State.each_stationOn_serves _⟩
  · intro hv
    exact ⟨exec_linkEnableWrite v seq hp hq hv, State.each_linkOn_serves _⟩

/-- Settles O51: a frame of each command passes the checks and its effect is the command's; the halt of a step is followed through the
fold over all dispatched ones, and so is a unit's return to service. -/
theorem quiesceAndEnables : Obligations.QuiesceAndEnables := ⟨quiesceCommands, unitEnables⟩

end Sys2Proof.Machine
end

section
/-! SUPPORT. ITEM_RELEASE, RELEASE_RECORD, RELEASE_RING_POLL and PREV_SLOT_RELEASE: what leaves the retired items, how the releases
reach the release ring, and when the previous key slot is free (R308, R309, R312, R360). -/
namespace Sys2Proof.Machine

/-- What the release of an item makes of its context, `rest` being what stays retired: a share record is only freed, any other item
waits for its release record, and an area or a frame leaves the live frames (R308, R309). -/
def Retired.releaseFrom (item : Retired) (rest : List (Nat × Retired)) (x : Context) : Context :=
  match item with
  | .shareRecord _ => { x with retired := rest }
  | .legendBlock .. => { x with retired := rest, releases := x.releases ++ [item] }
  | .area m st _ | .frame m st _ _ => { x with
      retired := rest, releases := x.releases ++ [item], frames := x.frames.filter (fun f => !(f.1 == m && f.2.1 == st)) }

section
variable {s : State} {c : Fin 64}

theorem exec_itemRelease_of_takeRetired {item : Retired} {rest : List (Nat × Retired)} (hp : s.phase = .ready)
    (ht : takeRetired (s.epochClear c) (s.ctx c).retired = some (item, rest)) :
    exec (.itemRelease c) s = .next (s.modCtx c (item.releaseFrom rest)) := by
  have hlive : (!s.live) = false := by simp [State.live, hp]
  change execItemRelease c s = _
  cases item <;> simp only [execItemRelease, hlive, ht, State.modCtx_modCtx] <;> rfl

section
variable (ho : s.cOpen = true) (hr : (s.ctx c).releases ≠ [])
include ho hr

/-- An open C-port and a held release are what both rows of the release ring ask for first. -/
theorem releaseRows_go : (!s.cOpen || (s.ctx c).releases.isEmpty) = false := by simp [ho, hr]

theorem exec_releaseRows_of_ring_unread (hs : (s.ctx c).ringSeen = false) :
    exec (.releaseRecord c) s = .next (s.pollRing c) ∧ exec (.releaseRingPoll c) s = .next (s.pollRing c) := by
  have hgo := releaseRows_go ho hr
  constructor
  · change execReleaseRecord c s = _
    simp [execReleaseRecord, hgo, hs]
  · change execReleaseRingPoll c s = _
    simp [execReleaseRingPoll, hgo, hs]

section
variable (hs : (s.ctx c).ringSeen = true)
include hs

theorem exec_releaseRecord_of_room (hroom : s.releaseRoom c ≠ 0) :
    exec (.releaseRecord c) s = .next (State.writeReleases c 1 s) := by
  change execReleaseRecord c s = _
  simp [execReleaseRecord, releaseRows_go ho hr, hs, hroom]

theorem exec_releaseRingPoll_of_ring_read :
    exec (.releaseRingPoll c) s = .next ((State.writeReleases c (s.ctx c).releases.length s).pollRing c) := by
  change execReleaseRingPoll c s = _
  simp [execReleaseRingPoll, releaseRows_go ho hr, hs]

end

end

theorem exec_prevSlotRelease_of_epochClear (hp : s.phase = .ready) (hd : (s.ctx c).sweepDone = true)
    (hv : (s.ctx c).prev.state = .draining) (he : s.epochClear c (s.ctx c).prevRetire.toNat = true) :
    exec (.prevSlotRelease c) s = .next (s.modCtx c (fun y => { y with prev := KeySlot.empty })) := by
  change execPrevSlotRelease c s = _
  simp [execPrevSlotRelease, State.live, hp, hd, hv, he]

end

/-- Settles O43: a released item leaves its context by its kind, the two rows of the ring turn on the hub having read its descriptor,
and the previous slot on the sweep's epoch. -/
theorem releases : Obligations.Releases := by
  refine ⟨?shareRecord, ?frame, ?area, ?legendBlock, ?ringUnread, ?ringRead, ?prevSlot⟩
  case shareRecord => exact fun _ _ _ _ => exec_itemRelease_of_takeRetired
  case frame => exact fun _ _ _ _ _ _ _ => exec_itemRelease_of_takeRetired
  case area => exact fun _ _ _ _ _ _ => exec_itemRelease_of_takeRetired
  case legendBlock => exact fun _ _ _ _ _ _ => exec_itemRelease_of_takeRetired
  case ringUnread => exact fun _ _ => exec_releaseRows_of_ring_unread
  case ringRead => exact fun _ _ ho hr hs => ⟨exec_releaseRecord_of_room ho hr hs, exec_releaseRingPoll_of_ring_read ho hr hs⟩
  case prevSlot => exact fun _ _ => exec_prevSlotRelease_of_epochClear

end Sys2Proof.Machine
end

section
/-! SUPPORT. SWEEP_DONE: a context's re-wrap sweep goes on, and ends when the stations are done (R309, R359, R360; assumptions 1, 75). -/
namespace Sys2Proof.Machine

section
variable {s : State} {c : Fin 64}

theorem exec_sweepDone_of_not_sweeping (hw : (s.ctx c).sweeping = false) : exec (.sweepDone c) s = .next s := by
  change execSweepDone c s = _
  simp [execSweepDone, hw]

section
variable (hp : s.phase = .ready) (hw : (s.ctx c).sweeping = true)
include hp hw

theorem sweepDone_goes : (s.live && (s.ctx c).sweeping) = true := by simp [State.live, hp, hw]

/-- The retire epoch is the read epoch as the stations leave it, which then advances (assumption 75). -/
theorem exec_sweepDone_of_over (ho : (s.sweepOn c).sweepOver c = true) :
    exec (.sweepDone c) s = .next (((s.sweepOn c).modCtx c (fun x =>
      { x with sweeping := false, sweepDone := true, prevRetire := (s.sweepOn c).hub.readEpoch })).modHub
        (fun h => { h with readEpoch := h.readEpoch + 1 })) := by
  change execSweepDone c s = _
  simp [execSweepDone, sweepDone_goes hp hw, ho]

theorem exec_sweepDone_of_not_over (ho : (s.sweepOn c).sweepOver c = false) :
    exec (.sweepDone c) s = .next (s.sweepOn c) := by
  change execSweepDone c s = _
  simp [execSweepDone, sweepDone_goes hp hw, ho]

end

end

/-- Settles O44: the row by the context's sweep, and by its being over once the stations have gone on. -/
theorem sweepEnds : Obligations.SweepEnds := fun _ _ hp =>
  ⟨exec_sweepDone_of_over hp, exec_sweepDone_of_not_over hp, exec_sweepDone_of_not_sweeping⟩

end Sys2Proof.Machine
end

section
/-! SUPPORT. What zeroises the keys: the fall of h_locked, and the last-word zeroise (R344, R347, R491, Table 14-7; assumption
106). -/
namespace Sys2Proof.Machine

/-- Every context's key slots are EMPTY and it holds no atlas key; every weight slot is EMPTY with a zero key (R344, R347). -/
def State.KeysGone (s : State) : Prop :=
  (∀ c : Fin 64, (s.ctx c).cur = KeySlot.empty ∧ (s.ctx c).prev = KeySlot.empty ∧ (s.ctx c).atlasKey = none) ∧
  ∀ w : Fin 16, (s.hub.weights[w.1]).state = .empty ∧ (s.hub.weights[w.1]).key = 0

theorem State.zeroAllKeys_ctx (s : State) (c : Fin 64) : s.zeroAllKeys.ctx c = (s.ctx c).zeroKeys := Vector.getElem_map ..

theorem State.zeroAllKeys_weight (s : State) (w : Fin 16) : s.zeroAllKeys.hub.weights[w.1] =
    { s.hub.weights[w.1] with state := .empty, key := 0, nonce := 0, tilesLoaded := 0 } := Vector.getElem_map ..

theorem State.zeroAllKeys_keysGone (s : State) : s.zeroAllKeys.KeysGone := by
  refine ⟨fun c => ?_, fun w => ?_⟩
  · rw [State.zeroAllKeys_ctx]
    exact ⟨rfl, rfl, rfl⟩
  · rw [State.zeroAllKeys_weight]
    exact ⟨rfl, rfl⟩

/-- An event touches no key. -/
theorem State.KeysGone.raise {s : State} (h : s.KeysGone) (code : Nat) (ctx : Option (Fin 64)) (unit a0 a1 : Nat) :
    (s.raise code ctx unit a0 a1).KeysGone := h

/-! ### H_LOCKED_FALL -/

/-- The state with h_locked seen low. -/
def State.unlocked (s : State) : State := { s with pins := { s.pins with hLocked := false } }

/-- What the fall of h_locked leaves: keyed contexts aborted, then the keys zeroised, then event 0x9019 (R344). -/
def State.lockFallen (s : State) : State := (s.unlocked.abortKeyed 0x01).zeroAllKeys.raise 0x9019 none 0xC0 0 0

theorem exec_hLockedFall {s : State} (hp : s.phase = .ready) (hl : s.pins.hLocked = true) :
    exec .hLockedFall s = .next s.lockFallen := by
  change execHLockedFall s = _
  simp [execHLockedFall, State.live, hp, hl, State.lockFallen, State.unlocked]

theorem State.lockFallen_hLocked (s : State) : s.lockFallen.pins.hLocked = false :=
  (Keeps.refl s.unlocked).abortKeyed.zeroAllKeys.raise.locked

theorem State.lockFallen_keysGone (s : State) : s.lockFallen.KeysGone := (State.zeroAllKeys_keysGone _).raise ..

/-- Settles O16: the keys are zeroised after the aborts, and neither these nor the event bring h_locked back. -/
theorem lockFallZeroises : Obligations.LockFallZeroises :=
  ⟨fun s hp hl => ⟨s.lockFallen, exec_hLockedFall hp hl, s.lockFallen_hLocked, rfl, s.lockFallen_keysGone⟩, fun _ => rfl⟩

end Sys2Proof.Machine
end

section
/-! SUPPORT. SCRUB_PHASE_2 and SCRUB_END (R371 to R375). -/
namespace Sys2Proof.Machine

/-- The extents of a scrub as its table has arrived (R372). -/
def State.scrubTable (s : State) (c : Fin 64) (k : Scrub) : List (Option ScrubExtent) :=
  (List.range (s.ctx c).scrubEntries.toNat).map (fun i => s.scrubExtent c k.asked i)

/-- The entries of a table that count as length 0 (R372). -/
def badEntries (n : Nat) (got : List (Option ScrubExtent)) : List Nat :=
  (List.range n).filter (fun i => (got.getD i none).isNone)

/-- The stations that take units of a scrub's second phase (R373). -/
def State.workingStations (s : State) : List (Fin 12) := (allFin 12).filter (fun m => s.stationUp m)

section
variable {s : State} {c : Fin 64} {k : Scrub} (hp : s.phase = .ready) (hk : (s.ctx c).scrub = some k)
include hp hk

theorem exec_scrubPhase2 (h2 : k.phase2 = false) :
    exec (.scrubPhase2 c) s = .next
      ((s.each (badEntries (s.ctx c).scrubEntries.toNat (s.scrubTable c k)) (fun t i => t.raise 0x9007 (some c) 0xC0 i 0)).modCtx
        c (fun x =>
          { x with
            scrubCycles := BitVec.ofNat 64 (scrubL1 (s.ctx c).scrubEntries.toNat + s.hub.dict.scrubInterval.toNat *
              scrubU ((s.scrubTable c k).filterMap id) s.workingStations + 64)
            scrub := some { k with
              phase2 := true, extents := (s.scrubTable c k).filterMap id, working := s.workingStations
              units := scrubU ((s.scrubTable c k).filterMap id) s.workingStations } })) := by
  change execScrubPhase2 c s = _
  have hgo : (!s.live || k.phase2) = false := by simp [State.live, hp, h2]
  simp only [execScrubPhase2, hk, hgo]
  rfl

theorem exec_scrubEnd (h2 : k.phase2 = true) (hd : s.scrubDone k = true) :
    exec (.scrubEnd c) s = .next (s.modCtx c (fun x => { x with state := .free, keyed := false, scrub := none })) := by
  change execScrubEnd c s = _
  simp [execScrubEnd, hk, State.live, hp, h2, hd]

end

/-- Settles O45: each row goes on with the scrub that the context has. -/
theorem scrubPhases : Obligations.ScrubPhases := fun _ _ _ hp hk => ⟨exec_scrubPhase2 hp hk, exec_scrubEnd hp hk⟩

end Sys2Proof.Machine
end

section
/-! SUPPORT. key_command, the write of 0x6000.0B by the root of trust: its fields, its checks and its effect (R345, R346, R359,
R376, Tables 10-4 and 10-5; assumptions 27, 75). -/
namespace Sys2Proof.Machine

/-! ### The checks and the effect of the write -/

/-- An index of Table 12-6 that is no context's rings, atlas or control object, nor a weight slot's. -/
theorem within_of_blockWide {idx : Nat} (h : 0x3340 ≤ idx) (hw : idx < 0x6200 ∨ 0x6210 ≤ idx) :
    within 0x3100 64 idx = none ∧ within 0x3200 64 idx = none ∧ within 0x3300 64 idx = none ∧
      within 0x6200 16 idx = none := by
  have hweight : within 0x6200 16 idx = none := hw.elim (fun h => if_neg (by omega)) (fun h => within_of_ge h)
  exact ⟨within_of_ge (by omega), within_of_ge (by omega), within_of_ge (by omega), hweight⟩

/-- The write of key_command. -/
def keyFrame (seq : BitVec 8) (v : Nat) : HReq := writeFrame seq 0x6000 0x0B 4 v

section
variable {s : State} {v : Nat} {seq : BitVec 8}

/-- A key command clears the staging registers, whether it was accepted or refused (R346); a frame refused TYPE or NOT_ROT was
none. -/
theorem State.hFrame_of_keyCommand {f : HReq} {rot : Bool} (hp : s.phase = .ready) (hk : f.isKeyCommand = true)
    (ht : s.judge f rot ≠ 0x43) (hr : s.judge f rot ≠ 0x46) :
    s.hFrame f rot = (if s.judge f rot = 0x40 then s.applyWrite f else s).clearStage.answered f (s.judge f rot) 0 := by
  obtain ⟨⟨hop, hidx⟩, hsub⟩ : (f.op = 2 ∧ f.idx = 0x6000) ∧ f.sub = 0x0B := by simpa [HReq.isKeyCommand] using hk
  have hvalue := State.frameValue_of_write (s := s) hop
  by_cases hj : s.judge f rot = 0x40 <;>
    simp [State.hFrame, State.answered, hp, hj, ht, hr, hop, hidx, hsub, hvalue, HReq.writes]

/-- A key command of the root of trust: a load, rotation or seal while h_locked is low is refused LOCKED, a rotation over a
previous key KEY_BUSY, and a command that its row does not accept STATE. -/
theorem State.judge_keyFrame (hp : s.phase = .ready) (hv : v < 2 ^ 32) (hop : 1 ≤ field v 24 8) (hop7 : field v 24 8 ≤ 7) :
    s.judge (keyFrame seq v) true = if field v 24 8 < 5 ∧ s.pins.hLocked = false then 0x48
      else if field v 24 8 = 2 ∧ (s.ctx (keyCtx v)).prev.state ≠ .empty then 0x22
      else if s.keyStateOk v = false then 0x47 else 0x40 := by
  have hmod : v % 4294967296 = v := Nat.mod_eq_of_lt hv
  have hobj : objOf s.hub.mirrorRecord.length 0x6000 0x0B = some ⟨.u32, .rws⟩ := rfl
  obtain ⟨hrings, hatlas, hctx, hweight⟩ := within_of_blockWide (idx := 0x6000) (by decide) (by decide)
  have hvalue : s.valueOk ⟨.u32, .rws⟩ 0x6000 0x0B v = true := by
    unfold State.valueOk
    simp [hrings, hatlas, hctx, hweight, hop, hop7]
  have hstate : s.stateOk (keyFrame seq v) = s.keyStateOk v := by
    unfold State.stateOk
    simp [keyFrame, writeFrame, hctx]
  simp only [keyFrame, writeFrame] at hstate
  simp [State.judge, keyFrame, writeFrame, hp, hobj, typeOk, HReq.segmented, HReq.writes, Ty.segmented, Ty.width, hmod,
    hvalue, hstate, State.notBusy]

/-- The effect of the write is the command. -/
theorem State.applyWrite_keyFrame (hv : v < 2 ^ 32) : s.applyWrite (keyFrame seq v) = s.keyCmd v := by
  have hmod : v % 4294967296 = v := Nat.mod_eq_of_lt hv
  obtain ⟨hrings, hatlas, hctx, hweight⟩ := within_of_blockWide (idx := 0x6000) (by decide) (by decide)
  simp [State.applyWrite, keyFrame, writeFrame, HReq.segmented, hmod, State.writeScalar, hrings, hatlas, hctx, hweight,
    measuredPairs]

/-- A command of a row of Table 10-5 that accepts it, with h_locked high where the row needs it. -/
theorem State.hFrame_keyFrame_accepted (hp : s.phase = .ready) (hv : v < 2 ^ 32) (hop : 1 ≤ field v 24 8)
    (hop7 : field v 24 8 ≤ 7) (hl : field v 24 8 < 5 → s.pins.hLocked = true)
    (hprev : field v 24 8 = 2 → (s.ctx (keyCtx v)).prev.state = .empty) (hok : s.keyStateOk v = true) :
    s.hFrame (keyFrame seq v) true = (s.keyCmd v).clearStage.answered (keyFrame seq v) 0x40 0 := by
  have hlocked : ¬(field v 24 8 < 5 ∧ s.pins.hLocked = false) := fun h => by simp [hl h.1] at h
  have hbusy : ¬(field v 24 8 = 2 ∧ (s.ctx (keyCtx v)).prev.state ≠ .empty) := fun h => h.2 (hprev h.1)
  have hj : s.judge (keyFrame seq v) true = 0x40 := by
    rw [State.judge_keyFrame hp hv hop hop7, if_neg hlocked, if_neg hbusy, if_neg (by simp [hok])]
  rw [State.hFrame_of_keyCommand hp rfl (by simp [hj]) (by simp [hj]), if_pos hj, hj, State.applyWrite_keyFrame hv]

/-- A refused key command clears the staging registers and is answered with its code. -/
theorem State.hFrame_keyFrame_refused {code : Nat} (hp : s.phase = .ready) (hj : s.judge (keyFrame seq v) true = code)
    (hcode : code ≠ 0x40 ∧ code ≠ 0x43 ∧ code ≠ 0x46) :
    s.hFrame (keyFrame seq v) true = s.clearStage.answered (keyFrame seq v) code 0 := by
  obtain ⟨hok, ht, hr⟩ := hcode
  rw [State.hFrame_of_keyCommand hp rfl (by rwa [hj]) (by rwa [hj]), if_neg (by rwa [hj]), hj]

end

/-! ### The fields of a key command (Table 10-4) -/

section
variable {op c w : Nat} (hop : op < 256) (hc : c < 64) (hw : w < 16)
include hop hc hw

theorem keyCommandValue_eq : keyCommandValue op c w = op * 2 ^ 24 + c * 2 ^ 16 + w * 2 ^ 8 := by
  simp only [keyCommandValue, place, Nat.shiftLeft_eq, Nat.mod_eq_of_lt (show op < 2 ^ 8 from hop),
    Nat.mod_eq_of_lt (show c < 2 ^ 6 from hc), Nat.mod_eq_of_lt (show w < 2 ^ 4 from hw)]

theorem keyCommandValue_lt : keyCommandValue op c w < 2 ^ 32 := by
  rw [keyCommandValue_eq hop hc hw]
  omega

theorem keyCommandValue_op : field (keyCommandValue op c w) 24 8 = op := by
  rw [keyCommandValue_eq hop hc hw, field, Nat.shiftRight_eq_div_pow]
  omega

theorem keyCommandValue_ctx : field (keyCommandValue op c w) 16 6 = c := by
  rw [keyCommandValue_eq hop hc hw, field, Nat.shiftRight_eq_div_pow]
  omega

theorem keyCommandValue_slot : field (keyCommandValue op c w) 8 4 = w := by
  rw [keyCommandValue_eq hop hc hw, field, Nat.shiftRight_eq_div_pow]
  omega

theorem keyCtx_keyCommandValue : keyCtx (keyCommandValue op c w) = ⟨c, hc⟩ := Fin.ext (keyCommandValue_ctx hop hc hw)

theorem keySlot_keyCommandValue : keySlot (keyCommandValue op c w) = ⟨w, hw⟩ := Fin.ext (keyCommandValue_slot hop hc hw)

end

/-! ### The commands, by op, context and weight slot (Table 10-5) -/

section
variable {s : State} {seq : BitVec 8} (op : Nat) (c : Fin 64) (w : Fin 16)

/-- The command's row of Table 10-5 accepts it in the present state. -/
def State.keyRowAccepts (s : State) : Bool :=
  match op with
  | 0x01 => (s.ctx c).state == .opened && (s.ctx c).keyed && (s.ctx c).cur.state == .empty && (s.ctx c).prev.state == .empty
  | 0x02 => (s.ctx c).state == .opened && (s.ctx c).keyed && (s.ctx c).cur.state == .loaded
  | 0x03 => (s.hub.weights[w.1]).state == .empty
  | 0x04 => (s.hub.weights[w.1]).state == .loading
      && !s.hub.steps.any (fun y => y.open && s.isLoadStep y && y.head.weightSlot == w.1)
  | 0x06 => (s.hub.weights[w.1]).state == .empty || !s.hub.steps.any (fun y => s.usesWeight y w.1)
  | _ => true

/-- The state with the accepted command shown in key_command. -/
def State.noteKeyCommand (s : State) : State :=
  s.modHub (fun h => { h with keyCommand := BitVec.ofNat 32 (keyCommandValue op c.1 w.1) })

/-- The effect of the command's row of Table 10-5. -/
def State.keyRowEffect (s : State) : State :=
  match op with
  | 0x01 => s.loadKey c
  | 0x02 => s.rotateKey c
  | 0x03 => s.loadWeightKey w
  | 0x04 => s.modHub (fun h => { h with weights := vmod h.weights w (fun x => { x with state := .sealed }) })
  | 0x05 => ((s.abortCtx c 0x01).modCtx c Context.zeroKeys).raise 0x9019 none 0xC0 2 c.1
  | 0x06 => (s.zeroWeight w).raise 0x9019 none 0xC0 3 w.1
  | _ => s.measureNow

variable {op c w}

/-- key_command shows nothing of the staged key. -/
theorem State.noteKeyCommand_stagedKey : (s.noteKeyCommand op c w).stagedKey = s.stagedKey := rfl

theorem State.keyRowEffect_rotate : (s.noteKeyCommand 2 c w).keyRowEffect 2 c w =
    ((s.noteKeyCommand 2 c w).modCtx c (fun x =>
      { x with
        prev := { x.cur with state := .draining }, cur := { state := .loaded, key := s.stagedKey, gen := x.cur.gen + 1 }
        sweeping := true, sweepAt := Vector.replicate 12 0, sweepPages := 0, sweepDone := false })).sweepOn c := by
  rw [← State.noteKeyCommand_stagedKey (s := s) (op := 2) (c := c) (w := w)]
  rfl

theorem State.keyRowEffect_loadWeight : (s.noteKeyCommand 3 c w).keyRowEffect 3 c w =
    (s.noteKeyCommand 3 c w).modHub (fun h => { h with weights := vmod h.weights w (fun x =>
      { x with state := .loading, key := s.stagedKey, nonce := s.hub.loadNonce, tilesLoaded := 0 }) }) := by
  rw [← State.noteKeyCommand_stagedKey (s := s) (op := 3) (c := c) (w := w)]
  rfl

section
variable (hlt : op < 256)
include hlt

theorem State.keyStateOk_keyCommandValue : s.keyStateOk (keyCommandValue op c.1 w.1) = s.keyRowAccepts op c w := by
  simp only [State.keyStateOk, keyCommandValue_op hlt c.2 w.2, keyCtx_keyCommandValue hlt c.2 w.2,
    keySlot_keyCommandValue hlt c.2 w.2]
  rfl

theorem State.keyCmd_keyCommandValue :
    s.keyCmd (keyCommandValue op c.1 w.1) = (s.noteKeyCommand op c w).keyRowEffect op c w := by
  simp only [State.keyCmd, keyCommandValue_op hlt c.2 w.2, keyCommandValue_ctx hlt c.2 w.2, keyCommandValue_slot hlt c.2 w.2,
    keyCtx_keyCommandValue hlt c.2 w.2, keySlot_keyCommandValue hlt c.2 w.2]
  rfl

end

section
variable (hp : s.phase = .ready) (hop : 1 ≤ op) (hop7 : op ≤ 7)
include hp hop hop7

/-- A command that its row accepts, with h_locked high where it is needed. -/
theorem State.hFrame_keyCommand (hl : op < 5 → s.pins.hLocked = true) (hprev : op = 2 → (s.ctx c).prev.state = .empty)
    (hok : s.keyRowAccepts op c w = true) : s.hFrame (keyFrame seq (keyCommandValue op c.1 w.1)) true =
      ((s.noteKeyCommand op c w).keyRowEffect op c w).clearStage.answered (keyFrame seq (keyCommandValue op c.1 w.1)) 0x40 0 := by
  have hlt : op < 256 := by omega
  have hfield := keyCommandValue_op hlt c.2 w.2
  rw [State.hFrame_keyFrame_accepted hp (keyCommandValue_lt hlt c.2 w.2), State.keyCmd_keyCommandValue hlt]
  · rwa [hfield]
  · rwa [hfield]
  · rwa [hfield]
  · rwa [hfield, keyCtx_keyCommandValue hlt c.2 w.2]
  · rwa [State.keyStateOk_keyCommandValue hlt]

/-- A load, rotation or seal while h_locked is low is refused LOCKED. -/
theorem State.hFrame_keyCommand_locked (hop5 : op < 5) (hl : s.pins.hLocked = false) :
    s.hFrame (keyFrame seq (keyCommandValue op c.1 w.1)) true =
      s.clearStage.answered (keyFrame seq (keyCommandValue op c.1 w.1)) 0x48 0 := by
  have hlt : op < 256 := by omega
  have hfield := keyCommandValue_op hlt c.2 w.2
  refine State.hFrame_keyFrame_refused hp ?_ (by decide)
  rw [State.judge_keyFrame hp (keyCommandValue_lt hlt c.2 w.2) (by rwa [hfield]) (by rwa [hfield]), hfield, if_pos ⟨hop5, hl⟩]

end

/-- A rotation over a previous key is refused KEY_BUSY. -/
theorem State.hFrame_rotate_busy (hp : s.phase = .ready) (hl : s.pins.hLocked = true) (hprev : (s.ctx c).prev.state ≠ .empty) :
    s.hFrame (keyFrame seq (keyCommandValue 2 c.1 w.1)) true =
      s.clearStage.answered (keyFrame seq (keyCommandValue 2 c.1 w.1)) 0x22 0 := by
  have hfield := keyCommandValue_op (op := 2) (by decide) c.2 w.2
  have hctx := keyCtx_keyCommandValue (op := 2) (by decide) c.2 w.2
  refine State.hFrame_keyFrame_refused hp ?_ (by decide)
  rw [State.judge_keyFrame hp (keyCommandValue_lt (by decide) c.2 w.2) (by rw [hfield]; decide) (by rw [hfield]; decide), hfield,
    hctx, if_neg (by simp [hl]), if_pos ⟨rfl, hprev⟩]

end

/-- Settles O48: each command passes the checks of its row, and its effect is that of its op. -/
theorem keyCommands : Obligations.KeyCommands := by
  intro c w seq s hp frame wframe cmd
  refine ⟨fun hl ho hk hc hv => ?loads, fun hl ho hk hc hv => ?rotates, fun hl hv => ?keyBusy, fun hl => ?locked,
    fun hl hw => ?loadsWeight, fun hl hw hy => ?seals, ?zeroises, fun hy => ?zeroisesWeight, ?measures⟩ <;>
    refine congrArg Host.Outcome.next ?_
  case loads =>
    exact State.hFrame_keyCommand (op := 1) (c := c) (w := 0) hp (by decide) (by decide) (fun _ => hl) (fun _ => hv)
      (by simp [State.keyRowAccepts, ho, hk, hc, hv])
  case rotates =>
    have hrotated := State.hFrame_keyCommand (op := 2) (c := c) (w := 0) (seq := seq) hp (by decide) (by decide) (fun _ => hl)
      (fun _ => hv) (by simp [State.keyRowAccepts, ho, hk, hc])
    rwa [State.keyRowEffect_rotate] at hrotated
  case keyBusy => exact State.hFrame_rotate_busy (c := c) (w := 0) hp hl hv
  case locked => exact State.hFrame_keyCommand_locked (op := 1) (c := c) (w := 0) hp (by decide) (by decide) (by decide) hl
  case loadsWeight =>
    have hloaded := State.hFrame_keyCommand (op := 3) (c := 0) (w := w) (seq := seq) hp (by decide) (by decide) (fun _ => hl)
      (fun h => absurd h (by decide)) (by simp [State.keyRowAccepts, hw])
    rwa [State.keyRowEffect_loadWeight] at hloaded
  case seals =>
    exact State.hFrame_keyCommand (op := 4) (c := 0) (w := w) hp (by decide) (by decide) (fun _ => hl)
      (fun h => absurd h (by decide)) (by simpa [State.keyRowAccepts, hw] using hy)
  case zeroises =>
    exact State.hFrame_keyCommand (op := 5) (c := c) (w := 0) hp (by decide) (by decide) (fun h => absurd h (by decide))
      (fun h => absurd h (by decide)) rfl
  case zeroisesWeight =>
    exact State.hFrame_keyCommand (op := 6) (c := 0) (w := w) hp (by decide) (by decide) (fun h => absurd h (by decide))
      (fun h => absurd h (by decide)) (by simpa [State.keyRowAccepts] using Or.inr hy)
  case measures =>
    exact State.hFrame_keyCommand (op := 7) (c := 0) (w := 0) hp (by decide) (by decide) (fun h => absurd h (by decide))
      (fun h => absurd h (by decide)) rfl

end Sys2Proof.Machine
end

section
/-! SUPPORT. The write of a scalar over the H-port that is unmeasured and has no window: its checks and its effect (R433 to R437,
Table 12-4). -/
namespace Sys2Proof.Machine

/-- The objects of which this section speaks: scalars of a width that are write-only or the root of trust's, which the measurement
leaves out, and which are no key_command. -/
structure PlainScalar (idx sub w : Nat) (o : Obj) : Prop where
  scalar : o.ty.segmented = false
  width : o.ty.width = w
  access : o.acc = .wo ∨ o.acc = .rws
  unmeasured : (idx, sub) ∉ measuredPairs
  notKey : ¬(idx = 0x6000 ∧ sub = 0x0B)

section
variable {s : State} {seq : BitVec 8} {rot : Bool} {idx sub w v : Nat} {o : Obj}
variable (ho : PlainScalar idx sub w o) (hv : v < 2 ^ (8 * w))
include ho hv

/-- Of the checks of Table 12-4 a write with the right to it has those of the value, the state and BUSY left. -/
theorem State.judge_plainWrite (hp : s.phase = .ready) (hobj : objOf s.hub.mirrorRecord.length idx sub = some o)
    (hrot : rot = true ∨ (o.acc = .wo ∧ ¬(idx = 0x2000 ∧ sub = 0x22))) (hvalue : s.valueOk o idx sub v = true) :
    s.judge (writeFrame seq idx sub w v) rot = if !s.stateOk (writeFrame seq idx sub w v) then 0x47
      else if !s.notBusy (writeFrame seq idx sub w v) then 0x49 else 0x40 := by
  have hmod : v % 2 ^ (8 * w) = v := Nat.mod_eq_of_lt hv
  have htype : typeOk o (writeFrame seq idx sub w v) = true := by
    simp [typeOk, writeFrame, HReq.segmented, ho.scalar, ho.width]
  have hro : o.acc ≠ .ro := by rcases ho.access with h | h <;> simp [h]
  have hrwb : o.acc ≠ .rwb := by rcases ho.access with h | h <;> simp [h]
  have hright : ¬(rot = false ∧ (o.acc = .rws ∨ idx = 0x2000 ∧ sub = 0x22)) := by
    rintro ⟨hlow, hclass⟩
    rcases hrot with hhigh | ⟨hwo, hpatch⟩
    · simp [hlow] at hhigh
    · simp [hwo, hpatch] at hclass
  simp only [writeFrame] at htype ⊢
  simp [State.judge, hp, hobj, htype, HReq.segmented, HReq.writes, hmod, hro, hrwb, ho.unmeasured, hright, hvalue, ho.notKey]

omit ho in
theorem State.applyWrite_of_unmeasured (hm : (idx, sub) ∉ measuredPairs) :
    s.applyWrite (writeFrame seq idx sub w v) = s.writeScalar idx sub v := by
  have hmod : v % 2 ^ (8 * w) = v := Nat.mod_eq_of_lt hv
  simp [State.applyWrite, writeFrame, HReq.segmented, hmod, hm]

/-- An accepted write takes effect and answers OK. -/
theorem State.hFrame_plainWrite (hp : s.phase = .ready) (hl : idx ≠ 0x9000)
    (hj : s.judge (writeFrame seq idx sub w v) rot = 0x40) :
    s.hFrame (writeFrame seq idx sub w v) rot = (s.writeScalar idx sub v).answered (writeFrame seq idx sub w v) 0x40 0 := by
  rw [State.hFrame_of_write hp hj hl rfl, State.applyWrite_of_unmeasured hv ho.unmeasured]
  exact HReq.not_isKeyCommand (not_and_or.1 ho.notKey)

omit hv in
/-- A write that its state or BUSY refuses has its response alone. -/
theorem State.hFrame_plainWrite_refused {code : Nat} (hp : s.phase = .ready) (hl : idx ≠ 0x9000) (hcode : code ≠ 0x40)
    (hj : s.judge (writeFrame seq idx sub w v) rot = code) :
    s.hFrame (writeFrame seq idx sub w v) rot = s.answered (writeFrame seq idx sub w v) code 0 := by
  rw [State.hFrame_of_refused hp (by rwa [hj]) hl (HReq.not_isKeyCommand (not_and_or.1 ho.notKey)), hj]

omit ho hv

/-- Check 10 speaks of health objects alone (Table 12-11). -/
theorem State.notBusy_of_idx_ne {f : HReq} (h : f.idx ≠ 0x7000) : s.notBusy f = true := by simp [State.notBusy, h]

end

end Sys2Proof.Machine
end

section
/-! SUPPORT. Microcode patches and lifetime data: patch_command, the lifetime record, checkpoint_now and lifetime_restore (R376,
R495, R497, R508, Table 14-8; assumption 29). -/
namespace Sys2Proof.Machine

/-! ### patch_command (R508) -/

section
variable {s : State} {seq : BitVec 8} {v : Nat}

/-- The write of patch_command. -/
def patchFrame (seq : BitVec 8) (v : Nat) : HReq := writeFrame seq 0x2000 0x22 1 v

theorem plain_patchCommand : PlainScalar 0x2000 0x22 1 ⟨.u8, .wo⟩ := ⟨rfl, rfl, .inl rfl, by decide, by decide⟩

/-- In QUIESCED the root of trust's patch command takes effect; only an activation needs a patch of nonzero length. -/
theorem State.hFrame_patchFrame (hp : s.phase = .ready) (hq : s.hub.quiesce = .quiesced) (hv : 1 ≤ v) (hv2 : v ≤ 2)
    (hlen : v = 1 → s.hub.patchLength ≠ 0) :
    s.hFrame (patchFrame seq v) true = (s.patchCmd v).answered (patchFrame seq v) 0x40 0 := by
  have hlt : v < 2 ^ (8 * 1) := by omega
  have hvalue : s.valueOk ⟨.u8, .wo⟩ 0x2000 0x22 v = true := by
    unfold State.valueOk
    simp [within, hv, hv2]
  have hstate : s.stateOk (writeFrame seq 0x2000 0x22 1 v) = true := by
    unfold State.stateOk
    simpa [writeFrame, within, hq, or_iff_not_imp_left] using hlen
  have hj : s.judge (writeFrame seq 0x2000 0x22 1 v) true = 0x40 := by
    rw [State.judge_plainWrite plain_patchCommand hlt hp rfl (.inl rfl) hvalue, if_neg (by simp [hstate]),
      if_neg (by simp [State.notBusy_of_idx_ne, writeFrame])]
  rw [patchFrame, State.hFrame_plainWrite plain_patchCommand hlt hp (by decide) hj]
  rfl

end

/-- The state with the staged patch active, before it is measured. -/
def State.patched (s : State) : State :=
  s.modHub (fun h => { h with patchActive := some (h.patchImage.read 0 h.patchLength.toNat) })

theorem State.patchCmd_activate (s : State) : s.patchCmd 1 = s.patched.measureNow.raise 0x901A none 0xC0
    s.patched.measureNow.hub.patchLength.toNat s.patched.measureNow.hub.measureSeq.toNat := if_pos (by decide)

/-- The activation is measured at once, with event 0x901A; contexts, slices and stores stay. -/
theorem State.patchCmd_activates (s : State) :
    (s.patchCmd 1).hub.patchActive = some (s.hub.patchImage.read 0 s.hub.patchLength.toNat) ∧
    (s.patchCmd 1).hub.measurement =
      sha384 (measuredBytes { s.hub with patchActive := (s.patchCmd 1).hub.patchActive }) ∧
    (s.patchCmd 1).hub.measureSeq = s.hub.measureSeq + 1 ∧
    (s.patchCmd 1).hub.counters.events = bump 0x901A 1 s.hub.counters.events ∧
    (s.patchCmd 1).ctxs = s.ctxs ∧ (s.patchCmd 1).slices = s.slices ∧ s.sameStores (s.patchCmd 1) := by
  have hstores : s.sameStores (s.patched.measureNow.raise 0x901A none 0xC0 s.patched.measureNow.hub.patchLength.toNat
      s.patched.measureNow.hub.measureSeq.toNat) := ((State.sameStores_refl.modHub _).modHub _).raise ..
  rw [State.patchCmd_activate]
  refine ⟨?_, ?_, ?_, ?_, ?_, ?_, hstores⟩ <;> simp only [State.raise, State.measureNow, State.patched, State.modHub]

theorem patchCommands : Claims.PatchCommands := by
  intro seq s hp hq
  refine ⟨fun hlen => ?activates, ?clears⟩
  case activates =>
    have heffect := s.patchCmd_activates
    have hframe := State.hFrame_patchFrame (seq := seq) hp hq (v := 1) (by decide) (by decide) (fun _ => hlen)
    generalize s.patchCmd 1 = u at heffect hframe
    exact ⟨_, congrArg Host.Outcome.next hframe, heffect⟩
  case clears =>
    exact congrArg Host.Outcome.next
      (State.hFrame_patchFrame hp hq (v := 2) (by decide) (by decide) (fun h => absurd h (by decide)))

/-! ### The lifetime record (R495, Table 14-8) -/

theorem length_leBytes (n x : Nat) : (leBytes n x).length = n := by
  induction n generalizing x with
  | zero => rfl
  | succ n ih => simp [leBytes, ih]

theorem length_zeros (n : Nat) : (zeros n).length = n := List.length_replicate

theorem length_flatMap_of_const {α : Type} {xs : List α} {f : α → Bytes} {k : Nat} (h : ∀ x, (f x).length = k) :
    (xs.flatMap f).length = xs.length * k := by
  simp [List.length_flatMap, h]

/-- The two error counters of a unit (Table 14-8). -/
theorem length_counterPair (a b : Nat) : (leBytes 4 a ++ leBytes 4 b).length = 8 := by
  rw [List.length_append, length_leBytes, length_leBytes]

/-- The record fills the 64 KiB of Table 14-8. -/
theorem State.length_lifetimeRecord (s : State) (seq : Nat) : (s.lifetimeRecord seq).length = 65536 := by
  simp only [State.lifetimeRecord, List.length_append, length_leBytes, length_zeros, List.length_range, Vector.length_toList,
    length_flatMap_of_const (k := 8) (fun _ => length_leBytes 8 _),
    length_flatMap_of_const (k := 8) (fun _ => length_counterPair _ _)]

section
variable (s : State)

theorem State.checkpoint_record :
    s.checkpoint.hub.checkpointRecord.read 0 65536 = s.lifetimeRecord s.hub.checkpointSeq.toNat := by
  have hrecord : s.checkpoint.hub.checkpointRecord = Mem.write [] 0 (s.lifetimeRecord s.hub.checkpointSeq.toNat) := by
    simp only [State.checkpoint, State.raise, State.modHub]
  have hread := Mem.read_write (m := []) rfl 0 (s.lifetimeRecord s.hub.checkpointSeq.toNat)
  rw [State.length_lifetimeRecord] at hread
  rw [hrecord, hread]

/-- The rest of what a checkpoint does: the number counts on, the record is in production, and event 0x9017 is raised. -/
theorem State.checkpoint_counts : s.checkpoint.hub.checkpointSeq = s.hub.checkpointSeq + 1 ∧
    s.checkpoint.hub.building = true ∧ s.checkpoint.hub.checkpointDue = false ∧
    s.checkpoint.hub.counters = { s.hub.counters with
      events := bump 0x9017 1 s.hub.counters.events, eventsLost := s.checkpoint.hub.counters.eventsLost } := by
  refine ⟨?_, ?_, ?_, ?_⟩ <;> simp only [State.checkpoint, State.raise, State.modHub]

theorem State.checkpoint_ctxs : s.checkpoint.ctxs = s.ctxs := by
  simp only [State.checkpoint, State.raise, State.modHub_ctxs]

theorem State.checkpoint_sameStores : s.sameStores s.checkpoint := (State.sameStores_refl.modHub _).raise ..

end

/-! ### LIFETIME_CHECKPOINT and CHECKPOINT_NOW -/

section
variable {s : State}

theorem exec_lifetimeCheckpoint_builds (hp : s.phase = .ready) (hb : s.hub.building = false) :
    exec .lifetimeCheckpoint s = .next s.checkpoint := by
  change execLifetimeCheckpoint s = _
  simp [execLifetimeCheckpoint, State.live, hp, hb]

theorem exec_lifetimeCheckpoint_waits (hp : s.phase = .ready) (hb : s.hub.building = true) :
    exec .lifetimeCheckpoint s = .next (s.modHub (fun h => { h with checkpointDue := true })) := by
  change execLifetimeCheckpoint s = _
  simp [execLifetimeCheckpoint, State.live, hp, hb]

variable {seq : BitVec 8} {rot : Bool}

/-- The write of checkpoint_now. -/
def checkpointFrame (seq : BitVec 8) : HReq := writeFrame seq 0x7000 7 1 1

theorem plain_checkpointNow : PlainScalar 0x7000 7 1 ⟨.u8, .wo⟩ := ⟨rfl, rfl, .inl rfl, by decide, by decide⟩

/-- checkpoint_now is BUSY while a record is in production (R495). -/
theorem State.judge_checkpointFrame (hp : s.phase = .ready) :
    s.judge (checkpointFrame seq) rot = if s.hub.building then 0x49 else 0x40 := by
  obtain ⟨hrings, hatlas, hctx, hweight⟩ := within_of_blockWide (idx := 0x7000) (by decide) (by decide)
  have hvalue : s.valueOk ⟨.u8, .wo⟩ 0x7000 7 1 = true := by
    unfold State.valueOk
    simp [hrings, hatlas, hctx, hweight]
  have hstate : s.stateOk (writeFrame seq 0x7000 7 1 1) = true := State.stateOk_health rfl (by simp [writeFrame])
  have hbusy : s.notBusy (writeFrame seq 0x7000 7 1 1) = !s.hub.building := by simp [State.notBusy, writeFrame]
  rw [checkpointFrame, State.judge_plainWrite plain_checkpointNow (by decide) hp rfl (.inr ⟨rfl, by decide⟩) hvalue,
    if_neg (by simp [hstate]), hbusy]
  cases s.hub.building <;> rfl

theorem exec_checkpointNow_builds (hp : s.phase = .ready) (hb : s.hub.building = false) :
    exec (.checkpointNow 1 seq rot) s = .next (s.checkpoint.answered (checkpointFrame seq) 0x40 0) := by
  have hj : s.judge (checkpointFrame seq) rot = 0x40 := by simp [State.judge_checkpointFrame hp, hb]
  refine congrArg Host.Outcome.next ((State.hFrame_plainWrite plain_checkpointNow (by decide) hp (by decide) hj).trans ?_)
  obtain ⟨hrings, hatlas, hctx, hweight⟩ := within_of_blockWide (idx := 0x7000) (by decide) (by decide)
  have heffect : s.writeScalar 0x7000 7 1 = s.checkpoint := by simp [State.writeScalar, hrings, hatlas, hctx, hweight]
  exact congrArg (State.answered · _ 0x40 0) heffect

theorem exec_checkpointNow_busy (hp : s.phase = .ready) (hb : s.hub.building = true) :
    exec (.checkpointNow 1 seq rot) s = .next (s.answered (checkpointFrame seq) 0x49 0) := by
  have hj : s.judge (checkpointFrame seq) rot = 0x49 := by simp [State.judge_checkpointFrame hp, hb]
  exact congrArg Host.Outcome.next (State.hFrame_plainWrite_refused plain_checkpointNow hp (by decide) (by decide) hj)

end

/-! ### lifetime_restore (R497) -/

section
variable {s : State} {v : BitVec 64} {len seq : BitVec 8}

/-- The write of the last segment of lifetime_restore. -/
def restoreFrame (v : BitVec 64) (len seq : BitVec 8) : HReq :=
  { op := 4, seq := seq.toNat, idx := 0x7000, sub := 8, seg := 8191, len := len.toNat, value := v.toNat }

/-- The state with the last segment's bytes in the image to be restored. -/
def State.withLastSegment (s : State) (v : BitVec 64) (len : BitVec 8) : State :=
  s.modHub (fun h => { h with restoreImage := s.hub.restoreImage.write 65528 (leBytes len.toNat v.toNat) })

/-- Segment 8,191 of lifetime_restore holds the last 8 bytes of the image (R436, R497). -/
theorem State.writeSegment_last {f : HReq} (hi : f.idx = 0x7000) (hs : f.sub = 8) (hg : f.seg = 8191) : s.writeSegment f =
    (s.modHub (fun h => { h with restoreImage := h.restoreImage.write 65528 (f.bytes.take 8) })).restore := by
  simp only [State.writeSegment, hi, hs, hg]
  simp only [beq_self_eq_true, if_true]

section
variable (hlo : 1 ≤ len.toNat) (hhi : len.toNat ≤ 8)
include hlo hhi

/-- The root of trust's segment is accepted until a record has been refused (R497). -/
theorem State.judge_restoreFrame (hp : s.phase = .ready) (hr : s.hub.restoreFailed = false) :
    s.judge (restoreFrame v len seq) true = 0x40 := by
  have hobj : objOf s.hub.mirrorRecord.length 0x7000 8 = some ⟨.blob 65536, .rws⟩ := rfl
  have hctx : within 0x3300 64 0x7000 = none := within_of_ge (by decide)
  have hstate : s.stateOk { restoreFrame v len seq with value := v.toNat % 2 ^ (8 * len.toNat) } = true := by
    unfold State.stateOk
    simp [restoreFrame, hctx, hr]
  simp only [restoreFrame] at hstate
  simp [State.judge, restoreFrame, hp, hobj, typeOk, HReq.segmented, HReq.writes, Ty.segmented, hlo, hhi, hstate,
    State.notBusy]

omit hlo in
/-- The bytes go to the image's end, and the record is then checked as a whole. -/
theorem State.writeSegment_restoreFrame :
    s.writeSegment (restoreFrame v len seq) = (s.withLastSegment v len).restore := by
  have hlen : Nat.min len.toNat 8 = len.toNat := Nat.min_eq_left hhi
  have hbytes : (restoreFrame v len seq).bytes.take 8 = leBytes len.toNat v.toNat := by
    simp only [HReq.bytes, restoreFrame, hlen]
    exact List.take_of_length_le ((length_leBytes ..).trans_le hhi)
  rw [State.writeSegment_last rfl rfl rfl, hbytes, State.withLastSegment]
  rfl

theorem exec_lifetimeRestore (hp : s.phase = .ready) (hr : s.hub.restoreFailed = false) :
    exec (.lifetimeRestore v len seq true) s =
      .next ((s.withLastSegment v len).restore.answered (restoreFrame v len seq) 0x40 0) := by
  refine congrArg Host.Outcome.next ((State.hFrame_of_writeSegment hp (State.judge_restoreFrame hlo hhi hp hr)
    (by simp [restoreFrame]) rfl).trans ?_)
  rw [State.writeSegment_restoreFrame hhi]

end

theorem State.sameStores_of_eq {t : State} (hnear : t.near = s.near) (hstack : t.stackMem = s.stackMem) : s.sameStores t := by
  simp [State.sameStores, State.stack, hnear, hstack]

section
variable {r : Bytes} (hr : s.hub.restoreImage.read 0 65536 = r)
include hr

/-- A good record adds its values to the lifetime counters. -/
theorem State.restore_good (hok : s.restoreOk r = true) : s.restore.hub.counters = s.hub.counters.plus r ∧
    s.restore.hub.restored = true ∧ s.restore.ctxs = s.ctxs ∧ s.sameStores s.restore := by
  subst hr
  refine ⟨?_, ?_, ?_, State.sameStores_of_eq ?_ ?_⟩ <;> simp only [State.restore, hok, if_true, State.modHub]

/-- A bad record refuses the segments that follow. -/
theorem State.restore_bad (hbad : s.restoreOk r = false) :
    s.restore = s.modHub (fun h => { h with restoreFailed := true }) := by
  subst hr
  rw [State.restore, if_neg (by simp [hbad])]

end

end

/-! ### The obligation -/

theorem lifetimeData : Claims.LifetimeData := by
  refine ⟨fun s hp hb => ?builds, fun s hp hb => ?waits, fun seq rot s hp => ⟨fun hb => ?now, fun hb => ?busy⟩,
    fun v len seq s hp hlo hhi hr => ⟨fun hok => ?restores, fun hbad => ?refuses⟩⟩
  case builds =>
    obtain ⟨hseq, hbuilding, -, hcounters⟩ := s.checkpoint_counts
    exact ⟨_, exec_lifetimeCheckpoint_builds hp hb, rfl, hseq, hbuilding, s.checkpoint_record, by rw [hcounters],
      s.checkpoint_ctxs, s.checkpoint_sameStores⟩
  case waits => exact exec_lifetimeCheckpoint_waits hp hb
  case now => exact exec_checkpointNow_builds hp hb
  case busy => exact exec_checkpointNow_busy hp hb
  case restores =>
    have hexec := exec_lifetimeRestore (v := v) (seq := seq) hlo hhi hp hr
    have hrestored := State.restore_good (s := s.withLastSegment v len) rfl hok
    generalize (s.withLastSegment v len).restore = u at hexec hrestored
    obtain ⟨hcounters, hdone, hctxs, hstores⟩ := hrestored
    exact ⟨_, hexec, hcounters, hdone, rfl, hctxs, hstores⟩
  case refuses =>
    rw [exec_lifetimeRestore hlo hhi hp hr, State.restore_bad (s := s.withLastSegment v len) rfl hbad]
    rfl

/-- Settles O52: a patch command and a checkpoint by what each changes of the hub; a restored record by the checks on its
image. -/
theorem patchAndLifetime : Obligations.PatchAndLifetime := ⟨patchCommands, lifetimeData⟩

end Sys2Proof.Machine
end

section
/-! SUPPORT. Last-word commands: fence_slice and zeroise_all; and the binding of contexts to a weight slot (R345, R362, R450,
R483, R491, Table 14-7; assumption 106). -/
namespace Sys2Proof.Machine

/-! ### fence_slice (R450, R483) -/

section
variable {s : State} {seq : BitVec 8} {rot : Bool} {n : Fin 132}

/-- The write of fence_slice. -/
def fenceFrame (seq : BitVec 8) (n : Fin 132) : HReq := writeFrame seq 0xA000 0x10 1 n.1

theorem plain_fenceSlice : PlainScalar 0xA000 0x10 1 ⟨.u8, .wo⟩ := ⟨rfl, rfl, .inl rfl, by decide, by decide⟩

/-- A fence is refused STATE when the slice is fenced or fused off. -/
theorem State.judge_fenceFrame (hp : s.phase = .ready) :
    s.judge (fenceFrame seq n) rot = if !(s.slice n).alive then 0x47 else 0x40 := by
  obtain ⟨hrings, hatlas, hctx, hweight⟩ := within_of_blockWide (idx := 0xA000) (by decide) (by decide)
  have hvalue : s.valueOk ⟨.u8, .wo⟩ 0xA000 0x10 n.1 = true := by
    unfold State.valueOk
    simpa [hrings, hatlas, hctx, hweight] using Nat.le_of_lt_succ n.2
  have hstate : s.stateOk (writeFrame seq 0xA000 0x10 1 n.1) = (s.slice n).alive := by
    unfold State.stateOk
    simp [writeFrame, hctx, finOf]
  rw [fenceFrame, State.judge_plainWrite plain_fenceSlice (n.2.trans (by decide)) hp rfl (.inr ⟨rfl, by decide⟩) hvalue,
    hstate, State.notBusy_of_idx_ne (by simp [writeFrame])]
  simp only [Bool.not_true, Bool.false_eq_true, if_false]

theorem exec_fenceSlice (n : Fin 132) (seq : BitVec 8) (rot : Bool) (s : State) :
    exec (.fenceSlice (BitVec.ofNat 8 n.1) seq rot) s = .next (s.hFrame (fenceFrame seq n) rot) := by
  have hn : (BitVec.ofNat 8 n.1).toNat = n.1 := by
    rw [BitVec.toNat_ofNat]
    exact Nat.mod_eq_of_lt (n.2.trans (by decide))
  change Host.Outcome.next (s.hFrame (writeFrame seq 0xA000 0x10 1 (BitVec.ofNat 8 n.1).toNat) rot) = _
  rw [hn, fenceFrame]

theorem exec_fenceSlice_fences (hp : s.phase = .ready) (ha : (s.slice n).alive = true) :
    exec (.fenceSlice (BitVec.ofNat 8 n.1) seq rot) s = .next ((s.fence n).answered (fenceFrame seq n) 0x40 0) := by
  obtain ⟨hrings, hatlas, hctx, hweight⟩ := within_of_blockWide (idx := 0xA000) (by decide) (by decide)
  have hj : s.judge (fenceFrame seq n) rot = 0x40 := by simp [State.judge_fenceFrame hp, ha]
  have heffect : s.writeScalar 0xA000 0x10 n.1 = s.fence n := by
    simp [State.writeScalar, hrings, hatlas, hctx, hweight, finOf]
  rw [exec_fenceSlice]
  refine congrArg Host.Outcome.next
    ((State.hFrame_plainWrite plain_fenceSlice (n.2.trans (by decide)) hp (by decide) hj).trans ?_)
  exact congrArg (State.answered · _ 0x40 0) heffect

theorem exec_fenceSlice_refused (hp : s.phase = .ready) (ha : (s.slice n).alive = false) :
    exec (.fenceSlice (BitVec.ofNat 8 n.1) seq rot) s = .next (s.answered (fenceFrame seq n) 0x47 0) := by
  have hj : s.judge (fenceFrame seq n) rot = 0x47 := by simp [State.judge_fenceFrame hp, ha]
  rw [exec_fenceSlice]
  exact congrArg Host.Outcome.next (State.hFrame_plainWrite_refused plain_fenceSlice hp (by decide) (by decide) hj)

end

/-! ### zeroise_all (R491, Table 14-7) -/

section
variable {s : State} {seq : BitVec 8} {rot : Bool}

/-- The write of zeroise_all. -/
def zeroiseFrame (seq : BitVec 8) : HReq := writeFrame seq 0x6000 5 1 1

theorem plain_zeroiseAll : PlainScalar 0x6000 5 1 ⟨.u8, .wo⟩ := ⟨rfl, rfl, .inl rfl, by decide, by decide⟩

/-- Nothing refuses a zeroise. -/
theorem State.judge_zeroiseFrame (hp : s.phase = .ready) : s.judge (zeroiseFrame seq) rot = 0x40 := by
  obtain ⟨hrings, hatlas, hctx, hweight⟩ := within_of_blockWide (idx := 0x6000) (by decide) (by decide)
  have hvalue : s.valueOk ⟨.u8, .wo⟩ 0x6000 5 1 = true := by
    unfold State.valueOk
    simp [hrings, hatlas, hctx, hweight]
  have hstate : s.stateOk (writeFrame seq 0x6000 5 1 1) = true := by
    unfold State.stateOk
    simp [writeFrame, hctx]
  rw [zeroiseFrame, State.judge_plainWrite plain_zeroiseAll (by decide) hp rfl (.inr ⟨rfl, by decide⟩) hvalue, hstate,
    State.notBusy_of_idx_ne (by simp [writeFrame])]
  simp only [Bool.not_true, Bool.false_eq_true, if_false]

theorem exec_zeroiseAll (hp : s.phase = .ready) :
    exec (.zeroiseAll 1 seq rot) s = .next (s.zeroiseEverything.answered (zeroiseFrame seq) 0x40 0) := by
  obtain ⟨hrings, hatlas, hctx, hweight⟩ := within_of_blockWide (idx := 0x6000) (by decide) (by decide)
  have heffect : s.writeScalar 0x6000 5 1 = s.zeroiseEverything := by
    simp [State.writeScalar, hrings, hatlas, hctx, hweight]
  refine congrArg Host.Outcome.next ((State.hFrame_plainWrite plain_zeroiseAll (by decide) hp (by decide)
    (State.judge_zeroiseFrame hp)).trans ?_)
  exact congrArg (State.answered · _ 0x40 0) heffect

/-- A scrub with its one-time key zero. -/
def Scrub.zeroed (k : Scrub) : Scrub := { k with key := 0 }

/-- A context after the zeroise: its keys gone, and a scrub's key zero (assumption 106). -/
theorem State.zeroiseEverything_ctx (s : State) (c : Fin 64) : s.zeroiseEverything.ctx c =
    { ((s.abortKeyed 0x03).ctx c).zeroKeys with scrub := ((s.abortKeyed 0x03).ctx c).scrub.map Scrub.zeroed } := by
  simp only [State.zeroiseEverything]
  generalize s.abortKeyed 0x03 = u
  simp only [State.ctx, State.raise, State.modHub, State.clearStage, State.zeroAllKeys, Vector.getElem_map]
  rfl

theorem State.zeroiseEverything_weights (s : State) :
    s.zeroiseEverything.hub.weights = (s.abortKeyed 0x03).zeroAllKeys.hub.weights := by
  simp only [State.zeroiseEverything]
  generalize s.abortKeyed 0x03 = u
  simp only [State.raise, State.modHub, State.clearStage]

/-- The keys outside the slots are zero, and event 0x9019 is raised after the aborts. -/
theorem State.zeroiseEverything_registers (s : State) : s.zeroiseEverything.hub.scrubRoot = 0 ∧
    s.zeroiseEverything.hub.keyStageLo = 0 ∧ s.zeroiseEverything.hub.keyStageHi = 0 ∧
    s.zeroiseEverything.hub.counters.events = bump 0x9019 1 (s.abortKeyed 0x03).hub.counters.events := by
  simp only [State.zeroiseEverything]
  generalize s.abortKeyed 0x03 = u
  refine ⟨?_, ?_, ?_, ?_⟩ <;> simp only [State.raise, State.modHub, State.clearStage, State.zeroAllKeys]

theorem State.zeroiseEverything_keysGone (s : State) : s.zeroiseEverything.KeysGone := by
  refine ⟨fun c => ?_, fun w => ?_⟩
  · rw [State.zeroiseEverything_ctx]
    exact ⟨rfl, rfl, rfl⟩
  · rw [State.zeroiseEverything_weights]
    exact (State.zeroAllKeys_keysGone _).2 w

theorem State.zeroiseEverything_scrubKey {c : Fin 64} {k : Scrub} (h : (s.zeroiseEverything.ctx c).scrub = some k) :
    k.key = 0 := by
  simp only [State.zeroiseEverything_ctx] at h
  obtain ⟨_, -, rfl⟩ := Option.map_eq_some_iff.1 h
  rfl

end

/-! ### bind_mask (R362, Table 10-6) -/

section
variable {s : State} {w : Fin 16} {mask : BitVec 64} {seq : BitVec 8}

/-- The write of a weight slot's bind_mask. -/
def bindFrame (w : Fin 16) (mask : BitVec 64) (seq : BitVec 8) : HReq := writeFrame seq (0x6200 + w.1) 2 8 mask.toNat

/-- The objects of a weight slot stand at 0x6200 to 0x620F (Table 12-6). -/
theorem weight_idx_ne (w : Fin 16) {k : Nat} (h : k < 0x6200 ∨ 0x6210 ≤ k) : 0x6200 + w.1 ≠ k := by omega

theorem within_contexts_weight (w : Fin 16) : within 0x3100 64 (0x6200 + w.1) = none ∧
    within 0x3200 64 (0x6200 + w.1) = none ∧ within 0x3300 64 (0x6200 + w.1) = none :=
  ⟨within_of_ge (by omega), within_of_ge (by omega), within_of_ge (by omega)⟩

theorem objOf_weight (recordLen sub : Nat) (w : Fin 16) : objOf recordLen (0x6200 + w.1) sub = weightObj sub := by
  obtain ⟨hrings, hatlas, hctx⟩ := within_contexts_weight w
  have hidentity : 0x6200 + w.1 ≠ 0x1000 := weight_idx_ne w (by decide)
  have hversions : ¬ 0x6200 + w.1 ≤ 0x11FF := by omega
  have hstacks : within 0x1200 12 (0x6200 + w.1) = none := within_of_ge (by omega)
  have hconfig : 0x6200 + w.1 ≠ 0x2000 := weight_idx_ne w (by decide)
  have hstream : 0x6200 + w.1 ≠ 0x4000 := weight_idx_ne w (by decide)
  have hcodec : 0x6200 + w.1 ≠ 0x5000 := weight_idx_ne w (by decide)
  have hsecurity : 0x6200 + w.1 ≠ 0x6000 := weight_idx_ne w (by decide)
  have hkeys : within 0x6100 64 (0x6200 + w.1) = none := within_of_ge (by omega)
  unfold objOf
  simp [hidentity, hversions, hstacks, hconfig, hrings, hatlas, hctx, hstream, hcodec, hsecurity, hkeys, within_add]

theorem plain_bindMask (w : Fin 16) : PlainScalar (0x6200 + w.1) 2 8 ⟨.u64, .rws⟩ where
  scalar := rfl
  width := rfl
  access := .inr rfl
  unmeasured := by
    have hstream : 0x6200 + w.1 ≠ 0x4000 := weight_idx_ne w (by decide)
    simp [measuredPairs, hstream]
  notKey h := absurd h.2 (by decide)

/-- The root of trust binds contexts to a weight slot as Table 10-6 allows. -/
theorem exec_bindMaskWrite (hp : s.phase = .ready) (hb : s.bindOk w mask.toNat = true) :
    exec (.bindMaskWrite w mask seq true) s = .next ((s.modHub (fun h => { h with weights := vmod h.weights w (fun x =>
      { x with bindMask := mask }) })).answered (bindFrame w mask seq) 0x40 0) := by
  obtain ⟨hrings, hatlas, hctx⟩ := within_contexts_weight w
  have hl : ∀ {k}, k < 0x6200 ∨ 0x6210 ≤ k → 0x6200 + w.1 ≠ k := weight_idx_ne w
  have hlt : mask.toNat < 2 ^ (8 * 8) := mask.isLt
  have hvalue : s.valueOk ⟨.u64, .rws⟩ (0x6200 + w.1) 2 mask.toNat = true := by
    unfold State.valueOk
    simp [hrings, hatlas, hctx, within_add, hb]
  have hstate : s.stateOk (bindFrame w mask seq) = true := by
    unfold State.stateOk
    simp [bindFrame, writeFrame, hctx]
  have hj : s.judge (bindFrame w mask seq) true = 0x40 := by
    rw [bindFrame, State.judge_plainWrite (plain_bindMask w) hlt hp (objOf_weight ..) (.inl rfl) hvalue, ← bindFrame, hstate,
      State.notBusy_of_idx_ne (hl (by decide))]
    simp only [Bool.not_true, Bool.false_eq_true, if_false]
  have heffect : s.writeScalar (0x6200 + w.1) 2 mask.toNat = s.modHub (fun h => { h with weights := vmod h.weights w (fun x =>
      { x with bindMask := mask }) }) := by
    simp [State.writeScalar, hrings, hatlas, hctx, within_add]
  refine congrArg Host.Outcome.next ((State.hFrame_plainWrite (plain_bindMask w) hlt hp (hl (by decide)) hj).trans ?_)
  exact congrArg (State.answered · _ 0x40 0) heffect

end

/-- Settles O54: a fence turns on the slice being alive, nothing refuses a zeroise, and a binding turns on Table 10-6. -/
theorem lastWordCommands : Obligations.LastWordCommands := by
  refine ⟨fun n seq rot s hp => ⟨exec_fenceSlice_fences hp, exec_fenceSlice_refused hp⟩, fun seq rot s hp => ?zeroises,
    fun w mask seq s hp => exec_bindMaskWrite hp⟩
  case zeroises =>
    have hexec := exec_zeroiseAll (seq := seq) (rot := rot) hp
    have hkeys := s.zeroiseEverything_keysGone
    have hscrub : ∀ c k, (s.zeroiseEverything.ctx c).scrub = some k → k.key = 0 := fun _ _ => State.zeroiseEverything_scrubKey
    have hregisters := s.zeroiseEverything_registers
    generalize s.zeroiseEverything = u at hexec hkeys hscrub hregisters
    obtain ⟨hcontexts, hweights⟩ := hkeys
    obtain ⟨hroot, hlo, hhi, hevents⟩ := hregisters
    exact ⟨_, hexec, hcontexts, hweights, hroot, hscrub, hlo, hhi, hevents, rfl⟩

end Sys2Proof.Machine
end

section
/-! SUPPORT. COUNTER_TICK and POWER_WINDOW: what a millisecond counts, when a lifetime record in production is whole, and what the
end of a power window shows (R368, R475, R494, R495; assumptions 16, 29, 31). -/
namespace Sys2Proof.Machine

/-! ### COUNTER_TICK -/

/-- A millisecond more of ACTIVE time for the slices that are ACTIVE, and of powered time (R494; assumption 31). -/
def State.tickCounts (s : State) : State :=
  ({ s with slices := s.slices.map (fun x =>
      { x with activeMs := x.activeMs + b2n (x.power == .active) }) } : State).modHub (fun h =>
    { h with
      ticks := h.ticks + 1
      counters := { h.counters with powerOnS := h.counters.powerOnS + b2n ((h.ticks + 1) % 1000 == 0) } })

theorem exec_counterTick {s : State} (hp : s.phase = .ready) :
    exec .counterTick s = .next s.tickCounts.endBuilding.latch := by
  change execCounterTick s = _
  simp [execCounterTick, State.live, hp, State.tickCounts]

theorem b2n_beq {α : Type} [BEq α] [LawfulBEq α] [DecidableEq α] (a b : α) : b2n (a == b) = if a = b then 1 else 0 := by
  by_cases h : a = b <;> simp [b2n, h]

section
variable (s : State)

theorem State.tickCounts_slice (n : Fin 132) : s.tickCounts.slice n =
    { s.slice n with activeMs := (s.slice n).activeMs + (if (s.slice n).power = .active then 1 else 0) } := by
  rw [← b2n_beq]
  exact Vector.getElem_map ..

theorem State.latch_latched : s.latch.hub.latched = s.latch.exactCounters := rfl

/-- What the end of a record's production leaves alone: time, the units, contexts, tally and stores. -/
structure KeepsCounting (s t : State) : Prop where
  ticks : t.hub.ticks = s.hub.ticks
  powerOnS : t.hub.counters.powerOnS = s.hub.counters.powerOnS
  slices : t.slices = s.slices
  ctxs : t.ctxs = s.ctxs
  stations : t.stations = s.stations
  tally : t.tally = s.tally
  stores : s.sameStores t

theorem State.checkpoint_keepsCounting : KeepsCounting s s.checkpoint := by
  constructor
  case stores => exact s.checkpoint_sameStores
  all_goals simp only [State.checkpoint, State.raise, State.modHub]

theorem State.endBuilding_keepsCounting : KeepsCounting s s.endBuilding := by
  unfold State.endBuilding
  split
  · exact s.checkpoint_keepsCounting
  · exact ⟨rfl, rfl, rfl, rfl, rfl, rfl, State.sameStores_refl.modHub _⟩

/-- A record that fell due follows at once, and the next one has not fallen due (R495; assumption 29). -/
theorem State.endBuilding_record : s.endBuilding.hub.building = s.hub.checkpointDue ∧
    s.endBuilding.hub.checkpointDue = false ∧
    s.endBuilding.hub.checkpointSeq = s.hub.checkpointSeq + (if s.hub.checkpointDue then 1 else 0) := by
  obtain ⟨hseq, hbuilding, hdue, -⟩ := s.checkpoint_counts
  unfold State.endBuilding
  cases h : s.hub.checkpointDue
  · exact ⟨rfl, h, (BitVec.add_zero _).symm⟩
  · exact ⟨hbuilding, hdue, hseq⟩

end

theorem counterTicks : Claims.CounterTicks := by
  intro s hp
  have hexec := exec_counterTick hp
  have hslice := s.tickCounts_slice
  have hkeeps := s.tickCounts.endBuilding_keepsCounting
  obtain ⟨hbuilding, hdue, hseq⟩ := s.tickCounts.endBuilding_record
  generalize s.tickCounts.endBuilding = u at hexec hkeeps hbuilding hdue hseq
  refine ⟨_, hexec, hkeeps.ticks, ?powered, fun n => ?active, hbuilding, hdue, hseq, u.latch_latched, hkeeps.ctxs,
    hkeeps.stations, hkeeps.tally, hkeeps.stores⟩
  case powered =>
    rw [← b2n_beq]
    exact hkeeps.powerOnS
  case active =>
    rw [← hslice n]
    exact congrArg (·[n.1]) hkeeps.slices

/-! ### POWER_WINDOW -/

/-- The whole twentieths of a joule that the open window's estimate holds, at most 255 (R475; the estimate is in picojoule). -/
def State.powerShown (s : State) : Nat := min (s.hub.energy / (5 * 10 ^ 10)) 255

theorem exec_powerWindow {s : State} (hp : s.phase = .ready) : exec .powerWindow s = .next
    { s with pins := { s.pins with powerQ := BitVec.ofNat 8 s.powerShown }, hub := { s.hub with energy := 0 } } := by
  change execPowerWindow s = _
  simp [execPowerWindow, State.live, hp, State.powerShown]

theorem State.powerShown_toNat (s : State) : (BitVec.ofNat 8 s.powerShown).toNat = s.powerShown := by
  have hle : s.powerShown ≤ 255 := Nat.min_le_right ..
  rw [BitVec.toNat_ofNat]
  exact Nat.mod_eq_of_lt (Nat.lt_succ_of_le hle)

theorem powerTelemetry : Claims.PowerTelemetry := fun s hp => ⟨_, exec_powerWindow hp, s.powerShown_toNat, rfl⟩

/-- Settles O57: the tick's counts, then the end of the record in production, then the latch; a window's end by R475's formula. -/
theorem ticksAndPower : Obligations.TicksAndPower := ⟨counterTicks, powerTelemetry⟩

end Sys2Proof.Machine
end

section
/-! SUPPORT. The canonical form of the stores, at reset and over every step (R387, R392, R393; assumption 8). -/
namespace Sys2Proof.Machine

/-! ### Reset -/

/-- Settles O3: reset leaves every store without a byte. -/
theorem resetStoresCanonical : Obligations.ResetStoresCanonical :=
  ⟨rfl, fun m => by simp only [State.stack, State.reset, Vector.getElem_replicate, Mem.wf]⟩

/-! ### The commands that change a pin, the phase or the tally, and keep the rest -/

section
variable {s : State}

/-- A command's next state has canonical stores if `s` has. -/
def State.KeepsCanonical (s : State) (o : Host.Outcome State Fault Refusal) : Prop := ∀ t, o = .next t → s.storesWf → t.storesWf

/-- An operation on a state that has the stores of `s`. -/
theorem State.keepsCanonical_of_keepsX {s1 : State} {o : Host.Outcome State Fault Refusal} (hk : KeepsX s1 o)
    (h : s.storesWf → s1.storesWf) : s.KeepsCanonical o := fun t ht hs => (hk t ht).stores (h hs)

/-- A next state that has the stores of `s`. -/
theorem State.keepsCanonical_next {t : State} (h : s.storesWf → t.storesWf) : s.KeepsCanonical (.next t) :=
  State.keepsCanonical_of_keepsX (KeepsX.next (Keeps.refl t)) h

theorem State.drawNear_storesWf (rom : List (BitVec 32)) (h : s.storesWf) : (s.drawNear rom).2.storesWf := by
  unfold State.drawNear
  split <;> exact h

theorem execStartInstant_canonical (rom : List (BitVec 32)) : s.KeepsCanonical (execStartInstant rom s) := by
  by_cases hp : s.phase = .held
  · rw [execStartInstant_of_held hp]
    exact State.keepsCanonical_of_keepsX (s1 := (s.drawNear rom).2.started rom (s.drawNear rom).1)
      (KeepsX.next ((Keeps.refl _).each fun _ _ k => k.raise)) (State.drawNear_storesWf rom)
  · have hexec : execStartInstant rom s = .next s := by simp [execStartInstant, hp]
    rw [hexec]
    exact State.keepsCanonical_next id

theorem execSbReady_canonical : s.KeepsCanonical (execSbReady s) := by
  have hk : ∀ ms : List (Fin 12), Keeps _ (State.each _ ms (fun t m => t.failStation m)).measureNow.latch.settleOpReq :=
    fun ms => ((Keeps.refl { s with phase := .ready, pins := { s.pins with ready := true } }).each
      fun _ _ k => k.failStation).measureNow.latch.settleOpReq
  unfold execSbReady
  split
  · exact State.keepsCanonical_next id
  · exact State.keepsCanonical_of_keepsX (KeepsX.next (Keeps.ite _ (hk _).raise (hk _))) id

theorem execThermalTrip_canonical : s.KeepsCanonical (execThermalTrip s) := by
  unfold execThermalTrip
  split
  · exact State.keepsCanonical_next id
  · exact State.keepsCanonical_of_keepsX (s1 := { s with pins := { s.pins with thermal := true } })
      (KeepsX.next (Keeps.refl _).count.raise.settleOpReq) id

theorem execThermalTripClear_canonical : s.KeepsCanonical (execThermalTripClear s) :=
  State.keepsCanonical_of_keepsX (s1 := { s with pins := { s.pins with thermal := false } })
    (KeepsX.next (Keeps.ite _ (Keeps.refl _).settleOpReq (Keeps.refl _))) id

theorem execOpGrantChange_canonical (g : BitVec 2) : s.KeepsCanonical (execOpGrantChange g s) :=
  State.keepsCanonical_of_keepsX (s1 := { s with pins := { s.pins with opGrant := g } })
    (KeepsX.next (Keeps.ite _ (Keeps.refl _).raise (Keeps.refl _))) id

theorem execHLockedFall_canonical : s.KeepsCanonical (execHLockedFall s) :=
  State.keepsCanonical_of_keepsX (s1 := { s with pins := { s.pins with hLocked := false } })
    (KeepsX.next (Keeps.ite _ (Keeps.refl _).abortKeyed.zeroAllKeys.raise (Keeps.refl _))) id

theorem tallyRow_canonical {c : Instr} (hc : tallyRow c = true) : s.KeepsCanonical (exec c s) := by
  cases c
  case tallySupplyLoss => exact State.keepsCanonical_next id
  case tallyCount | tallyOpenMessage | epochEnd | tPortOpen | tallySupplyReturn =>
    simp only [exec, execTallyCount, execTallyOpenMessage, execEpochEnd, execTPortOpen, execTallySupplyReturn]
    split <;> exact State.keepsCanonical_next id
  case tallyRequest | tallyRecordOffer =>
    simp only [exec, execTallyRequest, execTallyRecordOffer]
    split
    · exact State.keepsCanonical_next id
    · exact State.keepsCanonical_of_keepsX (KeepsX.next (Keeps.refl _).spendTally) id
  all_goals cases hc

/-! ### Every command, and every step -/

/-- A command either keeps what `Keeps` says, or does so from a state that differs in the pins, the phase or the tally. -/
theorem exec_canonical (c : Instr) : s.KeepsCanonical (exec c s) := by
  by_cases hplain : plain c = true
  · exact State.keepsCanonical_of_keepsX (exec_keeps hplain) id
  by_cases htally : tallyRow c = true
  · exact tallyRow_canonical htally
  cases c
  case startInstant rom => exact execStartInstant_canonical rom
  case sbReady => exact execSbReady_canonical
  case reset => exact State.keepsCanonical_next id
  case supplyLoss => exact State.keepsCanonical_next id
  case thermalTrip => exact execThermalTrip_canonical
  case thermalTripClear => exact execThermalTripClear_canonical
  case opGrantChange g => exact execOpGrantChange_canonical g
  case hLockedFall => exact execHLockedFall_canonical
  case hLockedRise => exact State.keepsCanonical_next id
  case tallyCount | tallyOpenMessage | epochEnd | tallyRequest | tallyRecordOffer | tPortOpen | tallySupplyLoss
    | tallySupplyReturn => exact absurd rfl htally
  all_goals exact absurd rfl hplain

theorem State.tick_storesWf (h : s.storesWf) : s.tick.storesWf := by
  unfold State.tick
  split <;> exact h

end

/-- Settles O4: a queued command keeps the form on the state with the queue's rest, and a cycle without one writes no store. -/
theorem stepKeepsStores : Obligations.StepKeepsStores := by
  intro s t hs hstep
  cases hq : s.pending with
  | nil =>
    rw [step_of_empty hq] at hstep
    cases hstep
    exact State.tick_storesWf ((Keeps.refl s).findReady.stores hs)
  | cons c rest =>
    have hexec : exec c { s with pending := rest } = .next t := by simpa only [step, hq] using hstep
    exact exec_canonical c t hexec hs

end Sys2Proof.Machine
end

section
/-! SUPPORT. CREDIT_FRAME, CREDIT_TIMER and FRAME_SEND: whom a credit is for and how it is shared, and what a link station sends
next (R382, R416, R417, R423; assumption 71). -/
namespace Sys2Proof.Machine

/-! ### A CREDIT frame (R417, R423) -/

/-- The receiver that a CREDIT frame comes from, by the header's engine, contexts and tag. -/
def State.creditsFrom (s : State) (h : FrameHeader) (r : Receiver) : Bool :=
  r.engine == h.srcEngine && r.context == h.srcContext && (match s.step? r.slot with
    | some x => x.ctx.1 == h.dstContext && x.head.tag == h.tag
    | none => false)

theorem exec_creditFrame {ls : Fin 16} {f : RxFrame} {s : State} (hf : s.frameAt ls (· == 5) = some f)
    (ho : f.outcome = some false) (hparse : (f.parse (s.link ls).version).2 = none)
    (he : f.header.dstEngine = s.ident.engineId.toNat) : exec (.creditFrame ls) s = .next
      (((s.modLink ls (fun x =>
        { x with receivers := creditReceivers (s.creditsFrom f.header) f.header.credit x.receivers })).settleReceivers ls).frameDone ls
        f.number) := by
  change execCreditFrame ls s = _
  simp only [execCreditFrame, hf, ho, hparse, he, Option.isSome_none, bne_self_eq_false, Bool.or_self, Bool.false_eq_true,
    if_false]
  rfl

/-! ### What a credit takes off in all (R417) -/

section
variable {mine : Receiver → Bool}

/-- What some receivers have outstanding in all. -/
def outstanding (rs : List Receiver) : Nat := (rs.map (·.outBytes)).sum

theorem sumNat_outBytes (rs : List Receiver) : sumNat (rs.map (·.outBytes)) = outstanding rs := List.sum_eq_foldl.symm

theorem outstanding_cons (r : Receiver) (rs : List Receiver) : outstanding (r :: rs) = r.outBytes + outstanding rs :=
  List.sum_cons

theorem outstanding_filter_le (rs : List Receiver) : outstanding (rs.filter mine) ≤ outstanding rs :=
  (List.filter_sublist.map _).sum_le_sum fun _ _ => Nat.zero_le _

/-- A receiver takes of the credit what it has outstanding, and those after it share the rest. -/
theorem outstanding_creditReceivers (n : Nat) (rs : List Receiver) :
    outstanding (creditReceivers mine n rs) = outstanding rs - min n (outstanding (rs.filter mine)) := by
  induction rs generalizing n with
  | nil => simp [creditReceivers, outstanding]
  | cons r rs ih =>
    have hle := outstanding_filter_le (mine := mine) rs
    cases hr : mine r with
    | true =>
      have htaken : outstanding (creditReceivers mine n (r :: rs)) =
          r.outBytes - min n r.outBytes + outstanding (creditReceivers mine (n - min n r.outBytes) rs) := by
        simp only [creditReceivers, hr, if_true, outstanding_cons]
      rw [htaken, ih, List.filter_cons_of_pos hr, outstanding_cons, outstanding_cons]
      omega
    | false =>
      simp only [creditReceivers, hr, Bool.false_eq_true, if_false, outstanding_cons, ih, List.filter_cons]
      omega

end

/-! ### What is sent next (R382, R416; assumption 71) -/

section
variable {ls : Fin 16} {s : State} (hp : s.phase = .ready) (hup : s.linkUp ls = true)
include hp hup

theorem exec_creditTimer : exec (.creditTimer ls) s = .next (s.sendCredits ls (fun u => u.bytes != 0)) := by
  change execCreditTimer ls s = _
  simp [execCreditTimer, State.live, hp, hup]

section
variable (ho : (s.link ls).lVer.isOpen = true)
include ho

theorem exec_frameSend_queued {f : TxFrame} {rest : List TxFrame} (htx : (s.link ls).tx = f :: rest) :
    exec (.frameSend ls) s = .next (s.sendQueued ls f rest) := by
  change execFrameSend ls s = _
  simp [execFrameSend, State.live, hp, hup, ho, htx]

theorem exec_frameSend_data {t : State} (htx : (s.link ls).tx = [])
    (ht : (s.link ls).receivers.findSome? (s.serveReceiver ls) = some t) : exec (.frameSend ls) s = .next t := by
  change execFrameSend ls s = _
  simp [execFrameSend, State.live, hp, hup, ho, htx, ht]

end

end

/-- Settles O41: a credit is for the receivers of its header, shared in their order; a queued frame goes before any data. -/
theorem linkSending : Obligations.LinkSending := by
  refine ⟨fun ls f s => exec_creditFrame, fun ls s hp hup => ⟨exec_creditTimer hp hup,
    fun _ _ ho => exec_frameSend_queued hp hup ho, fun _ ho => exec_frameSend_data hp hup ho⟩, fun mine n rs => ?_⟩
  rw [sumNat_outBytes, sumNat_outBytes, sumNat_outBytes]
  exact outstanding_creditReceivers n rs

end Sys2Proof.Machine
end

section
/-! SUPPORT. STACK_IDENTITY_READ and VERSION_SAMPLE: what a station takes of its stack's identity, the cycles of the wrapper's
serial port, and the version at which a port opens (R383, R384, R390, R391). -/
namespace Sys2Proof.Machine

/-! ### The wrapper's serial port (R390) -/

section
variable (id : Identity)

theorem wrapperCycles_length : (wrapperCycles id).length = id.wirLen + id.idLen + 7 := by
  simp only [wrapperCycles, List.length_append, List.length_replicate, List.length_map, List.length_range, List.length_cons,
    List.length_nil]
  omega

/-- Only the instruction drives the serial input. -/
theorem wrapperCycles_wsi :
    (wrapperCycles id).filterMap (·.wsi) = (List.range id.wirLen).map (bitAt id.wirInstruction.toNat) := by
  simp [wrapperCycles, List.filterMap_replicate_of_none, List.filterMap_map]

theorem wrapperCycles_resets : ((wrapperCycles id).map (·.wrst)).count true = 4 := by
  simp [wrapperCycles, Function.comp_def, List.count_replicate]

end

/-! ### The identity of a stack (R390, R391) -/

section
variable {ms : Fin 12} {bits : Nat} {s : State} (hp : s.phase = .starting) (hpresent : (s.station ms).present = true)
  (hid : (s.station ms).idValid = false) (hfailed : (s.station ms).failed = false)
include hp hpresent hid hfailed

/-- What an identity is taken for is one test of the profile, the rate and the capacity field. -/
theorem exec_stackIdentityRead :
    let v := bits % 2 ^ s.ident.idLen
    let cap := field v s.ident.capPos s.ident.capWidth
    let rate := field v s.ident.ratePos s.ident.rateWidth
    exec (.stackIdentityRead ms bits) s = .next
      (if s.ident.profileOk = false ∨ rate * s.ident.rateScale = 0 ∨ cap = 2 ^ s.ident.capWidth - 1 then
        ((s.modStation ms (fun m => { m with identity := BitVec.ofNat 1024 v, wrapper := wrapperCycles s.ident })).raise 0x9009
          none (0x90 + ms.1) cap rate).failStation ms
      else s.modStation ms (fun m =>
        { m with idValid := true, capacityLog2 := Nat.min cap 8, rate := rate * s.ident.rateScale, identity := BitVec.ofNat 1024 v
                 wrapper := wrapperCycles s.ident })) := by
  extract_lets v cap rate
  change execStackIdentityRead ms bits s = _
  have hgo : (s.phase != .starting || !(s.station ms).present || (s.station ms).idValid || (s.station ms).failed) = false := by
    simp [hp, hpresent, hid, hfailed]
  simp only [execStackIdentityRead, hgo, Bool.false_eq_true, if_false, apply_ite Host.Outcome.next]
  simp only [Bool.or_eq_true, Bool.not_eq_true', beq_iff_eq, or_assoc]
  rfl

end

/-- Settles O10: an identity is refused for its profile, its rate or its capacity field, and taken otherwise. -/
theorem stackIdentity : Obligations.StackIdentity := by
  intro ms bits s hp hpresent hid hfailed v cap rate
  have hexec := exec_stackIdentityRead (bits := bits) hp hpresent hid hfailed
  refine ⟨fun hprofile hrate hcap => ?taken, fun hbad => ?refused, wrapperCycles_length _, wrapperCycles_wsi _,
    wrapperCycles_resets _⟩
  case taken =>
    have hgood : ¬ (s.ident.profileOk = false ∨ rate * s.ident.rateScale = 0 ∨ cap = 2 ^ s.ident.capWidth - 1) := by
      simp only [hprofile, hrate, hcap, Bool.true_eq_false, or_self, not_false_eq_true]
    exact hexec.trans (congrArg _ (if_neg hgood))
  case refused => exact hexec.trans (congrArg _ (if_pos hbad))

/-! ### The version of a port (R383, R384) -/

theorem agree_of_two_le {peer : Nat} (h : 2 ≤ peer) : agree peer = .agreed (min 3 peer) := if_neg (Nat.not_lt.2 h)

theorem agree_of_lt_two {peer : Nat} (h : peer < 2) : agree peer = .disabled := if_pos h

section
variable {u : UnitId} {own : Bool} {peer : BitVec 4} {letter : Nat} {s : State} (hp : s.phase = .ready)
  (hport : s.portOf u own = some (.waiting, letter))
include hp hport

theorem exec_versionSample : exec (.versionSample u own peer) s = .next
    (if agree peer.toNat = .disabled then
      let t := (s.setPort u own (agree peer.toNat)).raise 0x9008 none (unitNo u) letter peer.toNat
      if u = .hub ∧ own = true then t else t.failUnit u
    else
      let t := s.setPort u own (agree peer.toNat)
      if u = .hub ∧ own = true then t.each t.hub.cOut (fun w _ => w.cIssue) else t) := by
  change execVersionSample u own peer s = _
  by_cases hv : agree peer.toNat = .disabled <;> simp [execVersionSample, State.live, hp, hport, hv]

/-- At 2 and above the port opens; the C-port then sends what waited for it. -/
theorem exec_versionSample_opens (h : 2 ≤ peer.toNat) : exec (.versionSample u own peer) s = .next
    (let t := s.setPort u own (.agreed (min 3 peer.toNat))
     if u = .hub ∧ own = true then t.each t.hub.cOut (fun w _ => w.cIssue) else t) := by
  rw [exec_versionSample hp hport, agree_of_two_le h, if_neg (by simp)]

/-- Below 2 the port is disabled and its unit fails, but for the C-port. -/
theorem exec_versionSample_disables (h : peer.toNat < 2) : exec (.versionSample u own peer) s = .next
    (let t := (s.setPort u own .disabled).raise 0x9008 none (unitNo u) letter peer.toNat
     if u = .hub ∧ own = true then t else t.failUnit u) := by
  rw [exec_versionSample hp hport, agree_of_lt_two h, if_pos rfl]

end

/-- Settles O12: the version is agreed on by the sample alone, and what follows turns on the port being the C-port. -/
theorem versionAgreed : Obligations.VersionAgreed := by
  intro u own peer letter s hp hport
  have other : (u = .hub → own = false) → ¬ (u = .hub ∧ own = true) :=
    fun h hc => Bool.false_ne_true ((h hc.1).symm.trans hc.2)
  refine ⟨fun hv hc => ?opens, fun hv hu ho => ?cOpens, fun hv hc => ?fails, fun hv hu ho => ?cDisabled⟩
  case opens => exact (exec_versionSample_opens hp hport hv).trans (congrArg _ (if_neg (other hc)))
  case cOpens =>
    subst hu ho
    exact exec_versionSample_opens hp hport hv
  case fails => exact (exec_versionSample_disables hp hport hv).trans (congrArg _ (if_neg (other hc)))
  case cDisabled => exact (exec_versionSample_disables hp hport hv).trans (congrArg _ (if_pos ⟨hu, ho⟩))

end Sys2Proof.Machine
end

section
/-! SUPPORT. Beats and acknowledgements of the M-, N- and C-ports: of outstanding requests, and of none (R381, R385, R387 to R389,
R392 to R395, R410, R411; assumptions 7 and 12). -/
namespace Sys2Proof.Machine

/-- What a beat does turns on its last mark. -/
theorem next_by_last {o : Host.Outcome State Fault Refusal} {last : Bool} {t u : State} (h : o = .next (if last then t else u)) :
    (last = true → o = .next t) ∧ (last = false → o = .next u) := by
  cases last
  · exact ⟨(nomatch ·), fun _ => h⟩
  · exact ⟨fun _ => h, (nomatch ·)⟩

/-! ### The M-port (R387 to R389) -/

section
variable {ms : Fin 12} {s : State} (hp : s.phase = .ready) (hup : s.stationUp ms = true)
include hp hup

section
variable {id : BitVec 9} {last : Bool} (data : Bytes) (err : BitVec 16)

theorem exec_mReadBeat_stray (hw : (s.station ms).window.find? (fun w => w.id == id.toNat && !w.req.wr) = none) :
    exec (.mReadBeat ms id data last err) s = .fault .strayReadBeat := by
  change execMReadBeat ms id data last err s = _
  simp [execMReadBeat, State.live, hp, hup, hw]

/-- A beat whose last mark agrees with the request's length: 1,024 B come, or what is left. -/
theorem exec_mReadBeat {o : MOut} (hw : (s.station ms).window.find? (fun w => w.id == id.toNat && !w.req.wr) = some o)
    (hlast : last = decide (o.req.bytes ≤ o.got + 1024)) :
    let n := min 1024 (o.req.bytes - o.got)
    let a := o.req.first + o.got
    let bad := ((List.range 16).filter (fun g => bitAt err.toNat g && 64 * g < n)).map (fun g => a + 64 * g)
    let s1 := (s.learnM ms a (fitTo n (data.take n)) bad).spend 2 1
    let o2 : MOut := { o with got := o.got + n, data := o.data ++ fitTo n (data.take n), bad := o.bad ++ bad }
    exec (.mReadBeat ms id data last err) s = .next
      (if last then ((s1.modStation ms (fun x => { x with window := x.window.filter (fun p => p.id != o.id) })).rangesDone ms
        o.req o2.data o2.bad).wake [ms]
      else s1.modStation ms (fun x => { x with window := x.window.map (fun p => if p.id == o.id then o2 else p) })) := by
  extract_lets n a bad s1 o2
  have hgo : (!s.live || !s.stationUp ms) = false := by simp [State.live, hp, hup]
  have hend : o.got + Nat.min 1024 (o.req.bytes - o.got) ≥ o.req.bytes ↔ last = true := by
    rw [hlast, decide_eq_true_iff]
    change o.got + min 1024 (o.req.bytes - o.got) ≥ o.req.bytes ↔ _
    omega
  change execMReadBeat ms id data last err s = _
  simp only [execMReadBeat, hgo, hw, hend, Bool.decide_eq_true, bne_self_eq_false, Bool.false_eq_true, if_false,
    apply_ite Host.Outcome.next]
  rfl

end

section
variable {id : BitVec 9}

theorem exec_mWriteAck_stray (hw : (s.station ms).window.find? (fun w => w.id == id.toNat && w.req.wr) = none) :
    exec (.mWriteAck ms id) s = .fault .strayWriteAck := by
  change execMWriteAck ms id s = _
  simp [execMWriteAck, State.live, hp, hup, hw]

theorem exec_mWriteAck {o : MOut} (hw : (s.station ms).window.find? (fun w => w.id == id.toNat && w.req.wr) = some o) :
    exec (.mWriteAck ms id) s = .next
      ((s.modStation ms (fun x => { x with window := x.window.filter (fun p => p.id != o.id) })).each o.req.ranges
        (fun t r => t.jobStep ms r.job)) := by
  change execMWriteAck ms id s = _
  simp [execMWriteAck, State.live, hp, hup, hw]

end

end

/-- Settles O29: the beat is the last when what has come with it reaches the request's length. -/
theorem stackBeats : Obligations.StackBeats := by
  exact ⟨fun _ _ data _ err _ _ hp hup hw hlast => next_by_last (exec_mReadBeat hp hup data err hw hlast),
    fun _ _ _ _ hp hup hw => exec_mWriteAck hp hup hw⟩

/-! ### The N-ports (R392, R393) -/

section
variable {sl : Fin 132} {s : State} (hp : s.phase = .ready) (ha : (s.slice sl).alive = true)
include hp ha

section
variable {id : BitVec 8} {last : Bool} (data : Bytes) (err : BitVec 8)

theorem exec_nReadBeat_stray (hq : takeBeat id.toNat 512 last (s.slice sl).nOut = none) :
    exec (.nReadBeat sl id data last err) s = .fault .strayReadBeat := by
  change execNReadBeat sl id data last err s = _
  simp [execNReadBeat, State.live, hp, ha, hq]

theorem exec_nReadBeat {q : NReq} (hq : takeBeat id.toNat 512 last (s.slice sl).nOut = some q) :
    let n := min 512 (q.len - q.got)
    let a := q.addr + q.got
    let bad := ((List.range 8).filter (fun g => bitAt err.toNat g && 64 * g < n)).map (fun g => a + 64 * g)
    let s1 := (s.learnRead a (fitTo n (data.take n)) bad).spend 3 1
    exec (.nReadBeat sl id data last err) s = .next (if last then (s1.nRetire sl q.id).nReadDone sl q.purpose
      else s1.modSlice sl (fun x =>
        { x with nOut := x.nOut.map (fun p => if p.id == q.id then { p with got := p.got + n } else p) })) := by
  extract_lets n a bad s1
  have hgo : (!s.live || !(s.slice sl).alive) = false := by simp [State.live, hp, ha]
  change execNReadBeat sl id data last err s = _
  simp only [execNReadBeat, hgo, hq, Bool.false_eq_true, if_false, apply_ite Host.Outcome.next]
  rfl

end

section
variable {id : BitVec 8}

theorem exec_nWriteAck_stray (hq : (s.slice sl).nOut.find? (fun q => q.id == id.toNat && q.wr) = none) :
    exec (.nWriteAck sl id) s = .fault .strayWriteAck := by
  change execNWriteAck sl id s = _
  simp [execNWriteAck, State.live, hp, ha, hq]

theorem exec_nWriteAck {q : NReq} (hq : (s.slice sl).nOut.find? (fun w => w.id == id.toNat && w.wr) = some q) :
    exec (.nWriteAck sl id) s = .next ((s.nRetire sl q.id).nWriteDone sl q.purpose) := by
  change execNWriteAck sl id s = _
  simp [execNWriteAck, State.live, hp, ha, hq]

end

end

/-! ### A request that is done, and the one that takes its id (R387, R393, R394) -/

section
variable (s : State)

/-- A write of the N-port that goes out has its data beats follow. -/
theorem State.nSent_slice (n : Fin 132) {q : NReq} (hwr : q.wr = true) :
    (s.nSent n q).slice n = { s.slice n with nWd := q.beats 512 } := by
  rw [State.nSent, if_pos hwr]
  exact vmod_same s.slices n _

theorem State.nSent_nOut (n : Fin 132) (q : NReq) : ((s.nSent n q).slice n).nOut = (s.slice n).nOut := by
  by_cases hwr : q.wr = true
  · rw [s.nSent_slice n hwr]
  · rw [State.nSent, if_neg hwr]

theorem State.nRetire_nOut (n : Fin 132) (id : Nat) : ((s.nRetire n id).slice n).nOut = retireReq id 256 (s.slice n).nOut := by
  unfold State.nRetire
  extract_lets s1
  have hretired : (s1.slice n).nOut = retireReq id 256 (s.slice n).nOut := congrArg Slice.nOut (State.modSlice_same ..)
  split
  · exact (s1.nSent_nOut n _).trans hretired
  · exact hretired

theorem State.nRetire_nWd (n : Fin 132) {id : Nat} {q : NReq}
    (hq : (retireReq id 256 (s.slice n).nOut).find? (fun w => w.id == id) = some q) (hwr : q.wr = true) :
    ((s.nRetire n id).slice n).nWd = q.beats 512 := by
  unfold State.nRetire
  simp only [State.modSlice_same, hq]
  rw [State.nSent_slice _ n hwr]

/-- Sending a request of the C-port changes the beats of its write channel and the energy estimate alone. -/
theorem State.cSent_eq (q : NReq) : ∃ wd e, s.cSent q = s.modHub (fun h => { h with cWd := wd, energy := e }) ∧
    (q.wr = true → wd = q.beats 64) := by
  unfold State.cSent
  split
  · exact ⟨_, _, rfl, fun _ => rfl⟩
  · exact ⟨s.hub.cWd, s.hub.energy, rfl, fun h => absurd h ‹_›⟩

/-- The end of a request of the C-port changes the requests, the beats of its write channel and the energy estimate alone. -/
theorem State.cRetire_eq (id : Nat) : ∃ wd e,
    s.cRetire id = s.modHub (fun h => { h with cOut := retireReq id 64 h.cOut, cWd := wd, energy := e }) ∧
    ∀ q, (retireReq id 64 s.hub.cOut).find? (fun w => w.id == id) = some q → q.wr = true → wd = q.beats 64 := by
  unfold State.cRetire
  extract_lets s1
  split
  case h_1 q hq =>
    obtain ⟨wd, e, hsent, hwd⟩ := s1.cSent_eq q
    exact ⟨wd, e, hsent, fun p hp hwr => by cases hq.symm.trans hp; exact hwd hwr⟩
  case h_2 hnone => exact ⟨s.hub.cWd, s.hub.energy, rfl, fun p hp => nomatch hnone.symm.trans hp⟩

end

/-! ### The C-port (R385, R394, R395) -/

section
variable {s : State} (ho : s.cOpen = true)
include ho

section
variable {id : BitVec 6} {last : Bool} (data : Bytes) (err : BitVec 2)

theorem exec_cReadBeat_stray (hq : takeBeat id.toNat 128 last s.hub.cOut = none) :
    exec (.cReadBeat id data last err) s = .fault .strayReadBeat := by
  change execCReadBeat id data last err s = _
  simp [execCReadBeat, ho, hq]

theorem exec_cReadBeat {q : NReq} (hq : takeBeat id.toNat 128 last s.hub.cOut = some q) :
    let n := min 128 (q.len - q.got)
    let a := q.addr + q.got
    let bad := ((List.range 2).filter (fun g => bitAt err.toNat g)).map (fun g => a / 64 * 64 + 64 * g)
    let s1 := (s.learnRead a (fitTo n (data.take n)) bad).spend 4 1
    exec (.cReadBeat id data last err) s = .next (if last then (s1.cRetire q.id).cReadDone q.purpose
      else s1.modHub (fun h =>
        { h with cOut := h.cOut.map (fun p => if p.id == q.id then { p with got := p.got + n } else p) })) := by
  extract_lets n a bad s1
  change execCReadBeat id data last err s = _
  simp only [execCReadBeat, ho, hq, Bool.not_true, Bool.false_eq_true, if_false, apply_ite Host.Outcome.next]
  rfl

end

section
variable {id : BitVec 6}

theorem exec_cWriteAck_stray (hq : s.hub.cOut.find? (fun q => q.id == id.toNat && q.wr) = none) :
    exec (.cWriteAck id) s = .fault .strayWriteAck := by
  change execCWriteAck id s = _
  simp [execCWriteAck, ho, hq]

/-- An acknowledged write of the hub ends; only a record's first entry and a step's own write do more. -/
theorem exec_cWriteAck {q : NReq} (hq : s.hub.cOut.find? (fun w => w.id == id.toNat && w.wr) = some q) :
    ∃ t, exec (.cWriteAck id) s = .next t ∧ t.hub.cOut = retireReq q.id 64 s.hub.cOut ∧ s.sameStores t ∧ t.ctxs = s.ctxs ∧
      (∀ c ring, q.purpose = .record c ring true → s.hub.cVer ≠ .agreed 2 → t.hub.cplPulse = some (c, ring)) ∧
      ((∀ c ring, q.purpose = .record c ring true → s.hub.cVer = .agreed 2) → t.hub.cplPulse = s.hub.cplPulse) ∧
      (∀ slot, q.purpose = .hubWrite slot → t.hub.steps =
        s.hub.steps.map (fun x => if x.slot == slot then { x with toDo := x.toDo - 1 } else x)) := by
  obtain ⟨wd, e, hretire, -⟩ := s.cRetire_eq q.id
  change ∃ t, execCWriteAck id s = .next t ∧ _
  simp only [execCWriteAck, ho, hq, hretire, Bool.not_true, Bool.false_eq_true, if_false]
  split
  case h_1 c ring hpurpose =>
    simp only [hpurpose, beq_iff_eq]
    by_cases hv : s.hub.cVer = .agreed 2
    · rw [if_pos hv]
      exact ⟨_, rfl, rfl, State.sameStores_refl.modHub _, rfl, fun _ _ _ hne => absurd hv hne, fun _ => rfl,
        fun _ h => nomatch h⟩
    · rw [if_neg hv]
      exact ⟨_, rfl, rfl, (State.sameStores_refl.modHub _).modHub _, rfl, fun _ _ h _ => by cases h; rfl,
        fun h => absurd (h _ _ rfl) hv, fun _ h => nomatch h⟩
  case h_2 slot hpurpose =>
    simp only [hpurpose]
    exact ⟨_, rfl, rfl, (State.sameStores_refl.modHub _).modHub _, rfl, fun _ _ h => (by cases h), fun _ => rfl,
      fun _ h => by cases h; rfl⟩
  case h_3 hrecord hwrite =>
    exact ⟨_, rfl, rfl, State.sameStores_refl.modHub _, rfl, fun _ _ h => absurd h (hrecord _ _), fun _ => rfl,
      fun _ h => absurd h (hwrite _)⟩

end

end

/-- Settles O31: each row takes its outstanding request; what its end changes of the C-port is the equation of `cRetire`. -/
theorem nearBeats : Obligations.NearBeats := by
  refine ⟨fun _ _ data _ err _ _ hp ha hq => next_by_last (exec_nReadBeat hp ha data err hq),
    fun _ _ _ _ hp ha hq => exec_nWriteAck hp ha hq, fun sl id s => ⟨s.nRetire_nOut sl id, fun _ => s.nRetire_nWd sl⟩,
    fun id s => ?retired, fun _ data _ err _ _ ho hq => next_by_last (exec_cReadBeat ho data err hq),
    fun _ _ _ ho hq => exec_cWriteAck ho hq⟩
  case retired =>
    obtain ⟨wd, e, hretire, hwd⟩ := s.cRetire_eq id
    rw [hretire]
    exact ⟨rfl, hwd⟩

/-! ### What no port partner may send (assumption 12) -/

/-- A verdict needs a whole frame without one. -/
theorem exec_frameVerdict_stray {ls : Fin 16} {s : State} (bad : Bool) (hp : s.phase = .ready) (hup : s.linkUp ls = true)
    (ho : (s.link ls).lVer.isOpen = true)
    (hf : ∀ f, (s.link ls).rx.find? (fun k => k.verdict.isNone) = some f → f.whole = false) :
    exec (.frameVerdict ls bad) s = .fault .strayVerdict := by
  change execFrameVerdict ls bad s = _
  cases hrx : (s.link ls).rx.find? (fun k => k.verdict.isNone) with
  | none => simp [execFrameVerdict, State.live, hp, hup, ho, hrx]
  | some f => simp [execFrameVerdict, State.live, hp, hup, ho, hrx, hf f hrx]

/-- Settles O30: each row looks for the request or the frame that the partner answers, and finds none. -/
theorem partnerErrorsStop : Obligations.PartnerErrorsStop :=
  ⟨fun _ _ data _ err _ hp hup => exec_mReadBeat_stray hp hup data err, fun _ _ _ hp hup => exec_mWriteAck_stray hp hup,
    fun _ _ data _ err _ hp ha => exec_nReadBeat_stray hp ha data err, fun _ _ _ hp ha => exec_nWriteAck_stray hp ha,
    fun _ data _ err _ ho => exec_cReadBeat_stray ho data err, fun _ _ ho => exec_cWriteAck_stray ho,
    fun _ bad _ hp hup ho => exec_frameVerdict_stray bad hp hup ho⟩

end Sys2Proof.Machine
end

section
/-! SUPPORT. SRAM_ERROR by its unit and place, PROBE and PROBE_TIMEOUT (R389, R480, R481, Table 14-4). -/
namespace Sys2Proof.Machine

/-! ### An error and its effect (R480, Table 14-4) -/

/-- The unit's effect of an uncorrectable error. -/
def State.placeError (s : State) (u : UnitId) (place : SramPlace) : State :=
  match u with
  | .slice n => s.sliceError n place
  | .ms m => s.stationError m place
  | .ls l => s.linkError l place
  | .hub => s.hubError place

/-- An uncorrectable error is counted and raises event 0x9014. -/
def State.struckAt (s : State) (u : UnitId) (addr : BitVec 32) : State :=
  (s.countSram u false).raise 0x9014 none (unitNo u) addr.toNat 0

theorem State.takesPart_of_ready {s : State} (hp : s.phase = .ready) (u : UnitId) : s.takesPart u = s.unitUp u := by
  simp only [State.takesPart, hp]

section
variable {u : UnitId} {s : State} (hp : s.phase = .ready) (hup : s.unitUp u = true) (place : SramPlace) (addr : BitVec 32)
include hp hup

theorem exec_sramError_corrected : exec (.sramError u true place addr) s = .next (s.countSram u true) := by
  change execSramError u true place addr s = _
  simp [execSramError, State.takesPart_of_ready hp, hup]

theorem exec_sramError_uncorrectable :
    exec (.sramError u false place addr) s = .next ((s.struckAt u addr).placeError u place) := by
  have hgo : ¬ (!s.takesPart u) = true := by simp [State.takesPart_of_ready hp, hup]
  change execSramError u false place addr s = _
  rw [execSramError, if_neg hgo]
  cases u <;> rfl

end

/-! ### The places of a slice -/

theorem finOf_val {n : Nat} (b : Fin n) : finOf n b.1 = some b := dif_pos b.2

section
variable (s : State) (n : Fin 132)

/-- Counting an error leaves the slice's shares. -/
theorem State.struckAt_share (addr : BitVec 32) (slot : Nat) :
    ((s.struckAt (.slice n) addr).slice n).share slot = (s.slice n).share slot := by
  have hslice : (s.struckAt (.slice n) addr).slice n = { s.slice n with
      corrected := (s.slice n).corrected + b2n false, uncorrected := (s.slice n).uncorrected + b2n (!false) } :=
    vmod_same s.slices n _
  rw [hslice]
  rfl

/-- A struck stitch of a round is zeroed, and counted as often as it held a tile (R479). -/
theorem State.sliceError_roundStitch {slot : Nat} {g : Share} (hg : (s.slice n).share slot = some g) (r : Role) (pos : Nat) :
    s.sliceError n (.roundStitch slot r pos) = (s.modShare n slot (fun h =>
      { h with rounds := h.rounds.map (fun k => if k.role == r then k.modSlot pos zeroSlot else k) })).countIntegrity
        (sumNat (g.rounds.map (fun k => (k.slots.filter (fun q => k.role == r && q.pos == pos && q.holdsTile)).length))) := by
  simp only [State.sliceError, hg]

theorem State.sliceError_accumulator (b : Fin 2) (set way : Nat) :
    s.sliceError n (.accumulator b.1 set way) = s.modSlice n (fun x =>
      { x with banks := vmod x.banks b (fun k => { k with sets := k.sets.map (fun e =>
          if e.1 == set then (e.1, modifyAt way (fun a => { a with poison := true }) e.2) else e) }) }) := by
  simp only [State.sliceError, finOf_val]

end

theorem State.hubError_stepEntry {s : State} {slot : Nat} {x : Step} (hx : s.step? slot = some x) :
    s.hubError (.stepEntry slot) = s.abortCtx x.ctx 0x01 := by
  simp only [State.hubError, hx]

theorem sramErrors : Claims.SramErrors := by
  intro u addr s hp hup hit
  have hexec : ∀ place, exec (.sramError u false place addr) s = .next (hit.placeError u place) :=
    fun place => exec_sramError_uncorrectable hp hup place addr
  refine ⟨fun place => exec_sramError_corrected hp hup place addr, ?slice, ?station, ?link, ?hub⟩
  case slice =>
    rintro n rfl
    exact ⟨fun _ => rfl, hexec _, fun _ => hexec _,
      fun slot pos r g hg => (hexec _).trans (congrArg _
        (hit.sliceError_roundStitch n ((s.struckAt_share n addr slot).trans hg) r pos)),
      fun b set way => (hexec _).trans (congrArg _ (hit.sliceError_accumulator n b set way))⟩
  case station =>
    rintro m rfl
    exact ⟨hexec _, hexec _, fun _ _ => hexec _⟩
  case link =>
    rintro l rfl
    exact ⟨hexec _, fun _ => hexec _⟩
  case hub =>
    rintro rfl
    exact ⟨hexec _, fun _ => hexec _, fun slot x hx => (hexec _).trans (congrArg _ (State.hubError_stepEntry hx)),
      fun _ => hexec _, fun _ => hexec _⟩

/-! ### Probes (R481) -/

section
variable (s : State)

/-- One transaction sent to several units that are up: each gets it, and the network grows by these alone. -/
theorem State.each_post {src : UnitId} {b : Body} {us : List UnitId} (hup : ∀ u ∈ us, s.unitUp u = true) :
    ∃ more, s.each us (fun t u => t.post src u b) = { s with net := s.net ++ more } ∧
      ∀ u ∈ us, ∃ q ∈ more, q.src = src ∧ q.dst = u ∧ q.body = b := by
  unfold State.each
  induction us generalizing s with
  | nil => exact ⟨[], by simp, by simp⟩
  | cons u us ih =>
    obtain ⟨hu, hus⟩ := List.forall_mem_cons.1 hup
    have hpost : s.post src u b = { s with net := s.net ++ ((s.partsOf src u b).map (s.partTxn src u b) ++ [s.txn src u b]) } :=
      if_pos hu
    obtain ⟨more, heach, hmore⟩ := ih (s.post src u b) fun v hv => by
      rw [hpost]
      cases v <;> exact hus _ hv
    rw [List.foldl_cons, heach, hpost]
    refine ⟨_, by rw [List.append_assoc], List.forall_mem_cons.2 ⟨?_, fun v hv => ?_⟩⟩
    · exact ⟨s.txn src u b, by simp, rfl, rfl, rfl⟩
    · obtain ⟨q, hq, hsame⟩ := hmore v hv
      exact ⟨q, List.mem_append_right _ hq, hsame⟩

theorem State.slice_mem_probeUnits (n : Fin 132) : .slice n ∈ s.probeUnits ↔ (s.slice n).alive = true := by
  simp [State.probeUnits, allFin]

theorem State.ms_mem_probeUnits (m : Fin 12) : .ms m ∈ s.probeUnits ↔ s.stationUp m = true := by
  simp [State.probeUnits, allFin]

theorem State.ls_mem_probeUnits (l : Fin 16) : .ls l ∈ s.probeUnits ↔ s.linkUp l = true := by
  simp [State.probeUnits, allFin]

/-- The hub does not probe itself. -/
theorem State.unitUp_of_mem_probeUnits {u : UnitId} (h : u ∈ s.probeUnits) : s.unitUp u = true := by
  cases u with
  | slice n => exact (s.slice_mem_probeUnits n).1 h
  | ms m => exact (s.ms_mem_probeUnits m).1 h
  | ls l => exact (s.ls_mem_probeUnits l).1 h
  | hub => simp [State.probeUnits] at h

end

theorem exec_probe {s : State} (hp : s.phase = .ready) : exec .probe s = .next
    ((s.each s.probeUnits (fun t u => t.post .hub u (.ctl .probe))).modHub (fun h => { h with probed := s.probeUnits })) := by
  change execProbe s = _
  simp [execProbe, State.live, hp]

theorem exec_probeTimeout {u : UnitId} {s : State} (hp : s.phase = .ready) (hu : u ∈ s.hub.probed) :
    exec (.probeTimeout u) s = .next ((s.modHub (fun h => { h with probed := h.probed.filter (· != u) })).failUnit u) := by
  change execProbeTimeout u s = _
  simp [execProbeTimeout, State.live, hp, hu]

theorem probes : Claims.Probes := by
  refine ⟨fun s hp => ?_, fun s => ⟨s.slice_mem_probeUnits, s.ms_mem_probeUnits, s.ls_mem_probeUnits⟩,
    fun _ _ => exec_probeTimeout⟩
  obtain ⟨more, heach, hmore⟩ := s.each_post (src := .hub) (b := .ctl .probe) fun u => s.unitUp_of_mem_probeUnits
  refine ⟨_, exec_probe hp, rfl, ?_⟩
  rw [heach]
  refine ⟨fun u hu => ?_, ⟨more, rfl⟩, rfl, rfl, State.sameStores_refl.modHub _⟩
  obtain ⟨q, hq, hsame⟩ := hmore u hu
  exact ⟨q, List.mem_append_right _ hq, hsame⟩

/-- Settles O59: an uncorrectable error has its place's effect on its unit; every unit that is up is probed, and
fails unanswered. -/
theorem errorsAndProbes : Obligations.ErrorsAndProbes := ⟨sramErrors, probes⟩

end Sys2Proof.Machine
end

section
/-! SUPPORT. What every command leaves: a command makes its own event (a pin's edge, service beginning, a message to the tally)
and then does only what `Keeps` says; a start or a reset sets the block anew and leaves the tally's figures, the queue, the cycle
count and the free values drawn (R460 to R463, R483, R490, R498, R505; Tables 11-17 and 11-19; assumptions 2, 3). -/
namespace Sys2Proof.Machine

section
variable {s t : State} {c : Instr}

/-! ### A command's own event -/

/-- `s` with the pin, or the phase, that the event `c` stands for sets, before the block answers to it. -/
def State.edge (s : State) : Instr → State
  | .sbReady => { s with phase := if s.phase = .starting then .ready else s.phase }
  | .thermalTrip => { s with pins := { s.pins with thermal := true } }
  | .thermalTripClear => { s with pins := { s.pins with thermal := false } }
  | .opGrantChange g => { s with pins := { s.pins with opGrant := g } }
  | .hLockedFall => { s with pins := { s.pins with hLocked := false } }
  | .hLockedRise => { s with pins := { s.pins with hLocked := true } }
  | .tallySupplyLoss => { s with pins := { s.pins with tallySupply := false } }
  | .tallySupplyReturn => { s with pins := { s.pins with tallySupply := true } }
  | _ => s

theorem execSbReady_keeps : KeepsX (s.edge .sbReady) (execSbReady s) := by
  by_cases hp : s.phase = .starting
  · have hready : Keeps (s.edge .sbReady) { s with phase := .ready, pins := { s.pins with ready := true } } := by
      simp only [State.edge, hp, if_true]
      exact { Keeps.refl { s with phase := .ready } with }
    have hmeasured : ∀ ms : List (Fin 12), Keeps (s.edge .sbReady)
        (State.each _ ms (fun t m => t.failStation m)).measureNow.latch.settleOpReq :=
      fun ms => (hready.each fun _ _ k => k.failStation).measureNow.latch.settleOpReq
    rw [execSbReady, if_neg (by simp [hp])]
    exact KeepsX.next (Keeps.ite _ (hmeasured _).raise (hmeasured _))
  · rw [execSbReady, if_pos (by simp [hp]), State.edge, if_neg hp]
    exact KeepsX.next (Keeps.refl s)

theorem execThermalTrip_keeps : KeepsX (s.edge .thermalTrip) (execThermalTrip s) := by
  have k := Keeps.refl (s.edge .thermalTrip)
  unfold execThermalTrip
  split
  · exact KeepsX.next k
  · exact KeepsX.next k.count.raise.settleOpReq

theorem execThermalTripClear_keeps : KeepsX (s.edge .thermalTripClear) (execThermalTripClear s) :=
  have k := Keeps.refl (s.edge .thermalTripClear)
  KeepsX.next (Keeps.ite _ k.settleOpReq k)

theorem execOpGrantChange_keeps (g : BitVec 2) : KeepsX (s.edge (.opGrantChange g)) (execOpGrantChange g s) :=
  have k := Keeps.refl (s.edge (.opGrantChange g))
  KeepsX.next (Keeps.ite _ k.raise k)

theorem execHLockedFall_keeps : KeepsX (s.edge .hLockedFall) (execHLockedFall s) :=
  have k := Keeps.refl (s.edge .hLockedFall)
  KeepsX.next (Keeps.ite _ k.abortKeyed.zeroAllKeys.raise k)

theorem State.edge_of_plain (hc : plain c = true) : s.edge c = s := by
  cases c
  case sbReady | thermalTrip | thermalTripClear | opGrantChange | hLockedFall | hLockedRise | tallySupplyLoss
    | tallySupplyReturn => cases hc
  all_goals rfl

/-- A command that neither sets the block anew nor is the tally's makes its event and does what `Keeps` says. -/
theorem exec_keeps_edge (hr : restartRow c = false) (ht : tallyRow c = false) : KeepsX (s.edge c) (exec c s) := by
  by_cases hplain : plain c = true
  · rw [State.edge_of_plain hplain]
    exact exec_keeps hplain
  cases c
  case sbReady => exact execSbReady_keeps
  case thermalTrip => exact execThermalTrip_keeps
  case thermalTripClear => exact execThermalTripClear_keeps
  case opGrantChange g => exact execOpGrantChange_keeps g
  case hLockedFall => exact execHLockedFall_keeps
  case hLockedRise => exact KeepsX.next (Keeps.refl _)
  case startInstant | reset | supplyLoss => cases hr
  case tallyCount | tallyOpenMessage | epochEnd | tallyRequest | tallyRecordOffer | tPortOpen | tallySupplyLoss
    | tallySupplyReturn => cases ht
  all_goals exact absurd rfl hplain

/-! ### The tally's own rows -/

/-- The tally changed, and beside it only the counts on their way, the hub's mirror of the record and its energy count. -/
theorem Keeps.ofTally {y : Tally} {hub : Hub} {wire : List TallyMsg} (hh : hub.spares = s.hub.spares) :
    Keeps { s with tally := y } { s with tally := y, hub := hub, tallyWire := wire } :=
  (Keeps.refl { s with tally := y }).fields hh

theorem execTallySupplyReturn_keeps (h : execTallySupplyReturn s = .next t) :
    Keeps { s.edge .tallySupplyReturn with tally := t.tally } t := by
  unfold execTallySupplyReturn at h
  cases hs : s.pins.tallySupply with
  | true =>
    rw [if_pos hs] at h
    cases h
    exact { Keeps.refl s with tallySupply := hs }
  | false =>
    rw [if_neg (by simp [hs])] at h
    cases h
    exact Keeps.refl _

theorem State.spendTally_tally (n : Nat) : (s.spendTally n).tally = s.tally := by
  unfold State.spendTally
  split <;> rfl

/-- Beats on the T-port change the energy count alone. -/
theorem Keeps.modTally_spendTally {f : Tally → Tally} {n : Nat} :
    Keeps { s with tally := ((s.modTally f).spendTally n).tally } ((s.modTally f).spendTally n) := by
  rw [State.spendTally_tally]
  exact (Keeps.refl _).spendTally

theorem tallyRow_keeps (hc : tallyRow c = true) (h : exec c s = .next t) : Keeps { s.edge c with tally := t.tally } t := by
  cases c
  case tallySupplyLoss => cases h; exact Keeps.refl _
  case tallySupplyReturn => exact execTallySupplyReturn_keeps h
  case tallyCount | tallyOpenMessage | epochEnd | tPortOpen =>
    simp only [exec, execTallyCount, execTallyOpenMessage, execEpochEnd, execTPortOpen] at h
    split at h <;> cases h <;> exact Keeps.ofTally rfl
  case tallyRequest | tallyRecordOffer =>
    simp only [exec, execTallyRequest, execTallyRecordOffer] at h
    split at h <;> cases h
    · exact Keeps.refl s
    · exact Keeps.modTally_spendTally
  all_goals cases hc

/-- A command that does not set the block anew makes its event, with what it does to the tally, and else what `Keeps` says. -/
theorem exec_keeps_but_tally (hr : restartRow c = false) (h : exec c s = .next t) :
    Keeps { s.edge c with tally := t.tally } t := by
  cases ht : tallyRow c with
  | true => exact tallyRow_keeps ht h
  | false => exact { exec_keeps_edge hr ht t h with tally := rfl }

/-! ### A start or a reset -/

/-- What a start or a reset leaves: the queue, the cycle count, free values drawn and the tally's figures. -/
structure State.SetAnew (s t : State) : Prop where
  queue : t.pending = s.pending
  clock : t.now = s.now
  free : s.freeCtr ≤ t.freeCtr
  tally : t.tally.figures = s.tally.figures

theorem State.drawNear_setAnew (rom : List (BitVec 32)) : s.SetAnew (s.drawNear rom).2 := by
  unfold State.drawNear
  split
  · exact ⟨rfl, rfl, Nat.le_refl _, rfl⟩
  · exact ⟨rfl, rfl, Nat.le_succ _, rfl⟩

theorem execStartInstant_setAnew {rom : List (BitVec 32)} (h : execStartInstant rom s = .next t) : s.SetAnew t := by
  by_cases hp : s.phase = .held
  · have hraised : ∀ u : State, Keeps u
        (u.each (romBadWords rom) (fun w i => w.raise 0x900D none 0xC0 i (romWord rom i))) :=
      fun u => (Keeps.refl u).each fun _ _ k => k.raise
    rw [execStartInstant_of_held hp] at h
    cases h
    obtain ⟨hqueue, hclock, hfree, htally⟩ := s.drawNear_setAnew rom
    have k := hraised ((s.drawNear rom).2.started rom (s.drawNear rom).1)
    exact ⟨k.queue.trans hqueue, k.clock.trans hclock, hfree.trans k.free, k.tally.trans htally⟩
  · rw [execStartInstant, if_pos (by simp [hp])] at h
    cases h
    exact ⟨rfl, rfl, Nat.le_refl _, rfl⟩

theorem restartRow_setAnew (hr : restartRow c = true) (h : exec c s = .next t) : s.SetAnew t := by
  cases c
  case startInstant rom => exact execStartInstant_setAnew h
  case reset | supplyLoss => cases h; exact ⟨rfl, rfl, Nat.le_refl _, rfl⟩
  all_goals cases hr

/-! ### What an event leaves -/

theorem State.edge_pending : (s.edge c).pending = s.pending := by unfold State.edge; split <;> rfl

theorem State.edge_now : (s.edge c).now = s.now := by unfold State.edge; split <;> rfl

theorem State.edge_freeCtr : (s.edge c).freeCtr = s.freeCtr := by unfold State.edge; split <;> rfl

theorem State.edge_slice (n : Fin 132) : (s.edge c).slice n = s.slice n := by unfold State.edge; split <;> rfl

theorem State.edge_ident : (s.edge c).ident = s.ident := by unfold State.edge; split <;> rfl

theorem State.edge_tally : (s.edge c).tally = s.tally := by unfold State.edge; split <;> rfl

theorem State.edge_supplyValid : (s.edge c).pins.supplyValid = s.pins.supplyValid := by unfold State.edge; split <;> rfl

theorem State.edge_opReq : (s.edge c).pins.opReq = s.pins.opReq := by unfold State.edge; split <;> rfl

theorem State.edge_phase : (s.edge c).phase = s.phase ∨
    (c = .sbReady ∧ s.phase = .starting ∧ (s.edge c).phase = .ready) := by
  cases c
  case sbReady => by_cases hp : s.phase = .starting <;> simp [State.edge, hp]
  all_goals exact .inl rfl

theorem State.edge_tallySupply (hl : c ≠ .tallySupplyLoss) (hr : c ≠ .tallySupplyReturn) :
    (s.edge c).pins.tallySupply = s.pins.tallySupply := by
  cases c
  case tallySupplyLoss => exact absurd rfl hl
  case tallySupplyReturn => exact absurd rfl hr
  all_goals rfl

theorem State.edge_thermal (hr : c ≠ .thermalTrip) (hf : c ≠ .thermalTripClear) :
    (s.edge c).pins.thermal = s.pins.thermal := by
  cases c
  case thermalTrip => exact absurd rfl hr
  case thermalTripClear => exact absurd rfl hf
  all_goals rfl

theorem State.edge_hLocked (hf : c ≠ .hLockedFall) (hr : c ≠ .hLockedRise) :
    (s.edge c).pins.hLocked = s.pins.hLocked := by
  cases c
  case hLockedFall => exact absurd rfl hf
  case hLockedRise => exact absurd rfl hr
  all_goals rfl

theorem State.edge_opGrant (hg : ∀ g, c ≠ .opGrantChange g) : (s.edge c).pins.opGrant = s.pins.opGrant := by
  cases c
  case opGrantChange g => exact absurd rfl (hg g)
  all_goals rfl

/-- No event but the level's fall takes a thermal trip away. -/
theorem State.edge_thermal_of_trip (hc : c ≠ .thermalTripClear) (h : s.pins.thermal = true) :
    (s.edge c).pins.thermal = true := by
  by_cases ht : c = .thermalTrip
  · subst ht
    rfl
  · exact (State.edge_thermal ht hc).trans h

end

/-! ### The obligations -/

/-- Settles O1: on a queue that is not empty a step is its front command on the rest. -/
theorem stepRunsFront : Obligations.StepRunsFront := by
  intro c rest s hq
  simp only [step, hq]

theorem commandsKeepQueueAndClock : Claims.CommandsKeepQueueAndClock := by
  intro c s t h
  cases hr : restartRow c with
  | true => exact ⟨(restartRow_setAnew hr h).queue, (restartRow_setAnew hr h).clock⟩
  | false =>
    have k := exec_keeps_but_tally hr h
    exact ⟨k.queue.trans State.edge_pending, k.clock.trans State.edge_now⟩

theorem freeValuesInOrder : Claims.FreeValuesInOrder := by
  intro c s t h
  cases hr : restartRow c with
  | true => exact (restartRow_setAnew hr h).free
  | false =>
    have hfree : (s.edge c).freeCtr ≤ t.freeCtr := (exec_keeps_but_tally hr h).free
    rwa [State.edge_freeCtr] at hfree

/-- Settles O5: no event touches the queue, the cycle count or the free values, and neither do a start and a reset. -/
theorem queueClockAndFreeValues : Obligations.QueueClockAndFreeValues := ⟨commandsKeepQueueAndClock, freeValuesInOrder⟩

/-- Settles O7: a command's event changes no slice, and what follows it keeps the power state of a dead one. -/
theorem deadSliceStaysDead : Obligations.DeadSliceStaysDead := by
  intro c s t n hr hdead h
  have hslice : State.slice { s.edge c with tally := t.tally } n = s.slice n := State.edge_slice n
  have hkept := (exec_keeps_but_tally hr h).dead n
  rw [hslice] at hkept
  exact hkept hdead

theorem phaseAndIdentity : Claims.PhaseAndIdentity := by
  intro c s t hr h
  have k := exec_keeps_but_tally hr h
  refine ⟨k.ident.trans State.edge_ident, ?_⟩
  rcases k.phase with hedge | hfailed
  · rcases State.edge_phase (s := s) (c := c) with hsame | ⟨hc, hs, hready⟩
    · exact .inl (hedge.trans hsame)
    · exact .inr (.inr ⟨hc, hs, hedge.trans hready⟩)
  · exact .inr (.inl hfailed)

theorem inputPinsHold : Claims.InputPinsHold := by
  intro c s t hr h
  have k := exec_keeps_but_tally hr h
  exact ⟨k.supply.trans State.edge_supplyValid, fun hl hb => k.tallySupply.trans (State.edge_tallySupply hl hb),
    fun hu hf => k.thermal.trans (State.edge_thermal hu hf), fun hf hb => k.locked.trans (State.edge_hLocked hf hb),
    fun hg => k.grant.trans (State.edge_opGrant hg)⟩

/-- Settles O8: an event sets the one pin, or the phase, that it stands for. -/
theorem phaseIdentityAndPins : Obligations.PhaseIdentityAndPins := ⟨phaseAndIdentity, inputPinsHold⟩

/-- A tally with the figures of another differs from it in the flags of Table 14-10 alone. -/
theorem Tally.eq_of_figures {x y : Tally} (h : y.figures = x.figures) :
    y = { x with resetSeen := y.resetSeen, supplyLost := y.supplyLost, notReady := y.notReady } := by
  cases x
  cases y
  simp only [Tally.figures, Tally.mk.injEq] at h
  simpa using h

theorem exec_keeps_figures {c : Instr} {s t : State} (hc : tallyRow c = false) (h : exec c s = .next t) :
    t.tally.figures = s.tally.figures := by
  cases hr : restartRow c with
  | true => exact (restartRow_setAnew hr h).tally
  | false => exact (exec_keeps_edge hr hc t h).tally.trans (congrArg _ State.edge_tally)

/-- The return of the tally's supply begins with the tally of its reset (R505). -/
theorem exec_tallySupplyReturn {s : State} (hs : s.pins.tallySupply = false) : exec .tallySupplyReturn s =
    .next { s with pins := { s.pins with tallySupply := true }, tally := Tally.reset } :=
  if_neg (by simp [hs])

/-- Settles O6: loss and return give the tally of its reset, and no other command changes its figures. -/
theorem tallyOutlivesBlock : Obligations.TallyOutlivesBlock :=
  ⟨fun _ => rfl, fun _ hs => ⟨_, exec_tallySupplyReturn hs, rfl, rfl, rfl, rfl⟩,
    fun _ _ _ hc h => Tally.eq_of_figures (exec_keeps_figures hc h)⟩

end Sys2Proof.Machine
end

section
/-! SUPPORT. The pins' rows: RESET and SUPPLY_LOSS, the thermal trip, and what the governor requests and is granted
(R455 to R459, R463, R498, R505). -/
namespace Sys2Proof.Machine

/-! ### RESET and SUPPLY_LOSS -/

theorem State.toReset_sameStores (s : State) : s.sameStores s.toReset := ⟨fun _ => rfl, fun _ _ => rfl⟩

/-- Settles O13: both are `State.toReset` with the flags of Table 14-10 set in the tally's epoch. -/
theorem resetLosesState : Obligations.ResetLosesState := fun s =>
  ⟨⟨_, rfl, rfl, rfl, rfl, rfl, rfl, rfl, rfl, rfl, s.toReset_sameStores, rfl⟩,
    ⟨_, rfl, rfl, rfl, rfl, rfl, rfl, rfl, rfl, rfl, rfl, s.toReset_sameStores, rfl⟩⟩

/-! ### The thermal pin (R498) -/

section
variable {s : State}

theorem State.running_of_phase (hp : s.phase = .ready ∨ s.phase = .starting) : s.running = true := by
  rcases hp with hp | hp <;> simp [State.running, State.live, hp]

/-- While the thermal pin is high the governor requests the lowest point (R458). -/
theorem State.settleOpReq_of_thermal (h : s.pins.thermal = true) :
    s.settleOpReq = { s with pins := { s.pins with opReq := 2 } } := by
  simp [State.settleOpReq, h]

theorem State.settleOpReq_of_cool (h : s.pins.thermal = false) : s.settleOpReq = { s with pins := { s.pins with
    opReq := if s.hub.opIdle then 2 else BitVec.ofNat 2 s.hub.dict.opPointMax.toNat } } := by
  simp [State.settleOpReq, h]

theorem exec_thermalTrip_rises (hp : s.phase = .ready ∨ s.phase = .starting) (h : s.pins.thermal = false) :
    exec .thermalTrip s = .next
      (({ s with pins := { s.pins with thermal := true, opReq := 2 } } : State).count
        (fun c => { c with thermalTrips := c.thermalTrips + 1 })
        |>.raise 0x9015 none 0xC0 0 0) := by
  change execThermalTrip s = _
  rw [execThermalTrip, if_neg (by simp [State.running_of_phase hp, h])]
  exact congrArg _ (State.settleOpReq_of_thermal rfl)

theorem exec_thermalTrip_high (h : s.pins.thermal = true) : exec .thermalTrip s = .next s := by
  change execThermalTrip s = _
  rw [execThermalTrip, if_pos (by simp [h]), ← h]

theorem exec_thermalTripClear (hp : s.phase = .ready) : exec .thermalTripClear s = .next
    { s with pins := { s.pins with
        thermal := false
        opReq := if s.hub.opIdle then 2 else BitVec.ofNat 2 s.hub.dict.opPointMax.toNat } } := by
  change execThermalTripClear s = _
  rw [execThermalTripClear, if_pos (by simp [State.live, hp])]
  exact congrArg _ (State.settleOpReq_of_cool rfl)

/-- While the level is high no command but its fall, a start or a reset takes the request away from 2. -/
theorem exec_keeps_trip {t : State} {c : Instr} (hr : restartRow c = false) (hc : c ≠ .thermalTripClear)
    (ht : s.pins.thermal = true) (h2 : s.pins.opReq = 2) (h : exec c s = .next t) :
    t.pins.thermal = true ∧ t.pins.opReq = 2 := by
  have k := exec_keeps_but_tally hr h
  have htrip : (s.edge c).pins.thermal = true := State.edge_thermal_of_trip hc ht
  exact ⟨k.thermal.trans htrip, k.request htrip (State.edge_opReq.trans h2)⟩

end

/-- Settles O14: what the pin's two edges do, and that every other command keeps the level and the request. -/
theorem thermalTrip : Obligations.ThermalTrip :=
  ⟨fun _ => exec_thermalTrip_rises, fun _ => exec_thermalTrip_high, fun _ _ _ => exec_keeps_trip, fun _ => exec_thermalTripClear⟩

/-! ### Operating points (R456, R458, R459) -/

section
variable {s : State}

theorem exec_opGrantChange {g : BitVec 2} (hp : s.phase = .ready ∨ s.phase = .starting) (hg : g ≠ s.pins.opGrant) :
    exec (.opGrantChange g) s = .next
      (({ s with pins := { s.pins with opGrant := g } } : State).raise 0x9018 none 0xC0 g.toNat s.pins.opGrant.toNat) := by
  change execOpGrantChange g s = _
  rw [execOpGrantChange, if_pos (by simp [State.running_of_phase hp, hg])]

/-- Idle, the governor requests the lowest point whatever the thermal pin is. -/
theorem State.settleOpReq_of_idle (h : s.hub.opIdle = true) :
    s.settleOpReq = { s with pins := { s.pins with opReq := 2 } } := by
  simp [State.settleOpReq, h]

theorem exec_opRequestIdle (hp : s.phase = .ready) (hi : ∀ x ∈ s.hub.steps, x.open = false) : exec .opRequestIdle s = .next
    { s with pins := { s.pins with opReq := 2 }, hub := { s.hub with opIdle := true } } := by
  change execOpRequestIdle s = _
  rw [execOpRequestIdle, if_pos (by simpa [State.live, hp] using hi)]
  exact congrArg _ (State.settleOpReq_of_idle rfl)

end

/-- Settles O15: the grant is taken with its event, and the idle governor's request is the lowest point. -/
theorem operatingPoint : Obligations.OperatingPoint := ⟨fun _ _ => exec_opGrantChange, fun _ => exec_opRequestIdle⟩

end Sys2Proof.Machine
end

section
/-! SUPPORT. The tally's rows: the messages it takes, what the T-port answers and offers, and an epoch's end (R474, R499 to R504,
Tables 14-10 and 14-11; assumptions 6 and 35). -/
namespace Sys2Proof.Machine

/-! ### Messages to the tally (R499, R503) -/

section
variable {s : State} {m : TallyMsg} {rest : List TallyMsg}

theorem takeMsg_head {p : TallyMsg → Bool} (h : p m = true) : takeMsg p (m :: rest) = some (m, rest) := by simp [takeMsg, h]

/-- A count at the front of what waits reaches the tally. -/
theorem exec_tallyCount_front {u : UnitId} (hw : s.tallyWire = m :: rest) (hm : m.isCountOf u = true) :
    exec (.tallyCount u) s = .next { s with tallyWire := rest, tally := s.tally.take m } := by
  change execTallyCount u s = _
  rw [execTallyCount, hw, takeMsg_head hm]

/-- An open message at the front of what waits reaches the tally. -/
theorem exec_tallyOpenMessage_front (hw : s.tallyWire = m :: rest) (hm : m.isOpened = true) :
    exec .tallyOpenMessage s = .next { s with tallyWire := rest, tally := s.tally.take m } := by
  change execTallyOpenMessage s = _
  rw [execTallyOpenMessage, hw, takeMsg_head hm]

variable {y : Tally}

/-- Before the T-port is open a message counts nothing (assumption 35). -/
theorem Tally.take_of_closed (h : y.isOpen = false) (m : TallyMsg) : y.take m = y := if_pos (by simp [h])

theorem Tally.take_count (h : y.isOpen = true) (u : UnitId) (c : Fin 64) (q a : Nat) :
    y.take (.count u c q a) = { y with entries := vmod y.entries c (fun e => e.add q a) } := if_neg (by simp [h])

theorem Tally.take_opened (h : y.isOpen = true) (c : Fin 64) (tag : BitVec 16) :
    y.take (.opened c tag) = { y with entries := vmod y.entries c (fun e =>
      { e with tag := tag, opened := true, merged := e.merged || e.active, serial := e.serial + 1 }) } := if_neg (by simp [h])

end

/-! ### Requests and offers (R504) -/

section
variable {s : State} {epoch : BitVec 64}

/-- A request waits for its answer behind the records and answers before it. -/
theorem exec_tallyRequest (h : s.tally.isOpen = true) : exec (.tallyRequest epoch) s = .next
    ((s.modTally (fun t => { t with offers := t.offers ++
      [if s.tally.kept.any (fun k => k.1 == epoch) then .record epoch else .allOnes] })).spendTally 1) :=
  if_neg (by simp [h])

theorem exec_tallyRequest_closed (h : s.tally.isOpen = false) : exec (.tallyRequest epoch) s = .next s :=
  if_pos (by simp [h])

theorem exec_tallyRequest_kept (h : s.tally.isOpen = true) (hk : ∃ r, (epoch, r) ∈ s.tally.kept) :
    exec (.tallyRequest epoch) s = .next
      ((s.modTally (fun t => { t with offers := t.offers ++ [.record epoch] })).spendTally 1) := by
  obtain ⟨r, hr⟩ := hk
  have hany : s.tally.kept.any (fun k => k.1 == epoch) = true := List.any_eq_true.2 ⟨_, hr, beq_self_eq_true _⟩
  rw [exec_tallyRequest h, if_pos hany]

theorem exec_tallyRequest_unknown (h : s.tally.isOpen = true) (hk : ∀ r, (epoch, r) ∉ s.tally.kept) :
    exec (.tallyRequest epoch) s = .next
      ((s.modTally (fun t => { t with offers := t.offers ++ [.allOnes] })).spendTally 1) := by
  have hany : ¬ s.tally.kept.any (fun k => k.1 == epoch) = true := by
    rw [List.any_eq_true]
    rintro ⟨⟨e, r⟩, hr, he⟩
    obtain rfl := beq_iff_eq.1 he
    exact hk r hr
  rw [exec_tallyRequest h, if_neg hany]

variable {rest : List TallyOffer}

theorem exec_tallyRecordOffer_allOnes (h : s.tally.offers = .allOnes :: rest) : exec .tallyRecordOffer s = .next
    ((s.modTally (fun t => { t with offers := rest, lastOffered := List.replicate 8 0xFF#8 })).spendTally 1) := by
  change execTallyRecordOffer s = _
  have hbeats : ceilDiv (List.replicate 8 0xFF#8).length 8 = 1 := by decide
  rw [execTallyRecordOffer, h]
  simp only [hbeats]

theorem exec_tallyRecordOffer_record {r : Bytes} (h : s.tally.offers = .record epoch :: rest)
    (hk : s.tally.kept.find? (fun k => k.1 == epoch) = some (epoch, r)) : exec .tallyRecordOffer s = .next
    ((s.modTally (fun t => { t with offers := rest, lastOffered := r })).spendTally (ceilDiv r.length 8)) := by
  change execTallyRecordOffer s = _
  rw [execTallyRecordOffer, h]
  simp only [hk]
  rfl

end

/-- Settles O55: a message does what the tally's taking of it does; a request's answer waits its turn, and the first offer goes. -/
theorem tallyMessages : Obligations.TallyMessages := by
  refine ⟨fun u m rest s hopen hw => ⟨fun hm => ?closedCount, fun hm => ?closedOpened, fun _ => exec_tallyRequest_closed hopen⟩,
    fun u c q a rest s hopen hw => ?count, fun c tag rest s hopen hw => ?opened,
    fun epoch s hopen => ⟨exec_tallyRequest_kept hopen, exec_tallyRequest_unknown hopen⟩,
    fun _ _ => exec_tallyRecordOffer_allOnes, fun _ _ _ _ => exec_tallyRecordOffer_record⟩
  case closedCount => rw [exec_tallyCount_front hw hm, Tally.take_of_closed hopen]
  case closedOpened => rw [exec_tallyOpenMessage_front hw hm, Tally.take_of_closed hopen]
  case count => rw [exec_tallyCount_front hw (beq_self_eq_true u), Tally.take_count hopen]
  case opened => rw [exec_tallyOpenMessage_front hw rfl, Tally.take_opened hopen]

/-! ### Epochs (R500, R501, R504) -/

section
variable {s : State}

theorem exec_epochEnd (h : s.tally.isOpen = true) : exec .epochEnd s = .next { s with
    tally := s.tally.seal s.tally.record s.pins.ready
    hub := { s.hub with mirrorEpoch := s.tally.epoch, mirrorRecord := s.tally.record } } := if_neg (by simp [h])

theorem exec_tPortOpen (hs : s.pins.tallySupply = true) (hc : s.tally.isOpen = false) : exec .tPortOpen s = .next
    { s with tally := { Tally.reset with isOpen := true, notReady := !s.pins.ready } } := if_pos (by simp [hs, hc])

variable {y : Tally} {r : Bytes} {ready : Bool}

/-- The next epoch's entry has no count and keeps tag and serial (Table 14-11). -/
theorem Tally.seal_entry (c : Fin 64) : (y.seal r ready).entries[c.1] =
    { TallyEntry.zero with tag := (y.entries[c.1]).tag, serial := (y.entries[c.1]).serial } := Vector.getElem_map ..

/-- Only an offer whose record is no longer among those kept leaves the offers. -/
theorem Tally.seal_drops {epoch : BitVec 64} (ho : .record epoch ∈ y.offers)
    (hdrop : .record epoch ∉ (y.seal r ready).offers) (q : Bytes) : (epoch, q) ∉ (y.seal r ready).kept := by
  intro hk
  have hany : (y.seal r ready).kept.any (fun k => k.1 == epoch) = true :=
    List.any_eq_true.2 ⟨_, hk, beq_self_eq_true _⟩
  exact hdrop (List.mem_filter.2 ⟨List.mem_append_left _ ho, hany⟩)

end

/-- Settles O56: an epoch's end is `Tally.seal` with its mirror, and T_PORT_OPEN begins with the tally of its reset. -/
theorem epochsSeal : Obligations.EpochsSeal := by
  refine ⟨fun s hopen => ?ends, fun _ => exec_tPortOpen⟩
  case ends =>
    have hexec := exec_epochEnd hopen
    generalize s.tally.record = r at hexec ⊢
    refine ⟨_, hexec, rfl, rfl, rfl, rfl, rfl, rfl, ?dropped, Tally.seal_entry, rfl, rfl, rfl, State.sameStores_refl⟩
    rintro _ ho epoch rfl hdrop
    exact Tally.seal_drops ho hdrop

end Sys2Proof.Machine
end

section
/-! SUPPORT. The power states of a slice: IDLE_ENTRY, DORMANT_ENTRY, OFF_ENTRY, SLICE_WAKE and WAKE_COMPLETE, each under the
conditions it asks of the slice and of the governor (R466 to R471; that the times of R466 to R468 are not counted is assumption
16, what OFF empties assumption 74). -/
namespace Sys2Proof.Machine

section
variable {s : State} {sl : Fin 132} (hp : s.phase = .ready)
include hp

theorem exec_idleEntry (hs : (s.slice sl).power = .active) (hw : (s.slice sl).waking = false)
    (ht : (s.slice sl).noTile = true) :
    exec (.idleEntry sl) s = .next (s.modSlice sl (fun y => { y with power := .idle, idleSince := s.now })) :=
  if_pos (by simp [State.live, hp, hs, hw, ht])

omit hp in
theorem State.unused_of_idle (hs : (s.slice sl).power = .idle) (hn : (s.slice sl).shares = [])
    (hd : s.dispatching sl = false) (hw : s.swatching sl = false) : s.unused sl = true := by
  simp [State.unused, hs, hn, hd, hw]

omit hp in
/-- No mapped slice without work comes before `sl` in the governor's order (R467). -/
theorem State.no_unused_before
    (h : ∀ m, s.logicalOf m ≠ none → s.unused m = true → s.idlesBefore m sl = false) :
    (allFin 132).any (fun m => (s.logicalOf m).isSome && s.unused m && s.idlesBefore m sl) = false := by
  refine List.any_eq_false.2 fun m _ hm => ?_
  simp only [Bool.and_eq_true, Option.isSome_iff_ne_none] at hm
  obtain ⟨⟨hl, hu⟩, hb⟩ := hm
  exact Bool.false_ne_true ((h m hl hu).symm.trans hb)

theorem exec_dormantEntry (hu : s.unused sl = true) (hg : s.hub.dict.governorPinned = false)
    (hf : ∀ m, s.logicalOf m ≠ none → s.unused m = true → s.idlesBefore m sl = false)
    (hr : s.inUse = true → s.hub.dict.minReady.toNat + 1 ≤ s.readySlices) :
    exec (.dormantEntry sl) s = .next (s.modSlice sl (fun y => { y with power := .dormant })) := by
  have hready : (!s.inUse || decide (s.readySlices ≥ s.hub.dict.minReady.toNat + 1)) = true := by
    cases hi : s.inUse with
    | false => rfl
    | true => exact decide_eq_true (hr hi)
  exact if_pos (by simp only [State.live, hp, hu, hg, State.no_unused_before hf, hready]; rfl)

theorem exec_offEntry (hs : (s.slice sl).power = .dormant) (hw : (s.slice sl).waking = false) (ho : s.hub.dict.offMs ≠ 0)
    (hg : s.hub.dict.governorPinned = false) (hn : s.holdsNothing sl = true) :
    exec (.offEntry sl) s = .next (s.modSlice sl (fun y =>
      { y with power := .off, dFree := [], dFull := [], aDone := [], zeroLater := [] })) :=
  have hoff : (s.hub.dict.offMs != 0) = true := bne_iff_ne.2 ho
  if_pos (by simp only [State.live, hp, hs, hw, hoff, hg, hn]; rfl)

theorem exec_sliceWake {cause : WakeCause} (hs : (s.slice sl).power = .dormant ∨ (s.slice sl).power = .off)
    (hw : (s.slice sl).waking = false) (hl : s.logicalOf sl ≠ none) (hc : s.wakes sl cause = true) :
    exec (.sliceWake sl cause) s = .next (s.modSlice sl (fun y => { y with waking := true })) :=
  if_pos (by simp [State.live, hp, hs, hw, Option.isSome_iff_ne_none.2 hl, hc])

theorem exec_wakeComplete (hw : (s.slice sl).waking = true) (ha : (s.slice sl).alive = true) :
    exec (.wakeComplete sl) s = .next (s.modSlice sl (fun y => { y with power := .active, waking := false, zeroLater := [] })) :=
  if_pos (by simp [State.live, hp, hw, ha])

end

/-- Settles O58: each entry and each wake acts when its conditions hold. -/
theorem slicePower : Obligations.SlicePower := fun _ _ hp =>
  ⟨exec_idleEntry hp, fun hs hg hn hd hw hf hr => exec_dormantEntry hp (State.unused_of_idle hs hn hd hw) hg hf hr,
    exec_offEntry hp, fun _ => exec_sliceWake hp, exec_wakeComplete hp⟩

end Sys2Proof.Machine
end

section
/-! SUPPORT. The first checks of Table 12-4, in their order: the op, the object, its type, its access and the right to write it
(R436, R437). -/
namespace Sys2Proof.Machine

section
variable {s : State} {f : HReq} {rot : Bool} {o : Obj} (hp : s.phase = .ready)
include hp

/-- An op outside 1 to 4 is refused before any object is looked for. -/
theorem State.judge_of_badOp (hop : f.op = 0 ∨ 4 < f.op) : s.judge f rot = 0x43 := by
  have hbad : (!(1 ≤ f.op && f.op ≤ 4)) = true := by
    simp only [Bool.not_eq_true', Bool.and_eq_false_iff, decide_eq_false_iff_not]
    omega
  simp only [State.judge, hp, hbad, if_true]
  rfl

/-- For a block in service and an op of Table 12-3 the object is looked for first. -/
theorem State.judge_of_unassigned (h1 : 1 ≤ f.op) (h4 : f.op ≤ 4) (ho : objOf s.hub.mirrorRecord.length f.idx f.sub = none) :
    s.judge f rot = 0x41 := by
  simp [State.judge, hp, h1, h4, ho]

variable (hop : f.op = 2 ∨ f.op = 4) (ho : objOf s.hub.mirrorRecord.length f.idx f.sub = some o) (ht : typeOk o f = true)
include hop ho ht

omit hp ho ht in
theorem HReq.writes_of_op : f.writes = true ∧ 1 ≤ f.op ∧ f.op ≤ 4 := by
  rcases hop with h | h <;> simp [HReq.writes, h]

theorem State.judge_of_readOnly (ha : o.acc = .ro) : s.judge f rot = 0x42 := by
  obtain ⟨hw, h1, h4⟩ := HReq.writes_of_op hop
  simp [State.judge, hp, h1, h4, ho, ht, hw, ha]

/-- A write to a root-of-trust object without h_rot is refused before its window and its value are looked at. -/
theorem State.judge_of_notRot (ha : o.acc = .rws) : s.judge f false = 0x46 := by
  obtain ⟨hw, h1, h4⟩ := HReq.writes_of_op hop
  simp [State.judge, hp, h1, h4, ho, ht, hw, ha]

end

/-- Settles O50: each answer is that of the first check that fails, whatever the later ones find. -/
theorem frameChecks : Obligations.FrameChecks :=
  ⟨fun _ _ _ => State.judge_of_badOp, fun _ _ _ => State.judge_of_unassigned, fun _ _ _ _ => State.judge_of_readOnly,
    fun _ _ _ => State.judge_of_notRot⟩

end Sys2Proof.Machine
end
